-- ==== Sys2Proof/Word.lean ====
section
/-! DEFINITION. The octet, the unit of every frame and record of the part (section 12), and the signed reading of a field. -/

namespace Sys2Proof

/-- One octet of a frame, of a record or of the configuration image (R197). -/
abbrev Byte := BitVec 8

/-- A string of octets, first octet first. -/
abbrev Octets := List Byte

/-- The octet holding a small number; a number of 256 or more keeps its low eight bits. -/
abbrev byte (n : Nat) : Byte := BitVec.ofNat 8 n

end Sys2Proof
end

