-- ==== Sys2Proof/Config.lean ====
section
/-! DEFINITION. What an implementation of the part fixes and the manual leaves open: the free values, constants with no body.
Nothing can be proved of a value of theirs. -/

namespace Sys2Proof

/-- FREE VALUE (log 7). The manual keeps times as 32-bit counts of whole seconds and does not state what a record holds once
the time base has counted 2^32 seconds; `Config.secondsBeyondRange n` is the count it then shows for n seconds. -/
opaque Config.secondsBeyondRange : Nat → BitVec 32

/-- FREE VALUE (log 8). The octets of a record whose value the manual does not state: the fields of an empty step or programme
record, the attempts and due condition of a ticket with no retest wanted, the desk position of a request that is not DESK.
The arguments are the table code, the record's number and the octet's offset in the record. -/
opaque Config.unstatedOctet : Nat → Nat → Nat → Byte

/-- FREE VALUE (log 8). The order code (argument 0) and the reference (argument 1) that an ANSWER carries for an ORDER whose
payload is too short to hold one. -/
opaque Config.missingOrderOctet : Nat → Byte

end Sys2Proof
end

