-- ==== Sys2Proof/Syntax.lean ====
section
/-! DEFINITION. The commands of the part: one constructor of `Instr` for each row of spec/opcode_table.json, with the
operands that come from outside. The arguments of an ORDER stand here as the octet fields of R199 and R201, so that every
value a frame can carry is a value of the operand. -/

namespace Sys2Proof

/-- The two highway ports (R157): UP on the control side, DOWN on the shelf side. -/
inductive Port where
  | up
  | down
  deriving DecidableEq, Repr

/-- Who holds an ACCESS order or a relay transaction (R28): an access slot, or a shelf record for RELEASE_ALL. -/
inductive AccessOwner where
  | slot (bus : Fin 4)
  | shelf (shelf : Fin 64)
  deriving DecidableEq, Repr

/-- The tables that READ may name (R183, codes R203). -/
inductive ReadTable where
  | parameters | line | shelf | treatment | statemap | programme | step | limit | sweeprange
  | linestatus | slot | queue | testset | ticket
  deriving DecidableEq, Repr

/-- A PARAMETERS record as its octets carry it (R201). -/
structure ParametersArg where
  station : Byte
  hitsThreshold : Byte
  hitsWindow : BitVec 16
  lockoutDelay : Byte
  lockoutProgramme : Byte
  defaultProgramme : Byte
  holdLimit : Byte
  routineQuota : Byte
  maximumRate : BitVec 16
  enabledKinds : Byte
  reportRoutine : Byte
  trendShift : Byte
  degradeLevel : BitVec 16
  confirmDelay : Byte
  groupThreshold : Byte
  groupWindow : BitVec 16
  deriving DecidableEq, Repr

/-- A LINE record (R201). -/
structure LineArg where
  group : Byte
  routineEnabled : Byte
  programme : Byte
  deriving DecidableEq, Repr

/-- A SHELF record (R201). -/
structure ShelfArg where
  shelf : Byte
  fitted : Byte
  deriving DecidableEq, Repr

/-- A TREATMENT record (R201). -/
structure TreatmentArg where
  kind : Byte
  treatment : Byte
  lineOffset : Byte
  stateOffset : Byte
  deriving DecidableEq, Repr

/-- A STATEMAP record (R201). -/
structure StatemapArg where
  index : Byte
  callState : Byte
  deriving DecidableEq, Repr

/-- A PROGRAMME record (R201). -/
structure ProgrammeArg where
  programme : Byte
  firstStep : Byte
  stepCount : Byte
  deriving DecidableEq, Repr

/-- A STEP record (R201). -/
structure StepArg where
  step : Byte
  kind : Byte
  leadPair : Byte
  level : BitVec 32
  slope : Byte
  settle : BitVec 16
  sampleCount : BitVec 16
  limitSet : Byte
  faultClass : Byte
  onFail : Byte
  deriving DecidableEq, Repr

/-- A LIMIT record (R201). -/
structure LimitArg where
  limitSet : Byte
  unit : Byte
  low : BitVec 32
  high : BitVec 32
  hysteresis : Byte
  deriving DecidableEq, Repr

/-- A SWEEPRANGE record (R201). -/
structure SweepRangeArg where
  range : Byte
  first : BitVec 16
  last : BitVec 16
  enabled : Byte
  deriving DecidableEq, Repr

/-- The commands. An order's first operand is its reference octet (section 11.1). Each docstring names the row's rule. -/
inductive Instr where
  /-- RESET_ASSERT (R157): the reset input is asserted. -/
  | resetAssert
  /-- POWER_ON (R196): the reset input is released with the station-address straps at this value. -/
  | powerOn (straps : BitVec 6)
  /-- CONFIG_IMAGE_READ (R195): the store has answered with these octets. -/
  | configImageRead (octets : Octets)
  /-- STORE_READ_TIMEOUT (R195): the store has not answered a read within 50 ms. -/
  | storeReadTimeout
  /-- FRAME_END (R158): the frame of these octets ends at the port; `mark` is the marked octet that came next, when one did. -/
  | frameEnd (port : Port) (octets : Octets) (mark : Option Byte)
  /-- PORT_FREE (R168): the output port becomes free at the end of a frame, or is free while idle. -/
  | portFree (port : Port)
  /-- LOAD_PARAMETERS (R179). -/
  | loadParameters (ref : Byte) (record : ParametersArg)
  /-- LOAD_LINE (R2, R182). -/
  | loadLine (ref : Byte) (first : BitVec 16) (records : List LineArg)
  /-- LOAD_SHELF (R9). -/
  | loadShelf (ref : Byte) (records : List ShelfArg)
  /-- LOAD_TREATMENT (R165). -/
  | loadTreatment (ref : Byte) (records : List TreatmentArg)
  /-- LOAD_STATEMAP (R165). -/
  | loadStatemap (ref : Byte) (records : List StatemapArg)
  /-- LOAD_PROGRAMME (R68). -/
  | loadProgramme (ref : Byte) (records : List ProgrammeArg)
  /-- LOAD_STEP (R69). -/
  | loadStep (ref : Byte) (records : List StepArg)
  /-- LOAD_LIMIT (R70). -/
  | loadLimit (ref : Byte) (records : List LimitArg)
  /-- LOAD_SWEEPRANGE (R146). -/
  | loadSweeprange (ref : Byte) (records : List SweepRangeArg)
  /-- READ (R183). -/
  | read (ref : Byte) (table : ReadTable) (index : BitVec 16) (count : Byte)
  /-- TEST (R184): desk position, line, programme (0xFF NONE), flags, hold limit and wait limit. -/
  | test (ref position : Byte) (line : BitVec 16) (programme flags : Byte) (hold wait : BitVec 16)
  /-- RUN (R74, R185). -/
  | run (ref token programme : Byte)
  /-- RELEASE (R44, R186). -/
  | release (ref token : Byte)
  /-- CANCEL_STEP (R85): CANCEL of scope STEP. -/
  | cancelStep (ref token : Byte)
  /-- CANCEL_RUN (R45): CANCEL of scope RUN. -/
  | cancelRun (ref token : Byte)
  /-- ACK (R124, R188). -/
  | ack (ref : Byte) (number : BitVec 16)
  /-- CLEAR (R125, R189). -/
  | clear (ref : Byte) (number : BitVec 16)
  /-- SWEEP_START (R155). -/
  | sweepStart (ref : Byte)
  /-- SWEEP_STOP (R155). -/
  | sweepStop (ref : Byte)
  /-- SWEEP_RATE (R150). -/
  | sweepRate (ref : Byte) (increment : BitVec 16)
  /-- SUMMARY (R191). -/
  | summary (ref : Byte)
  /-- TESTSET_ENABLE (R67). -/
  | testsetEnable (ref set : Byte)
  /-- TESTSET_DISABLE (R66). -/
  | testsetDisable (ref set : Byte)
  /-- SAVE (R193). -/
  | save (ref : Byte)
  /-- RESTART (R194). -/
  | restart (ref : Byte)
  /-- SAVE_BLOCK_ACK (R193): the store acknowledges the block written. -/
  | saveBlockAck
  /-- SAVE_ACK_TIMEOUT (R193). -/
  | saveAckTimeout
  /-- SAVE_ANSWER_PLACE (R178). -/
  | saveAnswerPlace
  /-- ATTENTION_PLACE (R181). -/
  | attentionPlace
  /-- RESULT_PLACE (R89). -/
  | resultPlace
  /-- TICKET_NOTICE_PLACE (R130). -/
  | ticketNoticePlace
  /-- GUARD_NOTICE_PLACE (R175). -/
  | guardNoticePlace
  /-- ACCESS_ORDER_PLACE (R28): the waiting ACCESS order of this owner. -/
  | accessOrderPlace (owner : AccessOwner)
  /-- CONFIRM_TIMEOUT (R28): the confirm timer of this owner's transaction. -/
  | confirmTimeout (owner : AccessOwner)
  /-- SHELF_PROBE_TIMER (R36). -/
  | shelfProbeTimer (shelf : Fin 64)
  /-- HOLD_EXPIRY (R39): the hold timer of the slot. -/
  | holdExpiry (slot : Fin 4)
  /-- WAIT_EXPIRY (R40): the wait timer of the queued request for the line. -/
  | waitExpiry (line : Fin 8192)
  /-- LINK_FRAME_LEAVES (R52): the oldest frame made on the link has left it. -/
  | linkFrameLeaves (link : Fin 4)
  /-- IDENTITY_RECEIVED (R57): these octets arrive on the link as an IDENTITY frame. -/
  | identityReceived (link : Fin 4) (octets : Octets)
  /-- SAMPLE_RECEIVED (R60): these octets arrive on the link as a SAMPLE frame. -/
  | sampleReceived (link : Fin 4) (octets : Octets)
  /-- IDENTIFY_ANSWER_TIMEOUT (R53). -/
  | identifyAnswerTimeout (link : Fin 4)
  /-- SILENCE_PROBE_TIMER (R64). -/
  | silenceProbeTimer (link : Fin 4)
  /-- SILENCE_PROBE_TIMEOUT (R64). -/
  | silenceProbeTimeout (link : Fin 4)
  /-- FIRST_TAG_WAIT_EXPIRY (R61). -/
  | firstTagWaitExpiry (link : Fin 4)
  /-- SAMPLE_TIMEOUT (R61). -/
  | sampleTimeout (link : Fin 4)
  /-- SETTLE_END (R78): the settle end of the step under way on the slot. -/
  | settleEnd (slot : Fin 4)
  /-- LOCKOUT_DELAY_EXPIRY (R16). -/
  | lockoutDelayExpiry (line : Fin 8192)
  /-- RETEST_DUE (R122): the retest wanted of the ticket of this number. -/
  | retestDue (number : BitVec 16)
  /-- PACING_EVENT (R149). -/
  | pacingEvent
  /-- TIME_BASE_TICK (R149): one tick of the 1 ms time base. -/
  | timeBaseTick
  /-- MARKED_OCTET_RECEIVED (R157): a marked octet arrives at the port. -/
  | markedOctetReceived (port : Port) (octet : Byte)
  deriving DecidableEq, Repr

end Sys2Proof
end

