-- ==== Sys2Proof/Machine/State.lean ====
section
/-! DEFINITION. Everything the part holds, as plain data, block by block (the Blocks table of the Introduction), and
`State.reset`. Every default below is the power-on value of its rule. -/

namespace Sys2Proof.Machine

/-- A numbered collection of records: the records that differ from the collection's default, by rising number, none of them
equal to that default. A number not listed holds the default. -/
abbrev Table (α : Type) := List (Nat × α)

/-! ### Names -/

/-- Call state of a line (R3, codes R203). -/
inductive CallState where
  | unknown | idle | offHook | ringing | inCall | lockout
  deriving DecidableEq, Repr

/-- Access state of a line (R5). -/
inductive AccessState where
  | none
  | queued
  | inAccess (bus : Nat)
  deriving DecidableEq, Repr

/-- A channel verdict (UNKNOWN, GOOD, FAIL; R6) or a step verdict (NONE, GOOD, FAIL; R72): R203 gives both one code row. -/
inductive Verdict where
  /-- UNKNOWN of a channel, NONE of a step -/
  | unset
  | good
  | fail
  deriving DecidableEq, Repr

/-- The five measurement kinds. -/
inductive Kind where
  | dcv | acv | resIns | resLoop | cap
  deriving DecidableEq, Repr

/-- A set drawn from the five kinds. -/
structure KindSet where
  dcv : Bool := false
  acv : Bool := false
  resIns : Bool := false
  resLoop : Bool := false
  cap : Bool := false
  deriving DecidableEq, Repr

/-- The three sample rates, 1,000, 500 and 250 samples/s. -/
inductive Rate where
  | r1000 | r500 | r250
  deriving DecidableEq, Repr

/-- A set drawn from the three rates. -/
structure RateSet where
  r1000 : Bool := false
  r500 : Bool := false
  r250 : Bool := false
  deriving DecidableEq, Repr

inductive LeadPair where
  | tg | rg | tr
  deriving DecidableEq, Repr

/-- The six verdict channels of a line (R6). -/
inductive Channel where
  | fv | irTg | irRg | irTr | loop | cap
  deriving DecidableEq, Repr

/-- The thirteen fault classes (R113). -/
inductive FaultClass where
  | foreignVoltage | shortTr | groundT | groundR | lowInsulation | openLoop | highLoop | capUnbalance
  | degrading | permanentLoop | shelfSilent | testSetSilent | accessRelay
  deriving DecidableEq, Repr

/-- The two families of fault classes that a cable group gathers (R133). -/
inductive Family where
  | wet | brk
  deriving DecidableEq, Repr

inductive ReqClass where
  | desk | retest | routine
  deriving DecidableEq, Repr

inductive Reason where
  | confirm | verify | lockout | hits
  deriving DecidableEq, Repr

inductive SlotState where
  | free | seizing | held | releasing | faulted
  deriving DecidableEq, Repr

/-- Release causes of a slot (R203). -/
inductive Cause where
  | runEnd | deskRelease | holdExpired | preEmpted | cancelled | accessFailed | equipment
  deriving DecidableEq, Repr

inductive ShelfState where
  | unfitted | probing | serving | silent
  deriving DecidableEq, Repr

inductive SetState where
  | absent | probing | ready | silent | disabled
  deriving DecidableEq, Repr

inductive SetType where
  | full | basic
  deriving DecidableEq, Repr

inductive CurrentRange where
  | low | high
  deriving DecidableEq, Repr

inductive SourceMode where
  | off | level | ramp
  deriving DecidableEq, Repr

inductive Coupling where
  | dc | ac
  deriving DecidableEq, Repr

inductive LimitUnit where
  | millivolt | ohm | tenthNanofarad
  deriving DecidableEq, Repr

inductive OnFail where
  | goOn | finish
  deriving DecidableEq, Repr

inductive Ramp where
  | none | up | down
  deriving DecidableEq, Repr

/-- Run phases (R72); CHECK takes no time and is never held. -/
inductive Phase where
  | apply | settle | acquire | acquireDown | check
  deriving DecidableEq, Repr

/-- How a request or a run ended (R88). -/
inductive RunOutcome where
  | complete | incomplete | cancelled | abortedHold | abortedCall | equipment | accessFailed | waitExpired | shelfSilent
  deriving DecidableEq, Repr

inductive TicketKind where
  | line | group | shelf | testSet | bus
  deriving DecidableEq, Repr

inductive TicketState where
  | provisional | opened | acknowledged | verifying | closing
  deriving DecidableEq, Repr

/-- A ticket's class: a fault class, or the family of a GROUP ticket (R112). -/
inductive TicketClass where
  | fault (c : FaultClass)
  | family (f : Family)
  deriving DecidableEq, Repr

/-- Frame treatments (R165). -/
inductive Treatment where
  | pass | lineState | callSeize | callFree | drop
  deriving DecidableEq, Repr

inductive AccessOp where
  | operate | release | releaseAll
  deriving DecidableEq, Repr

inductive GuardReason where
  | deskTest | bufferFull
  deriving DecidableEq, Repr

/-- Results an ANSWER may carry (R203). -/
inductive Answer where
  | accepted | badOrder | badArg | notReady | queueFull | duplicate | unknownToken | busy | inUse | inGroup
  | noTestSet | shelfSilent | storeFailed
  deriving DecidableEq, Repr

/-! ### The line table (LT) -/

/-- The six verdict channels of a line (R6). -/
structure Channels where
  fv : Verdict := .unset
  irTg : Verdict := .unset
  irRg : Verdict := .unset
  irTr : Verdict := .unset
  loop : Verdict := .unset
  cap : Verdict := .unset
  deriving DecidableEq, Repr

/-- A line record (R1–R7). -/
structure LineRec where
  /-- cable group 0–126, or 127 for none (R2) -/
  group : Nat := 127
  routineEnabled : Bool := false
  /-- routine programme 0–31; `none` is DEFAULT -/
  programme : Option Nat := none
  callState : CallState := .unknown
  hits : Nat := 0
  hitsStart : Option Nat := none
  lockoutStart : Option Nat := none
  deferred : Option CallState := none
  reOffer : Bool := false
  access : AccessState := .none
  channels : Channels := {}
  /-- insulation trend in kΩ -/
  trend : Option Nat := none
  ticket : Option Nat := none
  unticketed : Bool := false
  skipped : Bool := false
  deriving DecidableEq, Repr

/-- A relay transaction of a slot or a shelf (R28): none; an ACCESS order made ready and waiting unplaced; or an order placed,
with the time its confirm timer runs out once it has left the DOWN port. -/
inductive Transaction where
  | idle
  | waiting (op : AccessOp)
  | placed (op : AccessOp) (confirmDue : Option Nat)
  deriving DecidableEq, Repr

/-- A shelf record (R8), with its RELEASE_ALL transaction and 10 s probe timer (R28, R36). -/
structure ShelfRec where
  fitted : Bool := false
  state : ShelfState := .unfitted
  freePairs : Nat := 2
  failures : Nat := 0
  ticket : Option Nat := none
  order : Transaction := .idle
  probeDue : Option Nat := none
  deriving DecidableEq, Repr

/-! ### Test sets and links (TLC) -/

/-- The frames the part sends on a link (R52, R58, R200). -/
inductive LinkMsg where
  | identify
  | agree (rate : Rate) (kinds : KindSet)
  | source (tag : Nat) (pair : LeadPair) (mode : SourceMode) (level slope : Int) (range : CurrentRange) (coupling : Coupling)
  | stream (on : Bool)
  deriving DecidableEq, Repr

/-- A frame made on a link and not yet gone; `timed` marks the SOURCE or IDENTIFY whose leaving starts a timer. -/
structure LinkFrame where
  msg : LinkMsg
  timed : Bool := false
  deriving DecidableEq, Repr

/-- A test-set record (R50), with the frames made on its link and the timers of the set (R53, R61, R64). -/
structure TestSet where
  state : SetState := .probing
  type : Option SetType := none
  offeredKinds : Option KindSet := none
  offeredRates : Option RateSet := none
  agreedKinds : Option KindSet := none
  agreedRate : Option Rate := none
  tag : Nat := 0
  range : CurrentRange := .low
  stream : Bool := false
  expected : Nat := 0
  failures : Nat := 0
  ticket : Option Nat := none
  attempt : Nat := 0
  samplesSeen : Bool := false
  /-- frames made on the link, oldest first -/
  sending : List LinkFrame := []
  /-- the 100 ms answer timer of an IDENTIFY -/
  answerDue : Option Nat := none
  /-- the 5 s probe timer of a SILENT set -/
  probeDue : Option Nat := none
  firstTagDue : Option Nat := none
  sampleDue : Option Nat := none
  deriving DecidableEq, Repr

/-! ### Tickets (TC) and cable groups (GM) -/

/-- Qualifiers of a step result (R72). -/
structure Quals where
  openCircuit : Bool := false
  reverse : Bool := false
  overrange : Bool := false
  voidLoss : Bool := false
  voidRange : Bool := false
  voidSkipped : Bool := false
  deriving DecidableEq, Repr

/-- One entry of a ticket's last values (R112, R117). -/
structure LastValue where
  channel : Channel
  value : Int
  quals : Quals
  deriving DecidableEq, Repr

/-- Due condition of a retest wanted (R112). -/
inductive Due where
  | dueAt (time : Nat)
  | whenIdle
  | outstanding
  deriving DecidableEq, Repr

/-- A retest wanted (R112). `fellDue` is the time a retest due when idle fell due, for the order of R122. -/
structure Retest where
  reason : Reason
  attempts : Nat := 0
  due : Due
  fellDue : Option Nat := none
  deriving DecidableEq, Repr

/-- A ticket record (R112). -/
structure Ticket where
  number : Nat
  kind : TicketKind
  subject : Nat
  cls : TicketClass
  severity : Nat
  state : TicketState
  firstSeen : Nat
  lastSeen : Nat
  occurrences : Nat := 1
  reopened : Nat := 0
  lastValues : List LastValue := []
  parent : Option Nat := none
  childCount : Nat := 0
  retest : Option Retest := none
  creation : Nat := 0
  unconfirmed : Bool := false
  noticePending : Bool := false
  deriving DecidableEq, Repr

/-- The Ticket Controller (R111, R114, R129). Tickets stand in creation order. -/
structure Tc where
  tickets : List Ticket := []
  notices : List Nat := []
  counter : Nat := 1
  /-- how many tickets have been created: the next creation order -/
  created : Nat := 0
  deriving DecidableEq, Repr

/-- The Group Monitor (R134): one member list for each group and family; group g's WET list is number 2g, its BREAK list 2g + 1. -/
structure Gm where
  members : Table (List Nat) := []
  deriving DecidableEq, Repr

/-! ### Orders (OH) -/

/-- The parameter record (R179). -/
structure Params where
  /-- station address 65–126; `none` is STRAPS -/
  station : Option Nat := none
  hitsThreshold : Nat := 12
  hitsWindow : Nat := 60
  lockoutDelay : Nat := 15
  lockoutProgramme : Nat := 0
  defaultProgramme : Nat := 0
  holdLimit : Nat := 20
  routineQuota : Nat := 4
  maximumRate : Rate := .r1000
  enabledKinds : KindSet := { dcv := true, acv := true, resIns := true, resLoop := true, cap := true }
  reportRoutine : Bool := false
  trendShift : Nat := 2
  degradeLevel : Nat := 0
  confirmDelay : Nat := 20
  groupThreshold : Nat := 6
  groupWindow : Nat := 600
  deriving DecidableEq, Repr

/-- The flags of the latch and of the current conditions (R180). -/
inductive Flag where
  | shelfSilent | testSetSilent | busFaulted | ticketsFull | guardRefused | groupFormed | configDefaulted
  deriving DecidableEq, Repr

/-- A set of those flags. -/
structure Flags where
  shelfSilent : Bool := false
  testSetSilent : Bool := false
  busFaulted : Bool := false
  ticketsFull : Bool := false
  guardRefused : Bool := false
  groupFormed : Bool := false
  configDefaulted : Bool := false
  deriving DecidableEq, Repr

/-- A frame of the OH's own that waits for a place (R178): an ATTENTION, or the answer of a SAVE with its reference. -/
inductive OhFrame where
  | attention
  | saveAnswer (ref : Byte) (result : Answer)
  deriving DecidableEq, Repr

/-- The Order Handler: the parameter record and the summary record (R179, R180), its waiting frames (R178), the token
counter (R184) and the station address in force (R179). -/
structure Oh where
  params : Params := {}
  /-- open counts of severity 1, 2, 3 -/
  count1 : Nat := 0
  count2 : Nat := 0
  count3 : Nat := 0
  latch : Flags := {}
  current : Flags := {}
  sweepRunning : Bool := false
  passCount : Nat := 0
  ready : Bool := false
  attentionSent : Bool := false
  waiting : List OhFrame := []
  tokenCounter : Nat := 1
  station : Nat := 100
  deriving DecidableEq, Repr

/-- What the Ticket Controller and the Group Monitor work on: the time base, the records that carry ticket references, the
ticket table, the group records and the order handler's records. -/
structure Core where
  /-- ticks of the 1 ms time base since power-on -/
  timeMs : Nat := 0
  lines : Table LineRec := []
  shelves : Table ShelfRec := []
  sets : Table TestSet := []
  tc : Tc := {}
  gm : Gm := {}
  oh : Oh := {}
  deriving DecidableEq, Repr

/-! ### The highway through-path (HTP) and the call guard (CG) -/

/-- A frame treatment table entry (R165). -/
structure TreatmentEntry where
  treatment : Treatment := .pass
  lineOffset : Nat := 0
  stateOffset : Nat := 0
  deriving DecidableEq, Repr

/-- A port's receiver (R157): HUNTING, or RECEIVING with the octets collected so far. -/
inductive Receiver where
  | hunting
  | receiving (octets : Octets)
  deriving DecidableEq, Repr

/-- A frame of the part's own in an insertion queue (R167); an ACCESS order names the owner whose confirm timer its leaving
starts (R28). -/
structure OwnFrame where
  octets : Octets
  owner : Option AccessOwner := none
  deriving DecidableEq, Repr

/-- What an output port is sending (R166, R168): the frame at the head of its pass buffer, or one of the part's own. -/
inductive Sending where
  | passing
  | inserted (frame : OwnFrame)
  deriving DecidableEq, Repr

/-- An output port (R166–R168). `lastInserted` is the last-sent mark: INSERTED when set, PASSING when clear. -/
structure OutPort where
  pass : List Octets := []
  insertion : List OwnFrame := []
  strict : Bool := false
  lastInserted : Bool := false
  sending : Option Sending := none
  deriving DecidableEq, Repr

/-- The Highway Through-Path (R157–R168). A state-code map entry of `none` is IGNORE. -/
structure Htp where
  treatment : Table TreatmentEntry := []
  stateMap : Table (Option CallState) := []
  upReceiver : Receiver := .hunting
  downReceiver : Receiver := .hunting
  up : OutPort := {}
  down : OutPort := {}
  latch : Option Octets := none
  deriving DecidableEq, Repr

/-- A held call-path order (R170). -/
structure HeldOrder where
  frame : Octets
  line : Nat
  seize : Bool
  deriving DecidableEq, Repr

/-- A GUARD notice (R174). -/
structure GuardNotice where
  refusedKind : Byte
  seize : Bool
  line : Nat
  reason : GuardReason
  deriving DecidableEq, Repr

/-- The Call Guard (R170, R175). -/
structure Cg where
  held : List HeldOrder := []
  waiting : List GuardNotice := []
  deriving DecidableEq, Repr

/-! ### Test access (AC) -/

/-- A request record (R20). `waitDue` is its wait timer while it is queued (R40). -/
structure Request where
  cls : ReqClass
  line : Nat
  programme : Option Nat
  kinds : KindSet
  token : Option Nat := none
  position : Option Nat := none
  force : Bool := false
  keep : Bool := false
  ticketFlag : Bool := false
  hold : Nat
  wait : Nat
  entry : Nat := 0
  reason : Option Reason := none
  ticketRef : Option Nat := none
  waitDue : Option Nat := none
  deriving DecidableEq, Repr

/-- An access slot (R27–R33). `ended` tells that the request has had its one ending (R41); `mark` is the cause a SEIZING slot
was marked with for release or pre-emption (R44–R46). -/
structure Slot where
  state : SlotState := .free
  request : Option Request := none
  ended : Bool := false
  pair : Nat := 0
  attempt : Nat := 0
  cause : Option Cause := none
  heldAt : Option Nat := none
  holdDue : Option Nat := none
  mark : Option Cause := none
  order : Transaction := .idle
  deriving DecidableEq, Repr

/-- The Access Controller. `walkDue` and `departed` are the model's own marks inside one command: a grant walk is to begin (R26),
and a request has left the queue so that the TC is to offer its due retests (R24, R122). Both are clear between commands. -/
structure Ac where
  queue : List Request := []
  slots : Table Slot := []
  quotaInForce : Nat := 4
  walkDue : Bool := false
  departed : Bool := false
  deriving DecidableEq, Repr

/-! ### Measurement (MS, MAU) -/

/-- A programme that is not empty (R68). -/
structure Programme where
  first : Nat
  count : Nat
  deriving DecidableEq, Repr

/-- A step record that is not empty (R69). -/
structure Step where
  kind : Kind
  pair : LeadPair
  level : Int
  slope : Nat
  settle : Nat
  samples : Nat
  limitSet : Option Nat
  faultClass : FaultClass
  onFail : OnFail
  deriving DecidableEq, Repr

/-- A limit set (R70). -/
structure LimitSet where
  unit : LimitUnit := .millivolt
  low : Option Nat := none
  high : Option Nat := none
  hysteresis : Nat := 0
  deriving DecidableEq, Repr

/-- An accumulator (R91). `overV` is the voltage overload mark with its sign: `some true` positive, `some false` negative. -/
structure Accum where
  sv : Int := 0
  si : Int := 0
  sv2 : Nat := 0
  range : CurrentRange := .low
  overI : Bool := false
  overV : Option Bool := none
  deriving DecidableEq, Repr

/-- A step result (R72). -/
structure StepResult where
  step : Nat
  channel : Channel
  value : Int
  quals : Quals
  verdict : Verdict
  deriving DecidableEq, Repr

/-- An active run (R72). `opener` marks that the SOURCE order of the step under way is the one after which STREAM on was sent (R83). -/
structure Run where
  programme : Nat
  step : Nat := 1
  ramp : Ramp := .none
  phase : Phase := .apply
  retryUsed : Bool := false
  lost : Nat := 0
  taken : Nat := 0
  settleEnd : Option Nat := none
  working : Accum := {}
  held : Option Accum := none
  start : Channels := {}
  results : List StepResult := []
  opener : Bool := false
  deriving DecidableEq, Repr

/-- A RESULT (R88). A class of `none` is GOOD. -/
structure Result where
  token : Nat
  position : Nat
  line : Nat
  bus : Option Nat
  cls : ReqClass
  programme : Option Nat
  outcome : RunOutcome
  fault : Option FaultClass
  steps : List StepResult
  deriving DecidableEq, Repr

/-- The Measurement Sequencer (R68–R75, R89). -/
structure Ms where
  programmes : Table (Option Programme) := []
  steps : Table (Option Step) := []
  limits : Table LimitSet := []
  runs : Table (Option Run) := []
  pendingRuns : Table (Option Nat) := []
  results : List Result := []
  deriving DecidableEq, Repr

/-! ### The routine sweep (RS) and the configuration store interface (CSI) -/

/-- A sweep range (R146). -/
structure SweepRange where
  first : Nat := 0
  last : Nat := 8191
  enabled : Bool := false
  deriving DecidableEq, Repr

/-- The Routine Sweep (R146–R156). `eventDue` is set at the tick whose addition overflowed the accumulator and lasts until the
pacing event is taken or the next tick comes (log 6). -/
structure Rs where
  ranges : Table SweepRange := []
  running : Bool := false
  increment : Nat := 0
  pendingIncrement : Option Nat := none
  accumulator : Nat := 0
  passCount : Nat := 0
  cursorRange : Nat := 0
  cursorLine : Nat := 0
  eventDue : Bool := false
  deriving DecidableEq, Repr

/-- A save under way (R193): the reference of its order, the number and the octets of the block being written, and the time by
which the store must acknowledge it. -/
structure Saving where
  ref : Byte
  block : Nat
  octets : Octets
  ackDue : Nat
  deriving DecidableEq, Repr

/-- What the part's saves have made of the stored image (R193): nothing yet, left invalid, or saved. -/
inductive StoredImage where
  | asFound | invalid | saved
  deriving DecidableEq, Repr

/-- The Configuration Store Interface (R193, R195, R196). -/
structure Csi where
  saving : Option Saving := none
  stored : StoredImage := .asFound
  /-- start-up step 2 of R196 has not ended: the image has not been read -/
  imageAwaited : Bool := true
  deriving DecidableEq, Repr

/-! ### The whole part -/

/-- The state of the part. `pending` is the queue of commands waiting, first in, first out. -/
structure State where
  pending : List Instr := []
  /-- the reset input is asserted -/
  resetInput : Bool := false
  /-- the station-address straps as read at the release of reset -/
  straps : BitVec 6 := 0
  core : Core := {}
  htp : Htp := {}
  cg : Cg := {}
  ac : Ac := {}
  ms : Ms := {}
  rs : Rs := {}
  csi : Csi := {}
  deriving DecidableEq, Repr

/-- Reasons a step may fault. None of the part's commands raises one: the manual gives every command an effect. -/
inductive Fault where
  /-- reserved; raised by no command (safe) -/
  | unused
  deriving DecidableEq, Repr

/-- Reasons a command may be refused. No command of this model is refused: every row has its meaning. -/
inductive Refusal where
  /-- a command not modelled, by its mnemonic; raised by `exec` alone, and by no arm of this model (safe) -/
  | notModelled (mnemonic : String)
  deriving DecidableEq, Repr

/-- The part right after the release of reset (R196 step 1), with the straps at 0 (log 1): every record at its power-on value,
NOT_READY, the configuration image not yet read. -/
def State.reset : State := {}

end Sys2Proof.Machine
end

