-- ==== Sys2Proof/Machine/Formats.lean ====
section
/-! DEFINITION. The encodings of section 12: the two checks, fields of several octets, the code of every enumerated field, frames and
link frames. -/

namespace Sys2Proof.Machine

/-! ### Checks (R197) -/

/-- One bit of the CRC-8 of polynomial x^8+x^2+x+1, most significant bit first, no reflection. -/
def crc8Bits : Nat → Nat → Nat
  | 0, c => c
  | n + 1, c => crc8Bits n (if c < 128 then 2 * c else (2 * c % 256) ^^^ 0x07)

/-- The CRC-8 register after one more octet. -/
def crc8Step (c : Nat) (b : Byte) : Nat := crc8Bits 8 (c ^^^ b.toNat)

/-- The check octet over the octets before it: CRC-8, initial value 0xFF, no final inversion. -/
def crc8 (octets : Octets) : Byte := byte (octets.foldl crc8Step 0xFF)

/-- Bits of the CRC-16 of polynomial x^16+x^12+x^5+1. -/
def crc16Bits : Nat → Nat → Nat
  | 0, c => c
  | n + 1, c => crc16Bits n (if c < 32768 then 2 * c else (2 * c % 65536) ^^^ 0x1021)

/-- The CRC-16 register after one more octet. -/
def crc16Step (c : Nat) (b : Byte) : Nat := crc16Bits 8 (c ^^^ (b.toNat * 256))

/-- The CRC-16 of the configuration image: initial value 0xFFFF. -/
def crc16 (octets : Octets) : BitVec 16 := BitVec.ofNat 16 (octets.foldl crc16Step 0xFFFF)

/-! ### Characters (R157, R197)

The commands carry octets, whose passage bit by bit they do not show (log 46); these are the bits that pass. -/

/-- A character: its marker bit and its octet. -/
structure Character where
  marker : Bool
  octet : Byte
  deriving DecidableEq, Repr

/-- The 11 bits of a character: a start bit of 0, the marker, the octet most significant bit first, a stop bit of 1. -/
def Character.bits (c : Character) : List Bool :=
  false :: c.marker :: ((List.range 8).map c.octet.getMsbD ++ [true])

/-- The characters of a frame: the marker is set on its first octet alone, a highway frame's destination or a link frame's kind. -/
def frameCharacters : Octets → List Character
  | [] => []
  | first :: rest => ⟨true, first⟩ :: rest.map (⟨false, ·⟩)

/-- What the line carries for a frame: its characters without gaps. -/
def frameBits (f : Octets) : List Bool := (frameCharacters f).flatMap Character.bits

/-- Idle fill: the line held at 1 for this many bit times. -/
def idleFill (bits : Nat) : List Bool := List.replicate bits true

/-- A run of bits is fill: 11 or more of them, every one 1. -/
def isFill (bits : List Bool) : Bool := decide (11 ≤ bits.length) && bits.all id

/-- The octet of bits taken most significant first. -/
def octetOfBits (bits : List Bool) : Byte := byte (bits.foldl (fun n b => 2 * n + b.toNat) 0)

/-- The characters that a line carries, the line at 1 between them. The number counts the bits still to come of the character last
begun; a 0 that comes with none outstanding is the start bit of the next. -/
def lineCharacters : Nat → List Bool → List Character
  | _, [] => []
  | 0, true :: rest => lineCharacters 0 rest
  | 0, false :: rest => ⟨rest.headD true, octetOfBits ((rest.drop 1).take 8)⟩ :: lineCharacters 10 rest
  | k + 1, _ :: rest => lineCharacters k rest

/-! ### Fields (R197) -/

/-- A field of two octets, most significant first. -/
def octets2 (v : BitVec 16) : Octets := [v.extractLsb' 8 8, v.extractLsb' 0 8]

/-- A field of four octets, most significant first. -/
def octets4 (v : BitVec 32) : Octets :=
  [v.extractLsb' 24 8, v.extractLsb' 16 8, v.extractLsb' 8 8, v.extractLsb' 0 8]

/-- A number in two octets. -/
def num2 (n : Nat) : Octets := octets2 (BitVec.ofNat 16 n)

/-- A number, or a count of seconds, in four octets. -/
def num4 (n : Nat) : Octets := octets4 (BitVec.ofNat 32 n)

/-- A signed number in four octets, two's complement. -/
def signed4 (v : Int) : Octets := octets4 (BitVec.ofInt 32 v)

/-- The field of two octets a and b. -/
def field2 (a b : Byte) : BitVec 16 := a ++ b

/-- The field of four octets. -/
def field4 (a b c d : Byte) : BitVec 32 := (a ++ b) ++ (c ++ d)

/-- A flag in bit n of a set or flags octet. -/
def bitFlag (n : Nat) (on : Bool) : Nat := if on then 2 ^ n else 0

/-- An on/off field as an octet. -/
def onOff (b : Bool) : Byte := if b then 1 else 0

/-- An optional number with its absent code. -/
def optByte (absent : Nat) : Option Nat → Byte
  | none => byte absent
  | some n => byte n

/-! ### Codes (R203) -/

def Answer.code : Answer → Nat
  | .accepted => 0 | .badOrder => 1 | .badArg => 2 | .notReady => 3 | .queueFull => 4 | .duplicate => 5 | .unknownToken => 6
  | .busy => 7 | .inUse => 8 | .inGroup => 9 | .noTestSet => 10 | .shelfSilent => 11 | .storeFailed => 12

def RunOutcome.code : RunOutcome → Nat
  | .complete => 0 | .incomplete => 1 | .cancelled => 2 | .abortedHold => 3 | .abortedCall => 4 | .equipment => 5
  | .accessFailed => 6 | .waitExpired => 7 | .shelfSilent => 8

def FaultClass.code : FaultClass → Nat
  | .foreignVoltage => 1 | .shortTr => 2 | .groundT => 3 | .groundR => 4 | .lowInsulation => 5 | .openLoop => 6
  | .highLoop => 7 | .capUnbalance => 8 | .degrading => 9 | .permanentLoop => 10 | .shelfSilent => 11
  | .testSetSilent => 12 | .accessRelay => 13

/-- The class code of a run: GOOD is 0. -/
def runClassCode : Option FaultClass → Nat
  | none => 0
  | some c => c.code

def TicketClass.code : TicketClass → Nat
  | .fault c => c.code
  | .family .wet => 14
  | .family .brk => 15

def CallState.code : CallState → Nat
  | .unknown => 0 | .idle => 1 | .offHook => 2 | .ringing => 3 | .inCall => 4 | .lockout => 5

def AccessState.code : AccessState → Nat
  | .none => 0 | .queued => 1 | .inAccess _ => 2

def ReqClass.code : ReqClass → Nat
  | .desk => 0 | .retest => 1 | .routine => 2

def Reason.code : Reason → Nat
  | .confirm => 0 | .verify => 1 | .lockout => 2 | .hits => 3

def Due.code : Due → Nat
  | .dueAt _ => 0 | .whenIdle => 1 | .outstanding => 2

def SlotState.code : SlotState → Nat
  | .free => 0 | .seizing => 1 | .held => 2 | .releasing => 3 | .faulted => 4

def Cause.code : Cause → Nat
  | .runEnd => 0 | .deskRelease => 1 | .holdExpired => 2 | .preEmpted => 3 | .cancelled => 4 | .accessFailed => 5
  | .equipment => 6

/-- No layout of R199 or R201 carries a shelf's state. -/
def ShelfState.code : ShelfState → Nat
  | .unfitted => 0 | .probing => 1 | .serving => 2 | .silent => 3

def SetState.code : SetState → Nat
  | .absent => 0 | .probing => 1 | .ready => 2 | .silent => 3 | .disabled => 4

def SetType.code : SetType → Nat
  | .full => 0 | .basic => 1

def Kind.code : Kind → Nat
  | .dcv => 0 | .acv => 1 | .resIns => 2 | .resLoop => 3 | .cap => 4

def Rate.code : Rate → Nat
  | .r1000 => 0 | .r500 => 1 | .r250 => 2

/-- Samples per second. -/
def Rate.perSecond : Rate → Nat
  | .r1000 => 1000 | .r500 => 500 | .r250 => 250

/-- The sample period P in ms. -/
def Rate.period : Rate → Nat
  | .r1000 => 1 | .r500 => 2 | .r250 => 4

def LeadPair.code : LeadPair → Nat
  | .tg => 0 | .rg => 1 | .tr => 2

def Channel.code : Channel → Nat
  | .fv => 0 | .irTg => 1 | .irRg => 2 | .irTr => 3 | .loop => 4 | .cap => 5

def Verdict.code : Verdict → Nat
  | .unset => 0 | .good => 1 | .fail => 2

def Phase.code : Phase → Nat
  | .apply => 0 | .settle => 1 | .acquire => 2 | .acquireDown => 3 | .check => 4

def Ramp.code : Ramp → Nat
  | .none => 0 | .up => 1 | .down => 2

def TicketKind.code : TicketKind → Nat
  | .line => 0 | .group => 1 | .shelf => 2 | .testSet => 3 | .bus => 4

def TicketState.code : TicketState → Nat
  | .provisional => 0 | .opened => 1 | .acknowledged => 2 | .verifying => 3 | .closing => 4

def Treatment.code : Treatment → Nat
  | .pass => 0 | .lineState => 1 | .callSeize => 2 | .callFree => 3 | .drop => 4

def AccessOp.code : AccessOp → Nat
  | .operate => 0 | .release => 1 | .releaseAll => 2

def GuardReason.code : GuardReason → Nat
  | .deskTest => 0 | .bufferFull => 1

def SourceMode.code : SourceMode → Nat
  | .off => 0 | .level => 1 | .ramp => 2

def CurrentRange.code : CurrentRange → Nat
  | .low => 0 | .high => 1

def Coupling.code : Coupling → Nat
  | .dc => 0 | .ac => 1

def LimitUnit.code : LimitUnit → Nat
  | .millivolt => 0 | .ohm => 1 | .tenthNanofarad => 2

def OnFail.code : OnFail → Nat
  | .goOn => 0 | .finish => 1

/-- The treatment octet of a GUARD notice: CALL_SEIZE or CALL_FREE. -/
def callTreatment (seize : Bool) : Treatment := if seize then .callSeize else .callFree

/-! ### Codes read back -/

def callStateOfCode : Nat → Option CallState
  | 0 => some .unknown | 1 => some .idle | 2 => some .offHook | 3 => some .ringing | 4 => some .inCall | 5 => some .lockout
  | _ => none

def kindOfCode : Nat → Option Kind
  | 0 => some .dcv | 1 => some .acv | 2 => some .resIns | 3 => some .resLoop | 4 => some .cap | _ => none

def leadPairOfCode : Nat → Option LeadPair
  | 0 => some .tg | 1 => some .rg | 2 => some .tr | _ => none

/-- The classes a step may name (R69). -/
def stepClassOfCode : Nat → Option FaultClass
  | 1 => some .foreignVoltage | 2 => some .shortTr | 3 => some .groundT | 4 => some .groundR | 5 => some .lowInsulation
  | 6 => some .openLoop | 7 => some .highLoop | 8 => some .capUnbalance | _ => none

def onFailOfCode : Nat → Option OnFail
  | 0 => some .goOn | 1 => some .finish | _ => none

def unitOfCode : Nat → Option LimitUnit
  | 0 => some .millivolt | 1 => some .ohm | 2 => some .tenthNanofarad | _ => none

def treatmentOfCode : Nat → Option Treatment
  | 0 => some .pass | 1 => some .lineState | 2 => some .callSeize | 3 => some .callFree | 4 => some .drop | _ => none

/-- A state-code map value: a call state other than UNKNOWN, or IGNORE (15). -/
def mapValueOfCode : Nat → Option (Option CallState)
  | 1 => some (some .idle) | 2 => some (some .offHook) | 3 => some (some .ringing) | 4 => some (some .inCall)
  | 5 => some (some .lockout) | 15 => some none | _ => none

/-- A yes/no octet: 0 is no and 1 is yes, and any other code is unassigned. R201 and R203 assign the fields report routine, routine-enabled,
fitted and range enabled no codes; these are the model's choice (log 52). DONE and CONTACT_FAULT have these codes by R203. -/
def boolOfCode : Nat → Option Bool
  | 0 => some false | 1 => some true | _ => none

def accessOpOfCode : Nat → Option AccessOp
  | 0 => some .operate | 1 => some .release | 2 => some .releaseAll | _ => none

/-! ### Sets -/

/-- The kinds of a set octet; unassigned bits are not read. -/
def kindsOfByte (b : Byte) : KindSet :=
  { dcv := b.getLsbD 0, acv := b.getLsbD 1, resIns := b.getLsbD 2, resLoop := b.getLsbD 3, cap := b.getLsbD 4 }

def KindSet.code (k : KindSet) : Nat :=
  bitFlag 0 k.dcv + bitFlag 1 k.acv + bitFlag 2 k.resIns + bitFlag 3 k.resLoop + bitFlag 4 k.cap

/-- The rates of a set octet; unassigned bits are not read. -/
def ratesOfByte (b : Byte) : RateSet := { r1000 := b.getLsbD 0, r500 := b.getLsbD 1, r250 := b.getLsbD 2 }

def RateSet.code (r : RateSet) : Nat := bitFlag 0 r.r1000 + bitFlag 1 r.r500 + bitFlag 2 r.r250

def Flags.code (f : Flags) : Nat :=
  bitFlag 0 f.shelfSilent + bitFlag 1 f.testSetSilent + bitFlag 2 f.busFaulted + bitFlag 3 f.ticketsFull
    + bitFlag 4 f.guardRefused + bitFlag 5 f.groupFormed + bitFlag 6 f.configDefaulted

def Quals.code (q : Quals) : Nat :=
  bitFlag 0 q.openCircuit + bitFlag 1 q.reverse + bitFlag 2 q.overrange + bitFlag 3 q.voidLoss + bitFlag 4 q.voidRange
    + bitFlag 5 q.voidSkipped

/-! ### Highway frames (R199) -/

/-- The part's frame kinds. -/
abbrev kindOrder : Byte := 0xF0
abbrev kindAnswer : Byte := 0xF1
abbrev kindResult : Byte := 0xF2
abbrev kindTicket : Byte := 0xF3
abbrev kindAttention : Byte := 0xF4
abbrev kindGuard : Byte := 0xF5
abbrev kindAccess : Byte := 0xF8
abbrev kindAccessConfirm : Byte := 0xF9

/-- A highway frame: destination, source, kind, length, payload and check (R158). -/
def highwayFrame (destination source : Nat) (kind : Byte) (payload : Octets) : Octets :=
  let body := byte destination :: byte source :: kind :: byte payload.length :: payload
  body ++ [crc8 body]

/-- The payload of a frame: its octets 4 to 3 + length. -/
def framePayload (f : Octets) : Octets := (f.drop 4).take (f.getD 3 0).toNat

/-- How many octets make a frame complete, once its length octet is in (R157). -/
def completeSize (f : Octets) : Nat := if (f.getD 3 0).toNat ≤ 120 then 5 + (f.getD 3 0).toNat else 125

/-- The octets of the frame itself among octets received: those up to its completion; any that follow are stray (R157). -/
def frameOctets (f : Octets) : Octets := if 4 ≤ f.length then f.take (completeSize f) else f

/-- A frame is good (R158): complete, of length 0–120, with destination 0–127 and a true check. -/
def goodFrame (f : Octets) : Bool :=
  decide (4 ≤ f.length) && decide (f.length = completeSize f) && decide ((f.getD 3 0).toNat ≤ 120)
    && decide ((f.getD 0 0).toNat ≤ 127) && decide (f.getLast? = some (crc8 f.dropLast))

/-- The payload octets of an ACCESS order (R199). -/
def accessPayload (op : AccessOp) (line bus pair : Nat) : Octets :=
  match op with
  | .releaseAll => [byte op.code, 0, 0, 0, 0]
  | _ => [byte op.code] ++ num2 line ++ [byte bus, byte pair]

/-- One step result in a RESULT (R199). -/
def stepResultOctets (r : StepResult) : Octets :=
  [byte r.step, byte r.channel.code] ++ signed4 r.value ++ [byte r.quals.code, byte r.verdict.code]

/-- The payload of a RESULT (R88, R199). -/
def resultPayload (r : Result) : Octets :=
  [byte r.token, byte r.position] ++ num2 r.line
    ++ [optByte 0xFF r.bus, byte r.cls.code, optByte 0xFF r.programme, byte r.outcome.code, byte (runClassCode r.fault),
        byte r.steps.length]
    ++ r.steps.flatMap stepResultOctets

/-- One last value in a TICKET (R199). -/
def lastValueOctets (v : LastValue) : Octets := [byte v.channel.code] ++ signed4 v.value ++ [byte v.quals.code]

/-- The payload of a TICKET (R130, R144, R199); `children` are the numbers of the group's children in creation order. -/
def ticketPayload (t : Ticket) (children : List Nat) : Octets :=
  num2 t.number ++ [byte t.kind.code] ++ num2 t.subject ++ [byte t.cls.code, byte t.severity, byte t.state.code]
    ++ num4 t.firstSeen ++ num4 t.lastSeen ++ [byte t.occurrences, byte t.reopened, byte (bitFlag 0 t.unconfirmed)]
    ++ num2 (t.parent.getD 0)
    ++ match t.kind with
       | .group =>
         [0] ++ num2 t.childCount ++ [byte (children.take 16).length] ++ (children.take 16).flatMap num2
       | _ => [byte t.lastValues.length] ++ t.lastValues.flatMap lastValueOctets

/-- The payload of a GUARD notice (R174, R199). -/
def guardPayload (g : GuardNotice) : Octets :=
  [g.refusedKind, byte (callTreatment g.seize).code] ++ num2 g.line ++ [byte g.reason.code]

/-! ### Link frames (R52, R200) -/

/-- The octets of a link frame: kind, length, payload, check. -/
def linkOctets (kind : Byte) (payload : Octets) : Octets :=
  let body := kind :: byte payload.length :: payload
  body ++ [crc8 body]

/-- The octets of a frame the part makes on a link. -/
def LinkMsg.octets : LinkMsg → Octets
  | .identify => linkOctets 0x01 []
  | .agree rate kinds => linkOctets 0x02 [byte (2 ^ rate.code), byte kinds.code]
  | .source tag pair mode level slope range coupling =>
    linkOctets 0x03 ([byte tag, byte pair.code, byte mode.code] ++ signed4 level
      ++ [BitVec.ofInt 8 slope, byte range.code, byte coupling.code])
  | .stream on => linkOctets 0x04 [onOff on]

/-- The octets of an IDENTITY. -/
def identityOctets (kinds rates : Byte) : Octets := linkOctets 0x81 [kinds, rates]

/-- The octets of a SAMPLE. -/
def sampleOctets (index tag : Byte) (voltage current : BitVec 16) (flags : Byte) : Octets :=
  linkOctets 0x82 ([index, tag] ++ octets2 voltage ++ octets2 current ++ [flags])

/-- An IDENTITY taken from the link: its offered kinds and rates. A frame of another kind, of a length that does not match, or
with a false check is discarded (R52). -/
def parseIdentity : Octets → Option (KindSet × RateSet)
  | [kind, length, kinds, rates, check] =>
    if kind = 0x81 ∧ length = 2 ∧ check = crc8 [kind, length, kinds, rates] then some (kindsOfByte kinds, ratesOfByte rates)
    else none
  | _ => none

/-- A sample as R60 reads it from a SAMPLE frame. -/
structure Sample where
  index : Nat
  tag : Nat
  voltage : Int
  current : Int
  overV : Bool
  overI : Bool
  deriving DecidableEq, Repr

/-- A SAMPLE taken from the link; one that fails its check or its length is discarded (R52). The tag octet is taken whole: one above 15 is a
tag that no SOURCE order carries, so its sample is discarded after the index step of R60 (log 55). -/
def parseSample : Octets → Option Sample
  | [kind, length, index, tag, v1, v0, c1, c0, flags, check] =>
    if kind = 0x82 ∧ length = 7 ∧ check = crc8 [kind, length, index, tag, v1, v0, c1, c0, flags] then
      some { index := index.toNat, tag := tag.toNat, voltage := (field2 v1 v0).toInt, current := (field2 c1 c0).toInt,
             overV := flags.getLsbD 0, overI := flags.getLsbD 1 }
    else none
  | _ => none

end Sys2Proof.Machine
end

