-- ==== Sys2Proof/Decode.lean ====
section
/-! DEFINITION. Reading an ORDER's payload as a command and writing it (R178, R199, R201). No row of the opcode table gives bits, so
no word spells a command. -/

namespace Sys2Proof

open Sys2Proof.Machine

/-- The command a word spells by the opcode table's bits. The table gives no row any bits, so there is none. -/
def decodeTableWord (_nbits _w : Nat) : Option Instr := none

/-! ### Records (R201) -/

def decodeParameters : Octets → Option ParametersArg
  | [st, ht, hw1, hw0, ld, lp, dp, hl, rq, mr1, mr0, ek, rr, ts, dl1, dl0, cd, gt, gw1, gw0] =>
    some ⟨st, ht, field2 hw1 hw0, ld, lp, dp, hl, rq, field2 mr1 mr0, ek, rr, ts, field2 dl1 dl0, cd, gt, field2 gw1 gw0⟩
  | _ => none

def encodeParameters (p : ParametersArg) : Octets :=
  [p.station, p.hitsThreshold] ++ octets2 p.hitsWindow
    ++ [p.lockoutDelay, p.lockoutProgramme, p.defaultProgramme, p.holdLimit, p.routineQuota] ++ octets2 p.maximumRate
    ++ [p.enabledKinds, p.reportRoutine, p.trendShift] ++ octets2 p.degradeLevel ++ [p.confirmDelay, p.groupThreshold]
    ++ octets2 p.groupWindow

/-- A string of octets cut into records by a reader of one record from the front; the octets left over must be none. -/
def decodeRecords {α : Type} (one : Octets → Option (α × Octets)) : Nat → Octets → Option (List α)
  | 0, [] => some []
  | 0, _ :: _ => none
  | n + 1, o =>
    match one o with
    | none => none
    | some (r, rest) => (decodeRecords one n rest).map (r :: ·)

def takeLine : Octets → Option (LineArg × Octets)
  | a :: b :: c :: rest => some (⟨a, b, c⟩, rest)
  | _ => none

def encodeLine (r : LineArg) : Octets := [r.group, r.routineEnabled, r.programme]

def takeShelf : Octets → Option (ShelfArg × Octets)
  | a :: b :: rest => some (⟨a, b⟩, rest)
  | _ => none

def encodeShelf (r : ShelfArg) : Octets := [r.shelf, r.fitted]

def takeTreatment : Octets → Option (TreatmentArg × Octets)
  | a :: b :: c :: d :: rest => some (⟨a, b, c, d⟩, rest)
  | _ => none

def encodeTreatment (r : TreatmentArg) : Octets := [r.kind, r.treatment, r.lineOffset, r.stateOffset]

def takeStatemap : Octets → Option (StatemapArg × Octets)
  | a :: b :: rest => some (⟨a, b⟩, rest)
  | _ => none

def encodeStatemap (r : StatemapArg) : Octets := [r.index, r.callState]

def takeProgramme : Octets → Option (ProgrammeArg × Octets)
  | a :: b :: c :: rest => some (⟨a, b, c⟩, rest)
  | _ => none

def encodeProgramme (r : ProgrammeArg) : Octets := [r.programme, r.firstStep, r.stepCount]

def takeStep : Octets → Option (StepArg × Octets)
  | st :: k :: lp :: l3 :: l2 :: l1 :: l0 :: sl :: se1 :: se0 :: n1 :: n0 :: ls :: fc :: oa :: rest =>
    some (⟨st, k, lp, field4 l3 l2 l1 l0, sl, field2 se1 se0, field2 n1 n0, ls, fc, oa⟩, rest)
  | _ => none

def encodeStep (r : StepArg) : Octets :=
  [r.step, r.kind, r.leadPair] ++ octets4 r.level ++ [r.slope] ++ octets2 r.settle ++ octets2 r.sampleCount
    ++ [r.limitSet, r.faultClass, r.onFail]

def takeLimit : Octets → Option (LimitArg × Octets)
  | s :: u :: l3 :: l2 :: l1 :: l0 :: h3 :: h2 :: h1 :: h0 :: hy :: rest =>
    some (⟨s, u, field4 l3 l2 l1 l0, field4 h3 h2 h1 h0, hy⟩, rest)
  | _ => none

def encodeLimit (r : LimitArg) : Octets := [r.limitSet, r.unit] ++ octets4 r.low ++ octets4 r.high ++ [r.hysteresis]

def takeSweepRange : Octets → Option (SweepRangeArg × Octets)
  | r :: f1 :: f0 :: l1 :: l0 :: e :: rest => some (⟨r, field2 f1 f0, field2 l1 l0, e⟩, rest)
  | _ => none

def encodeSweepRange (r : SweepRangeArg) : Octets := [r.range] ++ octets2 r.first ++ octets2 r.last ++ [r.enabled]

/-! ### Orders (R199, R203) -/

/-- Table codes of READ; LOAD takes those of 1 to 9. -/
def readTableOfCode : Nat → Option ReadTable
  | 1 => some .parameters | 2 => some .line | 3 => some .shelf | 4 => some .treatment | 5 => some .statemap
  | 6 => some .programme | 7 => some .step | 8 => some .limit | 9 => some .sweeprange | 10 => some .linestatus
  | 11 => some .slot | 12 => some .queue | 13 => some .testset | 14 => some .ticket | _ => none

def ReadTable.code : ReadTable → Nat
  | .parameters => 1 | .line => 2 | .shelf => 3 | .treatment => 4 | .statemap => 5 | .programme => 6 | .step => 7
  | .limit => 8 | .sweeprange => 9 | .linestatus => 10 | .slot => 11 | .queue => 12 | .testset => 13 | .ticket => 14

/-- The records of a LOAD: as many as the record count says, at least one, filling the payload (R182, R199). A LOAD with no
record is none (log 19). -/
def decodeLoadRecords {α : Type} (one : Octets → Option (α × Octets)) (count : Byte) (o : Octets) : Option (List α) :=
  if count = 0 then none else decodeRecords one count.toNat o

/-- A LOAD of the table of this code. PARAMETERS carries one record, LINE 1–24 (R182); with another record count it is no order
(log 19). -/
def decodeLoad (ref : Byte) (table : Nat) (count : Byte) (o : Octets) : Option Instr :=
  match readTableOfCode table with
  | some .parameters => if count = 1 then (decodeParameters o).map (.loadParameters ref) else none
  | some .line =>
    match o with
    | f1 :: f0 :: rest =>
      if count.toNat ≤ 24 then (decodeLoadRecords takeLine count rest).map (.loadLine ref (field2 f1 f0)) else none
    | _ => none
  | some .shelf => (decodeLoadRecords takeShelf count o).map (.loadShelf ref)
  | some .treatment => (decodeLoadRecords takeTreatment count o).map (.loadTreatment ref)
  | some .statemap => (decodeLoadRecords takeStatemap count o).map (.loadStatemap ref)
  | some .programme => (decodeLoadRecords takeProgramme count o).map (.loadProgramme ref)
  | some .step => (decodeLoadRecords takeStep count o).map (.loadStep ref)
  | some .limit => (decodeLoadRecords takeLimit count o).map (.loadLimit ref)
  | some .sweeprange => (decodeLoadRecords takeSweepRange count o).map (.loadSweeprange ref)
  | _ => none

/-- The arguments of an order code after the reference. -/
def decodeArguments (code ref : Byte) (args : Octets) : Option Instr :=
  match code.toNat, args with
  | 1, table :: count :: rest => decodeLoad ref table.toNat count rest
  | 2, [table, i1, i0, count] => (readTableOfCode table.toNat).map fun t => .read ref t (field2 i1 i0) count
  | 3, [position, l1, l0, programme, flags, h1, h0, w1, w0] =>
    some (.test ref position (field2 l1 l0) programme flags (field2 h1 h0) (field2 w1 w0))
  | 4, [token, programme] => some (.run ref token programme)
  | 5, [token] => some (.release ref token)
  | 6, [token, scope] => if scope = 0 then some (.cancelStep ref token) else if scope = 1 then some (.cancelRun ref token) else none
  | 7, [n1, n0] => some (.ack ref (field2 n1 n0))
  | 8, [n1, n0] => some (.clear ref (field2 n1 n0))
  | 9, [action] => if action = 0 then some (.sweepStart ref) else if action = 1 then some (.sweepStop ref) else none
  | 9, [action, i1, i0] => if action = 2 then some (.sweepRate ref (field2 i1 i0)) else none
  | 10, [] => some (.summary ref)
  | 11, [set, action] =>
    if action = 0 then some (.testsetEnable ref set) else if action = 1 then some (.testsetDisable ref set) else none
  | 12, [] => some (.save ref)
  | 13, [] => some (.restart ref)
  | _, _ => none

/-- The command an ORDER's payload spells. `none` is an order to be answered BAD_ORDER: a code that names no order, a table, scope
or action not defined for it, or a payload whose length does not fit (R178, R198). -/
def decodeOrder : Octets → Option Instr
  | code :: ref :: args => decodeArguments code ref args
  | _ => none

/-- A LOAD's payload. -/
def encodeLoad {α : Type} (ref : Byte) (table : ReadTable) (first : Octets) (one : α → Octets) (records : List α) : Octets :=
  [1, ref, byte table.code, byte records.length] ++ first ++ records.flatMap one

/-- The payload of the ORDER that a command is; a command that is no order has none. -/
def encodeOrder : Instr → Octets
  | .loadParameters ref r => encodeLoad ref .parameters [] encodeParameters [r]
  | .loadLine ref first rs => encodeLoad ref .line (octets2 first) encodeLine rs
  | .loadShelf ref rs => encodeLoad ref .shelf [] encodeShelf rs
  | .loadTreatment ref rs => encodeLoad ref .treatment [] encodeTreatment rs
  | .loadStatemap ref rs => encodeLoad ref .statemap [] encodeStatemap rs
  | .loadProgramme ref rs => encodeLoad ref .programme [] encodeProgramme rs
  | .loadStep ref rs => encodeLoad ref .step [] encodeStep rs
  | .loadLimit ref rs => encodeLoad ref .limit [] encodeLimit rs
  | .loadSweeprange ref rs => encodeLoad ref .sweeprange [] encodeSweepRange rs
  | .read ref table index count => [2, ref, byte table.code] ++ octets2 index ++ [count]
  | .test ref position line programme flags hold wait =>
    [3, ref, position] ++ octets2 line ++ [programme, flags] ++ octets2 hold ++ octets2 wait
  | .run ref token programme => [4, ref, token, programme]
  | .release ref token => [5, ref, token]
  | .cancelStep ref token => [6, ref, token, 0]
  | .cancelRun ref token => [6, ref, token, 1]
  | .ack ref number => [7, ref] ++ octets2 number
  | .clear ref number => [8, ref] ++ octets2 number
  | .sweepStart ref => [9, ref, 0]
  | .sweepStop ref => [9, ref, 1]
  | .sweepRate ref increment => [9, ref, 2] ++ octets2 increment
  | .summary ref => [10, ref]
  | .testsetEnable ref set => [11, ref, set, 0]
  | .testsetDisable ref set => [11, ref, set, 1]
  | .save ref => [12, ref]
  | .restart ref => [13, ref]
  | .resetAssert | .powerOn .. | .configImageRead .. | .storeReadTimeout | .frameEnd .. | .portFree .. | .saveBlockAck
  | .saveAckTimeout | .saveAnswerPlace | .attentionPlace | .resultPlace | .ticketNoticePlace | .guardNoticePlace
  | .accessOrderPlace .. | .confirmTimeout .. | .shelfProbeTimer .. | .holdExpiry .. | .waitExpiry ..
  | .linkFrameLeaves .. | .identityReceived .. | .sampleReceived .. | .identifyAnswerTimeout .. | .silenceProbeTimer ..
  | .silenceProbeTimeout .. | .firstTagWaitExpiry .. | .sampleTimeout .. | .settleEnd .. | .lockoutDelayExpiry ..
  | .retestDue .. | .pacingEvent | .timeBaseTick | .markedOctetReceived .. => []

end Sys2Proof
end

