-- ==== Sys2Proof/Machine/Arithmetic.lean ====
section
/-! DEFINITION. The arithmetic terms the Introduction fixes for every chapter: rounded, isqrt, trunc and clamping. -/

namespace Sys2Proof.Machine

/-- A value clamped into a range. -/
def clamp (low high v : Nat) : Nat :=
  if v < low then low else if high < v then high else v

/-- A signed value clamped into a range. -/
def clampInt (low high v : Int) : Int :=
  if v < low then low else if high < v then high else v

/-- The quotient a / b rounded half away from zero, taken on magnitudes and given the sign of a / b. -/
def rounded (a b : Int) : Int :=
  let q : Nat := (2 * a.natAbs + b.natAbs) / (2 * b.natAbs)
  if a < 0 ↔ b < 0 then (q : Int) else -(q : Int)

/-- The greatest r' ≥ r whose square does not exceed n, the bits below 2^k being tried from the highest down. -/
def isqrtBits : Nat → Nat → Nat → Nat
  | 0, _, r => r
  | k + 1, n, r => if (r + 2 ^ k) * (r + 2 ^ k) ≤ n then isqrtBits k n (r + 2 ^ k) else isqrtBits k n r

/-- The floor of the square root of n. -/
def isqrt (n : Nat) : Nat := isqrtBits (n.log2 / 2 + 1) n 0

/-- The sum of a number and 1, saturating at a greatest value. -/
def satSucc (greatest n : Nat) : Nat := if n < greatest then n + 1 else greatest

/-- A list sorted by insertion under a strict order; equal elements keep their order. -/
def insertBy {α : Type} (before : α → α → Bool) (x : α) : List α → List α
  | [] => [x]
  | y :: ys => if before x y then x :: y :: ys else y :: insertBy before x ys

/-- Insertion sort: the elements enter one by one, each behind the elements it does not come before. -/
def sortBy {α : Type} (before : α → α → Bool) (l : List α) : List α :=
  l.foldl (fun acc x => insertBy before x acc) []

end Sys2Proof.Machine
end

