-- ==== Sys2Proof/Machine/Tables.lean ====
section
/-! DEFINITION. The operations on a `Table`: reading a record, writing one, changing every record. They keep the one canonical
form, so equal tables are equal data. -/

namespace Sys2Proof.Machine

/-- The record of number k. -/
def Table.get {α : Type} (d : α) : Table α → Nat → α
  | [], _ => d
  | (i, v) :: t, k => if i = k then v else Table.get d t k

/-- The table without an entry for number k. -/
def Table.erase {α : Type} : Table α → Nat → Table α
  | [], _ => []
  | (i, v) :: t, k => if i = k then Table.erase t k else (i, v) :: Table.erase t k

/-- The table with an entry for number k put before the first entry of a greater number. -/
def Table.place {α : Type} : Table α → Nat → α → Table α
  | [], k, v => [(k, v)]
  | (i, w) :: t, k, v => if k < i then (k, v) :: (i, w) :: t else (i, w) :: Table.place t k v

/-- The table with v as the record of number k. A record equal to the default is not listed. -/
def Table.set {α : Type} [DecidableEq α] (d : α) (t : Table α) (k : Nat) (v : α) : Table α :=
  if v = d then Table.erase t k else Table.place (Table.erase t k) k v

/-- Every record changed by f, where f leaves the default as it is. -/
def Table.mapAll {α : Type} [DecidableEq α] (d : α) (f : α → α) : Table α → Table α
  | [] => []
  | (i, v) :: t => if f v = d then Table.mapAll d f t else (i, f v) :: Table.mapAll d f t

/-- The canonical form: numbers strictly rising, no listed record equal to the default. -/
def Table.wf {α : Type} [DecidableEq α] (d : α) : Table α → Bool
  | [] => true
  | [(_, v)] => decide (v ≠ d)
  | (i, v) :: (j, w) :: t => decide (v ≠ d) && decide (i < j) && Table.wf d ((j, w) :: t)

end Sys2Proof.Machine
end

