-- ==== Sys2Proof/Machine/Flags.lean ====
section
/-! DEFINITION. The summary record's flags and counts (R180, R181): the latch, the current conditions, the pending ATTENTION and the
open counts. -/

namespace Sys2Proof.Machine

/-- The flag is in the set. -/
def Flags.has (f : Flags) : Flag → Bool
  | .shelfSilent => f.shelfSilent
  | .testSetSilent => f.testSetSilent
  | .busFaulted => f.busFaulted
  | .ticketsFull => f.ticketsFull
  | .guardRefused => f.guardRefused
  | .groupFormed => f.groupFormed
  | .configDefaulted => f.configDefaulted

/-- The set with the flag in it or out of it. -/
def Flags.put (f : Flags) (on : Bool) : Flag → Flags
  | .shelfSilent => { f with shelfSilent := on }
  | .testSetSilent => { f with testSetSilent := on }
  | .busFaulted => { f with busFaulted := on }
  | .ticketsFull => { f with ticketsFull := on }
  | .guardRefused => { f with guardRefused := on }
  | .groupFormed => { f with groupFormed := on }
  | .configDefaulted => { f with configDefaulted := on }

/-- A flag reported to the OH enters the latch; with the attention-sent mark clear it makes an ATTENTION pending (R180, R181). -/
def Oh.latchFlag (o : Oh) (f : Flag) : Oh :=
  if o.latch.has f then o
  else if o.attentionSent then { o with latch := o.latch.put true f }
  else { o with latch := o.latch.put true f, attentionSent := true, waiting := o.waiting ++ [.attention] }

/-- A condition stands as `on` tells: one that begins enters the current conditions and the latch, one that ends leaves the current
conditions (R180). -/
def Oh.setCondition (o : Oh) (f : Flag) (on : Bool) : Oh :=
  if o.current.has f = on then o
  else if on then ({ o with current := o.current.put true f }).latchFlag f
  else { o with current := o.current.put false f }

/-- SUMMARY and RESTART: the latch is emptied and the current conditions are put back, with no ATTENTION (R191, R194). -/
def Oh.relatch (o : Oh) : Oh := { o with latch := o.current }

/-- A report that a ticket of this severity has become counted (R131). -/
def Oh.countIn (o : Oh) (severity : Nat) : Oh :=
  if severity = 1 then { o with count1 := o.count1 + 1 }
  else if severity = 2 then { o with count2 := o.count2 + 1 }
  else { o with count3 := o.count3 + 1 }

/-- A report that a ticket of this severity is counted no longer (R131). -/
def Oh.countOut (o : Oh) (severity : Nat) : Oh :=
  if severity = 1 then { o with count1 := o.count1 - 1 }
  else if severity = 2 then { o with count2 := o.count2 - 1 }
  else { o with count3 := o.count3 - 1 }

end Sys2Proof.Machine
end

