-- ==== Sys2Proof/Machine/Ops.lean ====
section
/-! DEFINITION. The named operations on the state that every block shares: reading and writing the records, the clock, the pass buffers
and insertion queues of the highway, ACCESS orders and their transactions, and the taking and answering of an ORDER. -/

namespace Sys2Proof.Machine

/-! ### Clock -/

/-- Whole seconds since the last power-on, the count the records keep (Introduction, Time). -/
def Core.now (c : Core) : Nat :=
  if c.timeMs / 1000 < 2 ^ 32 then c.timeMs / 1000 else (Config.secondsBeyondRange (c.timeMs / 1000)).toNat

def State.now (s : State) : Nat := s.core.now

/-- The moment `ms` milliseconds from now, as a timer keeps it. -/
def State.after (s : State) (ms : Nat) : Nat := s.core.timeMs + ms

/-- A timer is running and has run out. -/
def State.due (s : State) : Option Nat → Bool
  | none => false
  | some t => decide (t ≤ s.core.timeMs)

/-! ### Records of the line table and the test sets -/

def Core.line (c : Core) (l : Nat) : LineRec := Table.get {} c.lines l
def Core.setLine (c : Core) (l : Nat) (r : LineRec) : Core := { c with lines := Table.set {} c.lines l r }
def Core.updLine (c : Core) (l : Nat) (f : LineRec → LineRec) : Core := c.setLine l (f (c.line l))

def Core.shelf (c : Core) (n : Nat) : ShelfRec := Table.get {} c.shelves n
def Core.setShelf (c : Core) (n : Nat) (r : ShelfRec) : Core := { c with shelves := Table.set {} c.shelves n r }
def Core.updShelf (c : Core) (n : Nat) (f : ShelfRec → ShelfRec) : Core := c.setShelf n (f (c.shelf n))

def Core.testSet (c : Core) (n : Nat) : TestSet := Table.get {} c.sets n
def Core.setTestSet (c : Core) (n : Nat) (r : TestSet) : Core := { c with sets := Table.set {} c.sets n r }
def Core.updTestSet (c : Core) (n : Nat) (f : TestSet → TestSet) : Core := c.setTestSet n (f (c.testSet n))

def Core.updOh (c : Core) (f : Oh → Oh) : Core := { c with oh := f c.oh }

def State.line (s : State) (l : Nat) : LineRec := s.core.line l
def State.shelf (s : State) (n : Nat) : ShelfRec := s.core.shelf n
def State.testSet (s : State) (n : Nat) : TestSet := s.core.testSet n
def State.params (s : State) : Params := s.core.oh.params

def State.updCore (s : State) (f : Core → Core) : State := { s with core := f s.core }
def State.updLine (s : State) (l : Nat) (f : LineRec → LineRec) : State := s.updCore (·.updLine l f)
def State.updShelf (s : State) (n : Nat) (f : ShelfRec → ShelfRec) : State := s.updCore (·.updShelf n f)
def State.updTestSet (s : State) (n : Nat) (f : TestSet → TestSet) : State := s.updCore (·.updTestSet n f)
def State.updOh (s : State) (f : Oh → Oh) : State := s.updCore (·.updOh f)

/-- The shelf a line belongs to (R1). -/
def shelfOf (line : Nat) : Nat := line / 128

/-! ### Slots, runs and the measurement tables -/

def State.slot (s : State) (b : Nat) : Slot := Table.get {} s.ac.slots b
def State.setSlot (s : State) (b : Nat) (r : Slot) : State := { s with ac := { s.ac with slots := Table.set {} s.ac.slots b r } }
def State.updSlot (s : State) (b : Nat) (f : Slot → Slot) : State := s.setSlot b (f (s.slot b))

def State.updAc (s : State) (f : Ac → Ac) : State := { s with ac := f s.ac }
def State.updMs (s : State) (f : Ms → Ms) : State := { s with ms := f s.ms }
def State.updRs (s : State) (f : Rs → Rs) : State := { s with rs := f s.rs }
def State.updHtp (s : State) (f : Htp → Htp) : State := { s with htp := f s.htp }
def State.updCg (s : State) (f : Cg → Cg) : State := { s with cg := f s.cg }
def State.updCsi (s : State) (f : Csi → Csi) : State := { s with csi := f s.csi }

def State.run (s : State) (b : Nat) : Option Run := Table.get none s.ms.runs b
def State.setRun (s : State) (b : Nat) (r : Option Run) : State := s.updMs fun m => { m with runs := Table.set none m.runs b r }
def State.updRun (s : State) (b : Nat) (f : Run → Run) : State := s.setRun b ((s.run b).map f)
def State.pendingRun (s : State) (b : Nat) : Option Nat := Table.get none s.ms.pendingRuns b
def State.setPendingRun (s : State) (b : Nat) (p : Option Nat) : State :=
  s.updMs fun m => { m with pendingRuns := Table.set none m.pendingRuns b p }

def Ms.programme (m : Ms) (p : Nat) : Option Programme := Table.get none m.programmes p
def Ms.step (m : Ms) (i : Nat) : Option Step := Table.get none m.steps i
def Ms.limit (m : Ms) (i : Nat) : LimitSet := Table.get {} m.limits i

/-- The step record of step number k of a programme (R68). -/
def Ms.stepOf (m : Ms) (p : Programme) (k : Nat) : Option Step := m.step (p.first + k - 1)

/-- The four access slots, by number. -/
def slotNumbers : List Nat := [0, 1, 2, 3]

/-- The slot is SEIZING, HELD or RELEASING: its line is live on the bus. -/
def SlotState.live : SlotState → Bool
  | .seizing | .held | .releasing => true
  | .free | .faulted => false

/-- The line a slot carries. -/
def Slot.line (r : Slot) : Option Nat := r.request.map (·.line)

/-- The slot carries a line of the shelf. -/
def Slot.onShelf (r : Slot) (shelf : Nat) : Bool :=
  decide (r.state ≠ .free) && match r.line with
    | none => false
    | some l => decide (shelfOf l = shelf)

/-! ### Sets of kinds -/

def KindSet.has (k : KindSet) : Kind → Bool
  | .dcv => k.dcv
  | .acv => k.acv
  | .resIns => k.resIns
  | .resLoop => k.resLoop
  | .cap => k.cap

def KindSet.add (k : KindSet) : Kind → KindSet
  | .dcv => { k with dcv := true }
  | .acv => { k with acv := true }
  | .resIns => { k with resIns := true }
  | .resLoop => { k with resLoop := true }
  | .cap => { k with cap := true }

/-- Every kind of `b` is in `a`. -/
def KindSet.contains (a b : KindSet) : Bool :=
  (a.dcv || !b.dcv) && (a.acv || !b.acv) && (a.resIns || !b.resIns) && (a.resLoop || !b.resLoop) && (a.cap || !b.cap)

/-- The kinds in both sets. -/
def KindSet.inter (a b : KindSet) : KindSet :=
  { dcv := a.dcv && b.dcv, acv := a.acv && b.acv, resIns := a.resIns && b.resIns, resLoop := a.resLoop && b.resLoop,
    cap := a.cap && b.cap }

/-- The required kinds of a programme: the kinds of every step of it, from the tables at this moment (R20). -/
def Ms.requiredKinds (m : Ms) (programme : Option Nat) : KindSet :=
  match programme.bind m.programme with
  | none => {}
  | some p =>
    (List.range p.count).foldl (fun k i =>
      match m.stepOf p (i + 1) with
      | none => k
      | some st => k.add st.kind) {}

/-! ### Output ports (R166, R167) -/

/-- A frame takes its place in the pass buffer; the strict mark is set when the buffer comes to hold 3 or more (R166, R168). -/
def OutPort.passAppend (p : OutPort) (f : Octets) : OutPort :=
  { p with pass := p.pass ++ [f], strict := p.strict || decide (3 ≤ p.pass.length + 1) }

/-- A frame of the part's own enters the insertion queue. -/
def OutPort.insert (p : OutPort) (f : OwnFrame) : OutPort := { p with insertion := p.insertion ++ [f] }

/-- The UP insertion queue has a free place for a frame that is no GUARD notice (R167). -/
def State.upFree (s : State) : Bool := decide (s.htp.up.insertion.length < 14)

/-- The UP insertion queue has a free place for a GUARD notice. -/
def State.upGuardFree (s : State) : Bool := decide (s.htp.up.insertion.length < 16)

/-- The DOWN insertion queue has a free place. -/
def State.downFree (s : State) : Bool := decide (s.htp.down.insertion.length < 16)

def State.insertUp (s : State) (f : OwnFrame) : State := s.updHtp fun h => { h with up := h.up.insert f }
def State.insertDown (s : State) (f : OwnFrame) : State := s.updHtp fun h => { h with down := h.down.insert f }
def State.passUp (s : State) (f : Octets) : State := s.updHtp fun h => { h with up := h.up.passAppend f }
def State.passDown (s : State) (f : Octets) : State := s.updHtp fun h => { h with down := h.down.passAppend f }

/-- A frame the part makes for station 0, the exchange control (R169). -/
def State.toControl (s : State) (kind : Byte) (payload : Octets) : OwnFrame :=
  { octets := highwayFrame 0 s.core.oh.station kind payload }

/-! ### ACCESS orders (R28) -/

/-- The transaction of an owner. -/
def State.order (s : State) : AccessOwner → Transaction
  | .slot b => (s.slot b.val).order
  | .shelf n => (s.shelf n.val).order

def State.setOrder (s : State) (o : AccessOwner) (t : Transaction) : State :=
  match o with
  | .slot b => s.updSlot b.val fun r => { r with order := t }
  | .shelf n => s.updShelf n.val fun r => { r with order := t }

/-- The ACCESS frame of an owner: a slot names its line, its bus and its pair. -/
def State.accessFrame (s : State) (o : AccessOwner) (op : AccessOp) : OwnFrame :=
  match o with
  | .slot b =>
    let line := ((s.slot b.val).line).getD 0
    { octets := highwayFrame (shelfOf line + 1) s.core.oh.station kindAccess
        (accessPayload op line b.val (s.slot b.val).pair),
      owner := some o }
  | .shelf n =>
    { octets := highwayFrame (n.val + 1) s.core.oh.station kindAccess (accessPayload op 0 0 0), owner := some o }

/-- An ACCESS order is made ready: it is placed in the DOWN insertion queue, or waits with its owner when there is no place. -/
def State.makeReady (s : State) (o : AccessOwner) (op : AccessOp) : State :=
  if s.downFree then (s.insertDown (s.accessFrame o op)).setOrder o (.placed op none)
  else s.setOrder o (.waiting op)

/-- A frame that starts the confirm timer of this owner starts it no longer. -/
def OwnFrame.disown (f : OwnFrame) (o : AccessOwner) : OwnFrame := if f.owner = some o then { f with owner := none } else f

/-- An owner's transaction ends or is abandoned, or its waiting order is withdrawn: a frame of it already placed still goes out,
and starts no timer. -/
def State.endOrder (s : State) (o : AccessOwner) : State :=
  (s.setOrder o .idle).updHtp fun h =>
    { h with down := { h.down with
        insertion := h.down.insertion.map (·.disown o)
        sending := match h.down.sending with
          | some (.inserted f) => some (.inserted (f.disown o))
          | other => other } }

/-- The owner for a bus number. -/
def slotOwner (b : Nat) : AccessOwner := .slot ⟨b % 4, Nat.mod_lt b (by decide)⟩

/-- The owner for a shelf number. -/
def shelfOwner (n : Nat) : AccessOwner := .shelf ⟨n % 64, Nat.mod_lt n (by decide)⟩

/-! ### The reset input -/

/-- While the reset input is asserted the part is still: a command has no effect (R157, log 21). -/
def State.whenLive (s : State) (f : State → State) : State := if s.resetInput then s else f s

/-! ### Orders (R160, R178) -/

/-- The OH is ready to take an order. -/
def State.ohReady (s : State) : Bool := s.upFree && s.core.oh.waiting.isEmpty

/-- The ANSWER to the order whose payload begins with these octets is placed in the UP insertion queue. -/
def State.answerTo (s : State) (payload : Octets) (result : Answer) (data : Octets) : State :=
  s.insertUp (s.toControl kindAnswer
    ([payload.getD 0 (Config.missingOrderOctet 0), payload.getD 1 (Config.missingOrderOctet 1), byte result.code] ++ data))

/-- The ANSWER to an order command. -/
def State.answer (s : State) (i : Instr) (result : Answer) (data : Octets := []) : State :=
  s.answerTo (encodeOrder i) result data

/-- An ORDER offered to a full latch: BUSY at once when the UP queue has a free place, else nothing (R160). -/
def State.latchFull (s : State) (payload : Octets) : State := if s.upFree then s.answerTo payload .busy [] else s

/-- The ORDER frame that carries an order command to the part. -/
def State.orderFrame (s : State) (i : Instr) : Octets := highwayFrame s.core.oh.station 0 kindOrder (encodeOrder i)

/-- An ORDER frame is offered to the latch (R160). -/
def State.offerLatch (s : State) (f : Octets) : State :=
  match s.htp.latch with
  | none => s.updHtp fun h => { h with latch := some f }
  | some _ => s.latchFull (framePayload f)

/-- An order taken is judged: NOT_READY while the part is not ready, else by its own rule (R178). -/
def State.judgeOrder (s : State) (i : Instr) (judge : State → State) : State :=
  if s.core.oh.ready then judge s else s.answer i .notReady

/-- An order command (log 3). The ORDER it spells is the one the latch holds, or it is offered to the latch at this moment; it is
taken from the latch and judged when the OH is ready, and waits in the latch otherwise. -/
def State.takeOrder (s : State) (i : Instr) (judge : State → State) : State :=
  match s.htp.latch with
  | none => if s.ohReady then s.judgeOrder i judge else s.offerLatch (s.orderFrame i)
  | some f =>
    if framePayload f = encodeOrder i then
      if s.ohReady then (s.updHtp fun h => { h with latch := none }).judgeOrder i judge else s
    else s.offerLatch (s.orderFrame i)

/-- A latched ORDER that spells no order is taken as soon as the OH is ready, and answered BAD_ORDER, or NOT_READY while the part is
not ready (R178, log 4). -/
def State.takeBadOrder (s : State) : State :=
  match s.htp.latch with
  | none => s
  | some f =>
    if (decodeOrder (framePayload f)).isNone && s.ohReady then
      (s.updHtp fun h => { h with latch := none }).answerTo (framePayload f)
        (if s.core.oh.ready then .badOrder else .notReady) []
    else s

/-! ### Conditions and readiness -/

def Core.anyShelfSilent (c : Core) : Bool := c.shelves.any fun e => decide (e.2.state = .silent)
def Core.anySetSilent (c : Core) : Bool := c.sets.any fun e => decide (e.2.state = .silent)
def State.anyFaulted (s : State) : Bool := slotNumbers.any fun b => decide ((s.slot b).state = .faulted)

/-- The current conditions are brought to what the shelves, sets, slots and ticket table now show (R180). -/
def State.refreshConditions (s : State) : State :=
  let full := decide (256 ≤ s.core.tc.tickets.length)
  let shelf := s.core.anyShelfSilent
  let set := s.core.anySetSilent
  let bus := s.anyFaulted
  s.updOh fun o =>
    (((o.setCondition .shelfSilent shelf).setCondition .testSetSilent set).setCondition .busFaulted bus).setCondition .ticketsFull full

/-- The set has settled for readiness (R196 step 4). -/
def SetState.settled : SetState → Bool
  | .ready | .absent | .silent => true
  | .probing | .disabled => false

/-- Every fitted shelf is SERVING or SILENT, and every link READY, ABSENT or SILENT (R196 step 4). -/
def Core.startSettled (c : Core) : Bool :=
  (c.shelves.all fun e => !e.2.fitted || decide (e.2.state = .serving) || decide (e.2.state = .silent))
    && slotNumbers.all fun n => (c.testSet n).state.settled

/-- The readiness becomes READY at the first moment start-up has settled, once step 3 has begun (R196). -/
def State.examineReadiness (s : State) : State :=
  if !s.csi.imageAwaited && s.core.startSettled then s.updOh fun o => { o with ready := true } else s

end Sys2Proof.Machine
end

