-- ==== Sys2Proof/Machine/Tickets.lean ====
section
/-! DEFINITION. The Ticket Controller and the Group Monitor (sections 6 and 7): the ticket table, notices, confirmation and verification,
equipment tickets, and the gathering of a cable's tickets under a group ticket. -/

namespace Sys2Proof.Machine

/-! ### Classes (R113) -/

def FaultClass.severity : FaultClass → Nat
  | .foreignVoltage => 3
  | .shortTr | .groundT | .groundR | .openLoop => 2
  | .lowInsulation | .highLoop | .capUnbalance | .degrading | .permanentLoop => 1
  | .shelfSilent | .testSetSilent | .accessRelay => 3

def FaultClass.family : FaultClass → Option Family
  | .foreignVoltage | .shortTr | .groundT | .groundR | .lowInsulation => some .wet
  | .openLoop | .highLoop => some .brk
  | .capUnbalance | .degrading | .permanentLoop | .shelfSilent | .testSetSilent | .accessRelay => none

def TicketClass.familyOf : TicketClass → Option Family
  | .fault c => c.family
  | .family f => some f

def Family.index : Family → Nat
  | .wet => 0
  | .brk => 1

/-- A ticket in this state is counted (R131). -/
def TicketState.counted : TicketState → Bool
  | .opened | .acknowledged | .verifying => true
  | .provisional | .closing => false

/-- OPEN or ACKNOWLEDGED. -/
def TicketState.standing : TicketState → Bool
  | .opened | .acknowledged => true
  | .provisional | .verifying | .closing => false

/-- The severity a ticket counts under. -/
def Ticket.counts (t : Ticket) : Option Nat := if t.state.counted then some t.severity else none

/-! ### The table -/

def Tc.find (tc : Tc) (n : Nat) : Option Ticket := tc.tickets.find? fun t => decide (t.number = n)

def Core.ticket (c : Core) (n : Nat) : Option Ticket := c.tc.find n

def Core.updTc (c : Core) (f : Tc → Tc) : Core := { c with tc := f c.tc }

/-- The OH's counts follow a change of what a ticket counts under (R131). -/
def Oh.recount (o : Oh) (was is : Option Nat) : Oh :=
  if was = is then o
  else
    let o := match was with
      | some v => o.countOut v
      | none => o
    match is with
    | some v => o.countIn v
    | none => o

/-- The group and family a LINE ticket belongs to, as the number of their group record (R133, R134). -/
def Core.groupKey (c : Core) (t : Ticket) : Option Nat :=
  match t.kind, t.cls.familyOf with
  | .line, some f =>
    let g := (c.line t.subject).group
    if g < 127 then some (2 * g + f.index) else none
  | _, _ => none

/-- The group record a ticket stands alone in: it belongs there, is OPEN or ACKNOWLEDGED and has no parent (R134). -/
def Core.standsIn (c : Core) (t : Ticket) : Option Nat :=
  if t.state.standing && t.parent.isNone then c.groupKey t else none

/-- A number leaves every member list but that of `keep`. -/
def Gm.drop (gm : Gm) (n : Nat) (keep : Option Nat) : Gm :=
  { gm with members := gm.members.filterMap fun e =>
      let l := if keep = some e.1 then e.2 else e.2.filter fun m => decide (m ≠ n)
      if l = [] then none else some (e.1, l) }

/-- The TC reports ticket n to the GM: it leaves every list it no longer stands in (R134). -/
def Core.gmReport (c : Core) (n : Nat) : Core :=
  { c with gm := c.gm.drop n ((c.ticket n).bind c.standsIn) }

/-- Ticket n is changed; the counts and the group records follow. -/
def Core.putTicket (c : Core) (n : Nat) (f : Ticket → Ticket) : Core :=
  match c.ticket n with
  | none => c
  | some t =>
    ((c.updTc fun tc => { tc with tickets := tc.tickets.map fun u => if u.number = n then f u else u }).updOh
      fun o => o.recount t.counts (f t).counts).gmReport n

/-- The subject's record ceases to name the ticket (R111). -/
def Core.clearReference (c : Core) (t : Ticket) : Core :=
  match t.kind with
  | .line => c.updLine t.subject fun r => if r.ticket = some t.number then { r with ticket := none } else r
  | .shelf => c.updShelf t.subject fun r => if r.ticket = some t.number then { r with ticket := none } else r
  | .testSet => c.updTestSet t.subject fun r => if r.ticket = some t.number then { r with ticket := none } else r
  | .group | .bus => c

/-- Ticket n leaves the table (R111). -/
def Core.dropTicket (c : Core) (n : Nat) : Core :=
  match c.ticket n with
  | none => c
  | some t =>
    (((c.updTc fun tc => { tc with
          tickets := tc.tickets.filter fun u => decide (u.number ≠ n)
          notices := tc.notices.filter fun m => decide (m ≠ n) }).updOh
        fun o => o.recount t.counts none).clearReference t).gmReport n

/-! ### Numbers and room (R114, R115) -/

/-- The ticket number after n. -/
def nextNumber (n : Nat) : Nat := if n < 65535 then n + 1 else 1

/-- The first number from n on that no ticket holds; the table holds at most 256 tickets. -/
def Tc.freeNumber (tc : Tc) : Nat → Nat → Nat
  | 0, n => n
  | k + 1, n => if (tc.find n).isNone then n else Tc.freeNumber tc k (nextNumber n)

/-- A ticket enters the table under the next number and creation order; the new number comes with the new state. -/
def Core.enter (c : Core) (t : Ticket) : Core × Nat :=
  let n := c.tc.freeNumber 256 c.tc.counter
  let t := { t with number := n, creation := c.tc.created }
  ((c.updTc fun tc => { tc with tickets := tc.tickets ++ [t], counter := nextNumber n, created := tc.created + 1 }).updOh
      fun o => o.recount none t.counts, n)

/-- Room for one more ticket: with 256 in the table the oldest PROVISIONAL ticket is evicted; with none, TICKETS_FULL is reported and
there is no room (R115). -/
def Core.makeRoom (c : Core) : Core × Bool :=
  if c.tc.tickets.length < 256 then (c, true)
  else match c.tc.tickets.find? fun t => decide (t.state = .provisional) with
    | some t => (c.dropTicket t.number, true)
    | none => (c.updOh fun o => o.latchFlag .ticketsFull, false)

/-! ### Notices (R129) -/

/-- Ticket n is a child of a group ticket that is not CLOSING (R129, R140). -/
def Core.childOfLiveGroup (c : Core) (t : Ticket) : Bool :=
  match t.parent.bind c.ticket with
  | some g => decide (g.state ≠ .closing)
  | none => false

/-- A notice falls due on ticket n. -/
def Core.noticeDue (c : Core) (n : Nat) : Core :=
  match c.ticket n with
  | none => c
  | some t =>
    if t.noticePending || c.childOfLiveGroup t then c
    else (c.putTicket n fun t => { t with noticePending := true }).updTc fun tc => { tc with notices := tc.notices ++ [n] }

/-! ### Groups (R134–R141) -/

/-- The GROUP ticket of a group record's group and family, in any state (R133). -/
def Core.groupTicket (c : Core) (key : Nat) : Option Ticket :=
  c.tc.tickets.find? fun t =>
    decide (t.kind = .group) && decide (t.subject = key / 2)
      && decide (t.cls = .family (if key % 2 = 0 then .wet else .brk))

/-- The same, in a state other than CLOSING. -/
def Core.liveGroup (c : Core) (key : Nat) : Option Ticket :=
  match c.groupTicket key with
  | some g => if g.state = .closing then none else some g
  | none => none

/-- Children of ticket n, in creation order. -/
def Core.children (c : Core) (n : Nat) : List Ticket := c.tc.tickets.filter fun t => decide (t.parent = some n)

/-- The qualifying tickets of a group record, by first seen and then by number (R134). -/
def Core.qualifying (c : Core) (key : Nat) : List Ticket :=
  sortBy (fun a b => decide (a.firstSeen < b.firstSeen) || (decide (a.firstSeen = b.firstSeen) && decide (a.number < b.number)))
    (c.tc.tickets.filter fun t =>
      decide (c.standsIn t = some key) && decide (c.now - t.firstSeen ≤ c.oh.params.groupWindow))

/-- The highest severity among tickets. -/
def highestSeverity (ts : List Ticket) : Nat := ts.foldl (fun v t => max v t.severity) 0

/-- The member tickets become children of the GROUP ticket: a notice of theirs that waits is not sent (R137). -/
def Core.takeChildren (c : Core) (group : Nat) (members : List Ticket) : Core :=
  members.foldl (fun c t =>
    (c.putTicket t.number fun t => { t with parent := some group, noticePending := false }).updTc
      fun tc => { tc with notices := tc.notices.filter fun m => decide (m ≠ t.number) }) c

/-- GROUP_FORMED is reported to the OH (R137). -/
def Core.reportFormed (c : Core) : Core := c.updOh fun o => o.latchFlag .groupFormed

/-- The TC forms the group of a record (R137); in a table with no room it does not (R138). -/
def Core.formGroup (c : Core) (key : Nat) (members : List Ticket) : Core :=
  let r := c.makeRoom
  if r.2 then
    let e := r.1.enter
      { number := 0, kind := .group, subject := key / 2, cls := .family (if key % 2 = 0 then .wet else .brk),
        severity := highestSeverity members, state := .opened, firstSeen := c.now, lastSeen := c.now,
        occurrences := min 255 members.length, childCount := members.length }
    ((e.1.takeChildren e.2 members).noticeDue e.2).reportFormed
  else r.1

/-- The TC revives a CLOSING group ticket (R138). -/
def Core.reviveGroup (c : Core) (group : Nat) (members : List Ticket) : Core :=
  (((c.putTicket group fun g => { g with
      state := .opened, reopened := satSucc 15 g.reopened, lastSeen := c.now
      severity := max g.severity (highestSeverity members), childCount := members.length }).takeChildren group members).noticeDue
    group).reportFormed

/-- The GM examines a group record (R136): the record is brought up to date and compared with the group threshold. -/
def Core.examineGroup (c : Core) (key : Nat) : Core :=
  let members := c.qualifying key
  let c := { c with gm := { c.gm with members := Table.set [] c.gm.members key (members.map (·.number)) } }
  if members.length < c.oh.params.groupThreshold then c
  else match c.groupTicket key with
    | none => c.formGroup key members
    | some g => if g.state = .closing then c.reviveGroup g.number members else c

/-- Ticket n has become qualifying: its group record is examined (R136). -/
def Core.examineOf (c : Core) (n : Nat) : Core :=
  match (c.ticket n).bind c.standsIn with
  | none => c
  | some key => c.examineGroup key

/-- A ticket that stands alone and must be seen: its notice falls due and its group is examined. -/
def Core.standAlone (c : Core) (n : Nat) : Core := (c.noticeDue n).examineOf n

/-- Ticket n is adopted as a child of the group ticket g (R139). -/
def Core.adopt (c : Core) (n : Nat) (g : Ticket) : Core :=
  match c.ticket n with
  | none => c
  | some t =>
    let c := c.putTicket n fun t =>
      if g.state = .verifying then
        { t with parent := some g.number, state := .verifying, retest := some { reason := .verify, due := .dueAt c.now } }
      else { t with parent := some g.number }
    let c := c.putTicket g.number fun g => { g with
      childCount := g.childCount + 1, occurrences := satSucc 255 g.occurrences, lastSeen := c.now
      severity := max g.severity t.severity }
    if g.severity < t.severity then c.noticeDue g.number else c

/-- A child less: a group ticket whose child count falls to 0 becomes CLOSING and its notice falls due (R141, R143). -/
def Core.childGone (c : Core) (group : Nat) : Core :=
  let c := c.putTicket group fun g =>
    if g.childCount ≤ 1 then { g with childCount := 0, state := .closing, retest := none }
    else { g with childCount := g.childCount - 1 }
  match c.ticket group with
  | some g => if g.childCount = 0 then c.noticeDue group else c
  | none => c

/-- The group and family that ticket n belongs to are examined (R141), whether or not the ticket qualifies. -/
def Core.examineHome (c : Core) (n : Nat) : Core :=
  match (c.ticket n).bind c.groupKey with
  | none => c
  | some key => c.examineGroup key

/-- A child is released from its group (R141): it keeps its state, its notice falls due when it is OPEN or ACKNOWLEDGED, and its group is
examined. The closure notice of a group that loses its last child so falls due before the child's own (log 56). -/
def Core.releaseChild (c : Core) (n : Nat) : Core :=
  match c.ticket n with
  | none => c
  | some t =>
    match t.parent with
    | none => c
    | some p =>
      let c := (c.putTicket n fun t => { t with parent := none }).childGone p
      (if t.state.standing then c.noticeDue n else c).examineHome n

/-! ### Line tickets (R117–R121) -/

/-- The last values a run gives a ticket: the failing results, or with none the results that are not VOID, the first four (R117). -/
def Quals.isVoid (q : Quals) : Bool := q.voidLoss || q.voidRange || q.voidSkipped

def lastValuesOf (results : List StepResult) : List LastValue :=
  let failing := results.filter fun r => decide (r.verdict = .fail)
  let source := if failing = [] then results.filter fun r => !r.quals.isVoid else failing
  (source.take 4).map fun r => { channel := r.channel, value := r.value, quals := r.quals }

/-- A PROVISIONAL ticket becomes OPEN: a standing group of its cable adopts it, or its notice falls due and its group is examined
(R120, R121, R123, R139). -/
def Core.openProvisional (c : Core) (n : Nat) : Core :=
  let c := c.putTicket n fun t => { t with state := .opened, retest := none }
  match ((c.ticket n).bind c.groupKey).bind c.liveGroup with
  | some g => c.adopt n g
  | none => c.standAlone n

/-- A LINE ticket is created for a line that has none (R117, R118, R119): PROVISIONAL with a CONFIRM retest wanted, or OPEN. A line
of a standing group has it created OPEN and adopted (R139). -/
def Core.createLine (c : Core) (l : Nat) (cls : FaultClass) (provisional : Bool) (values : List LastValue) : Core :=
  let r := c.makeRoom
  if r.2 then
    let c := r.1
    let fresh : Ticket :=
      { number := 0, kind := .line, subject := l, cls := .fault cls, severity := cls.severity, state := .opened,
        firstSeen := c.now, lastSeen := c.now, lastValues := values }
    match (c.groupKey fresh).bind c.liveGroup with
    | some g =>
      let e := c.enter fresh
      (e.1.updLine l fun r => { r with ticket := some e.2, unticketed := false }).adopt e.2 g
    | none =>
      if provisional then
        let e := c.enter { fresh with
          state := .provisional
          retest := some { reason := .confirm, due := .dueAt (c.now + c.oh.params.confirmDelay) } }
        e.1.updLine l fun r => { r with ticket := some e.2, unticketed := false }
      else
        let e := c.enter fresh
        (e.1.updLine l fun r => { r with ticket := some e.2, unticketed := false }).standAlone e.2
  else r.1.updLine l fun r => { r with unticketed := true }

/-- The update of R120: last seen, occurrences, last values, UNCONFIRMED, and the class raised by a class of greater severity. -/
def Ticket.update (t : Ticket) (now : Nat) (cls : FaultClass) (values : Option (List LastValue)) : Ticket :=
  let t := { t with lastSeen := now, occurrences := satSucc 255 t.occurrences, unconfirmed := false,
                    lastValues := values.getD t.lastValues }
  if t.severity < cls.severity then { t with cls := .fault cls, severity := cls.severity } else t

/-- VERIFYING or CLOSING to OPEN (R120, R126). -/
def Ticket.reopen (t : Ticket) : Ticket := { t with state := .opened, reopened := satSucc 15 t.reopened, retest := none }

/-- A child's class has been raised to this severity: a parent of less severity takes it, and its notice falls due (R140). -/
def Core.raiseParent (c : Core) (group severity : Nat) : Core :=
  match c.ticket group with
  | some g =>
    if g.severity < severity then (c.putTicket group fun g => { g with severity := severity }).noticeDue group else c
  | none => c

/-- A failure reaches ticket n (R120, R140, R143). A child raised into the other family first gives its parent a greater severity, and is
then released (log 33). `direct` is a direct failure of R119. -/
def Core.failure (c : Core) (n : Nat) (cls : FaultClass) (values : Option (List LastValue)) (direct : Bool) : Core :=
  match c.ticket n with
  | none => c
  | some t =>
    let key := c.groupKey t
    let raised := decide (t.severity < cls.severity)
    let c := c.putTicket n fun t => t.update c.now cls values
    let moved := decide ((c.ticket n).bind c.groupKey ≠ key)
    match t.state, t.parent with
    | .provisional, _ => if direct then c.openProvisional n else c
    | .opened, none | .acknowledged, none =>
      let c := if raised then c.noticeDue n else c
      if moved then c.examineOf n else c
    | .opened, some p | .acknowledged, some p =>
      let c := c.raiseParent p (if raised then cls.severity else 0)
      if moved then c.releaseChild n else c
    | .verifying, none | .closing, none => (c.putTicket n fun t => t.reopen).standAlone n
    | .verifying, some _ | .closing, some _ => (c.putTicket n fun t => t.reopen).releaseChild n

/-- A direct failure on a line (R119). -/
def Core.directFailure (c : Core) (l : Nat) (cls : FaultClass) (values : Option (List LastValue)) : Core :=
  match (c.line l).ticket with
  | some n => c.failure n cls values true
  | none => c.createLine l cls false (values.getD [])

/-- The two classes are of one family, or one class of no family (R121). -/
def sameFamily (a : TicketClass) (b : FaultClass) : Bool :=
  decide (a = .fault b) || (b.family.isSome && decide (a.familyOf = b.family))

/-- A CONFIRM retest judged FAIL (R121). -/
def Core.confirmFail (c : Core) (n : Nat) (cls : FaultClass) (values : List LastValue) : Core :=
  (c.putTicket n fun t =>
    let u := t.update c.now cls (some values)
    if sameFamily t.cls cls then u else { u with cls := .fault cls, severity := cls.severity }).openProvisional n

/-- A VERIFY retest judged GOOD (R126, R143). -/
def Core.verifyGood (c : Core) (n : Nat) : Core :=
  match c.ticket n with
  | none => c
  | some t =>
    match t.parent with
    | none => (c.putTicket n fun t => { t with state := .closing, retest := none }).noticeDue n
    | some p => ((c.putTicket n fun t => { t with state := .closing, retest := none }).dropTicket n).childGone p

/-! ### Retests wanted (R122, R123) -/

/-- The ticket a CONFIRM or VERIFY retest is matched with (R116): its reference names a ticket of its line whose retest wanted is of
its reason and outstanding. A run is handed over before its pre-empted retest returns, so that none is due when idle here (log 18). -/
def Core.matched (c : Core) (line : Nat) (reason : Reason) (ref : Option Nat) : Option Ticket :=
  match ref.bind c.ticket with
  | none => none
  | some t =>
    match t.retest with
    | some w =>
      if t.kind = .line ∧ t.subject = line ∧ w.reason = reason ∧ w.due = .outstanding then some t else none
    | none => none

/-- A retest ends without a verdict: an attempt is counted and the retest falls due again; a CONFIRM retest is given up at 3 (R123). -/
def Core.retestAttempt (c : Core) (n : Nat) (whenIdle : Bool) : Core :=
  match c.ticket n with
  | none => c
  | some t =>
    match t.retest with
    | none => c
    | some w =>
      let attempts := satSucc 3 w.attempts
      if w.reason = .confirm ∧ 3 ≤ attempts then
        (c.putTicket n fun t => { t with unconfirmed := true }).openProvisional n
      else
        let due : Due := if whenIdle then .whenIdle else .dueAt (c.now + c.oh.params.confirmDelay)
        c.putTicket n fun t => { t with retest := some { w with attempts := attempts, fellDue := none, due := due } }

/-- A CONFIRM or VERIFY retest comes back from the AC (R41, R123). -/
def Core.retestReturned (c : Core) (r : Request) (preEmpted : Bool) : Core :=
  match r.reason with
  | none => c
  | some reason =>
    match c.matched r.line reason r.ticketRef with
    | none => c
    | some t => c.retestAttempt t.number preEmpted

/-! ### What a run brings (R116) -/

/-- The three verdicts of R116. -/
inductive RunVerdict where
  | fail (cls : FaultClass)
  | good
  | none
  deriving DecidableEq, Repr

def runVerdict (outcome : RunOutcome) : Option FaultClass → RunVerdict
  | some cls => .fail cls
  | none => if outcome = .complete then .good else .none

/-- The hand-over of a CONFIRM or VERIFY retest. -/
def Core.judgeRetest (c : Core) (r : Request) (reason : Reason) (outcome : RunOutcome) (verdict : RunVerdict)
    (values : List LastValue) : Core :=
  match c.matched r.line reason r.ticketRef, verdict with
  | none, .fail cls => c.directFailure r.line cls (some values)
  | none, _ => c
  | some t, .fail cls =>
    if reason = .confirm then c.confirmFail t.number cls values else c.failure t.number cls (some values) false
  | some t, .good => if reason = .confirm then c.dropTicket t.number else c.verifyGood t.number
  | some t, .none => if outcome = .abortedCall then c else c.retestAttempt t.number false

/-- The hand-over of a run to the TC (R116). -/
def Core.handOver (c : Core) (r : Request) (outcome : RunOutcome) (cls : Option FaultClass) (results : List StepResult)
    (degrading : Bool) : Core :=
  let values := lastValuesOf results
  let verdict := runVerdict outcome cls
  let c :=
    match r.cls, r.reason, verdict with
    | .routine, _, .fail cls =>
      match (c.line r.line).ticket with
      | some n => c.failure n cls (some values) false
      | none => c.createLine r.line cls true values
    | .desk, _, .fail cls => if r.ticketFlag then c.directFailure r.line cls (some values) else c
    | .retest, some .hits, .fail cls => c.directFailure r.line cls (some values)
    | .retest, some .lockout, .fail cls => c.directFailure r.line cls (some values)
    | .retest, some .lockout, .good => c.directFailure r.line .permanentLoop (some values)
    | .retest, some .confirm, v => c.judgeRetest r .confirm outcome v values
    | .retest, some .verify, v => c.judgeRetest r .verify outcome v values
    | _, _, _ => c
  if degrading then
    match (c.line r.line).ticket with
    | some n => c.failure n .degrading none true
    | none => c.createLine r.line .degrading false values
  else c

/-! ### Equipment tickets (R127, R128) -/

/-- The ticket of an equipment subject: by the subject record's reference, a BUS ticket by its kind and bus (R111, R127). -/
def Core.equipmentTicket (c : Core) (kind : TicketKind) (subject : Nat) : Option Ticket :=
  match kind with
  | .shelf => (c.shelf subject).ticket.bind c.ticket
  | .testSet => (c.testSet subject).ticket.bind c.ticket
  | .bus => c.tc.tickets.find? fun t => decide (t.kind = .bus) && decide (t.subject = subject)
  | .line | .group => none

/-- The subject's record names its new ticket (R127). -/
def Core.setReference (c : Core) (kind : TicketKind) (subject n : Nat) : Core :=
  match kind with
  | .shelf => c.updShelf subject fun r => { r with ticket := some n }
  | .testSet => c.updTestSet subject fun r => { r with ticket := some n }
  | .line | .group | .bus => c

/-- The TC is asked for an equipment ticket (R127). -/
def Core.askEquipment (c : Core) (kind : TicketKind) (subject : Nat) (cls : FaultClass) : Core :=
  match c.equipmentTicket kind subject with
  | none =>
    let r := c.makeRoom
    if r.2 then
      let e := r.1.enter { number := 0, kind := kind, subject := subject, cls := .fault cls, severity := 3, state := .opened,
                           firstSeen := c.now, lastSeen := c.now }
      (e.1.setReference kind subject e.2).noticeDue e.2
    else r.1
  | some t =>
    let c' := c.putTicket t.number fun t => { t with lastSeen := c.now, occurrences := satSucc 255 t.occurrences }
    if t.state = .closing then
      (c'.putTicket t.number fun t => { t with state := .opened, reopened := satSucc 15 t.reopened }).noticeDue t.number
    else c'

/-- The TC is told that an equipment subject has recovered (R128). -/
def Core.recovered (c : Core) (kind : TicketKind) (subject : Nat) : Core :=
  match c.equipmentTicket kind subject with
  | none => c
  | some t =>
    if t.state.standing then (c.putTicket t.number fun t => { t with state := .closing }).noticeDue t.number else c

/-! ### LOAD LINE and RESTART (R132, R141, R145) -/

/-- Ticket t is a child of the GROUP ticket of its own group and family. -/
def Core.childAtHome (c : Core) (t : Ticket) : Bool :=
  t.parent.isSome && decide (t.parent = ((c.groupKey t).bind c.groupTicket).map (·.number))

/-- A LOAD LINE has changed the group of a line with a ticket (R134, R136, R141). A ticket that an earlier line of the same order has
already made a child of its new group stays one. -/
def Core.lineRegrouped (c : Core) (l : Nat) : Core :=
  match (c.line l).ticket with
  | none => c
  | some n =>
    let c := c.gmReport n
    match c.ticket n with
    | none => c
    | some t => if t.parent.isNone then c.examineOf n else if c.childAtHome t then c else c.releaseChild n

/-- The TC at RESTART (R132): PROVISIONAL tickets are discarded, attempts become 0, an outstanding retest of a LINE ticket becomes due
at now, and the notice list is rebuilt in ascending order of number. -/
def Core.restartTickets (c : Core) : Core :=
  let provisional := (c.tc.tickets.filter fun t => decide (t.state = .provisional)).map (·.number)
  let c := provisional.foldl (fun c n => c.dropTicket n) c
  let now := c.now
  c.updTc fun tc =>
    let tickets := tc.tickets.map fun t =>
      match t.retest with
      | none => t
      | some w =>
        if t.kind = .line ∧ w.due = .outstanding then
          { t with retest := some { w with attempts := 0, due := .dueAt now, fellDue := none } }
        else { t with retest := some { w with attempts := 0 } }
    { tc with
      tickets := tickets
      notices := sortBy (fun a b => decide (a < b)) ((tickets.filter (·.noticePending)).map (·.number)) }

/-- The GM rebuilds every group record (R145). -/
def Core.rebuildGroups (c : Core) : Core :=
  let keys := c.tc.tickets.filterMap c.standsIn
  { c with gm := { members := keys.foldl (fun m k => Table.set [] m k ((c.qualifying k).map (·.number))) [] } }

/-! ### The desk's orders (R124, R125, R142) -/

/-- ACK on a ticket number: the answer, and the new state (R124, R140, R142). -/
def Core.ack (c : Core) (n : Nat) : Core × Answer :=
  match c.ticket n with
  | none => (c, .badArg)
  | some t =>
    if t.parent.isSome then (c, .inGroup)
    else match t.state with
      | .provisional => (c, .badArg)
      | .opened => (c.putTicket n fun t => { t with state := .acknowledged }, .accepted)
      | .acknowledged | .verifying | .closing => (c, .accepted)

/-- A ticket goes to verification (R125, R142). -/
def Ticket.toVerify (t : Ticket) (due : Due) : Ticket :=
  { t with state := .verifying, retest := some { reason := .verify, due := due } }

/-- CLEAR on a group ticket fans out to its children (R142): their numbers come with the new state. -/
def Core.fanOut (c : Core) (n : Nat) : Core × List Nat :=
  let going := ((c.children n).filter fun t => t.state.standing).map (·.number)
  let c := c.putTicket n fun t => t.toVerify .outstanding
  (going.foldl (fun c m => c.putTicket m fun t => t.toVerify (.dueAt c.now)) c, going)

/-- The line's trend is removed by a CLEAR on its DEGRADING ticket (R110). -/
def Core.removeTrend (c : Core) (l : Nat) : Core := c.updLine l fun r => { r with trend := none }

end Sys2Proof.Machine
end

