-- ==== Sys2Proof/Machine/Access.lean ====
section
/-! DEFINITION. The Access Controller's queue and arbiter (R20–R27, R122): offers, the grant walk, the retests that the Ticket
Controller offers, and the RESULT list that every ending writes to (R89). -/

namespace Sys2Proof.Machine

/-! ### Requests (R20, R21) -/

/-- The line's routine programme, DEFAULT read as the default routine programme (R2, R14, R122, R153). -/
def State.routineProgramme (s : State) (l : Nat) : Nat := (s.line l).programme.getD s.params.defaultProgramme

/-- A request of the Line Watch, the Ticket Controller or the Routine Sweep (R21). -/
def State.backgroundRequest (s : State) (cls : ReqClass) (l programme wait : Nat) (reason : Option Reason) (ticket : Option Nat) :
    Request :=
  { cls := cls, line := l, programme := some programme, kinds := s.ms.requiredKinds (some programme),
    hold := s.params.holdLimit, wait := wait, reason := reason, ticketRef := ticket }

/-- A RETEST request: its wait limit is 300 s. -/
def State.retestRequest (s : State) (l programme : Nat) (reason : Reason) (ticket : Option Nat) : Request :=
  s.backgroundRequest .retest l programme 300 (some reason) ticket

/-- The ROUTINE requests queued, with those carried by slots in SEIZING, HELD or RELEASING (R22, R151). -/
def State.routineCount (s : State) : Nat :=
  (s.ac.queue.countP fun r => decide (r.cls = .routine))
    + slotNumbers.countP fun b =>
        (s.slot b).state.live && decide ((s.slot b).request.map (·.cls) = some .routine)

/-- A test set has agreed kinds that contain these. -/
def TestSet.agrees (t : TestSet) (k : KindSet) : Bool :=
  match t.agreedKinds with
  | none => false
  | some a => a.contains k

/-- Some set in PROBING, READY or SILENT agrees the kinds (R22 test 3). -/
def State.someSetAgrees (s : State) (k : KindSet) : Bool :=
  slotNumbers.any fun n =>
    (decide ((s.testSet n).state = .probing) || decide ((s.testSet n).state = .ready) || decide ((s.testSet n).state = .silent))
      && (s.testSet n).agrees k

/-- The refusal of an offered request: the first test of R22 that fails. R22's order also holds for a line IN_ACCESS on a FAULTED slot of
a SILENT shelf, of which R5 says DUPLICATE (log 60). -/
def State.refusal (s : State) (r : Request) : Option Answer :=
  if (s.shelf (shelfOf r.line)).state = .unfitted ∨ (s.shelf (shelfOf r.line)).state = .silent then some .shelfSilent
  else if (s.line r.line).access ≠ .none then some .duplicate
  else if r.cls = .desk ∧ s.someSetAgrees r.kinds = false then some .noTestSet
  else if r.cls = .routine ∧ s.ac.quotaInForce ≤ s.routineCount then some .queueFull
  else if 32 ≤ s.ac.queue.length then some .queueFull
  else none

/-- A request of class a stands before one of class b (R24). -/
def ReqClass.before (a b : ReqClass) : Bool := decide (a.code < b.code)

/-- An accepted request enters the queue: behind the requests of its class and before those of the classes after it (R22, R24). -/
def State.enterQueue (s : State) (r : Request) : State :=
  let r := { r with entry := s.now, waitDue := some (s.after (1000 * r.wait)) }
  (s.updAc fun a => { a with queue := insertBy (fun x y => x.cls.before y.cls) r a.queue, walkDue := true }).updLine r.line
    fun l => { l with access := .queued }

/-- A request is offered (R22): the answer is `none` when it is accepted. -/
def State.offerCore (s : State) (r : Request) : State × Option Answer :=
  match s.refusal r with
  | some a => (s, some a)
  | none => (s.enterQueue r, none)

/-! ### The grant walk (R25–R27) -/

/-- Slot b is fitting for the request. -/
def State.fitting (s : State) (r : Request) (b : Nat) : Bool :=
  decide ((s.slot b).state = .free) && decide ((s.testSet b).state = .ready) && (s.testSet b).agrees r.kinds

/-- The line's call state lets the request be granted (R25 condition 2). -/
def State.callAllows (s : State) (r : Request) : Bool :=
  match (s.line r.line).callState with
  | .idle | .unknown => true
  | .lockout => r.force || (decide (r.cls = .retest) && decide (r.reason = some .lockout))
  | .offHook | .ringing | .inCall => r.force

/-- Conditions 1 and 2 of R25. -/
def State.grantable (s : State) (r : Request) : Bool :=
  decide ((s.shelf (shelfOf r.line)).state = .serving) && decide (1 ≤ (s.shelf (shelfOf r.line)).freePairs) && s.callAllows r

/-- The pair a grant takes: 0 when no slot carrying a line of the shelf holds pair 0 (R27). -/
def State.choosePair (s : State) (shelf : Nat) : Nat :=
  if slotNumbers.any fun b => (s.slot b).onShelf shelf && decide ((s.slot b).pair = 0) then 1 else 0

/-- The grant of slot b to a queued request (R27). -/
def State.grant (s : State) (r : Request) (b : Nat) : State :=
  let pair := s.choosePair (shelfOf r.line)
  ((((s.updAc fun a => { a with queue := a.queue.erase r, departed := true }).updLine r.line
        fun l => { l with access := .inAccess b }).updShelf (shelfOf r.line) fun h => { h with freePairs := h.freePairs - 1 }).setSlot b
      { state := .seizing, request := some { r with waitDue := none }, pair := pair, attempt := 1 }).makeReady (slotOwner b) .operate

/-- One queued request is visited by a walk. -/
def State.visit (s : State) (r : Request) : State :=
  if s.grantable r then
    match slotNumbers.find? fun b => s.fitting r b with
    | some b => s.grant r b
    | none => s
  else s

/-- A walk visits the queued requests in queue order (R26). -/
def State.walk (s : State) : State := s.ac.queue.foldl State.visit s

/-! ### Retests the TC offers (R122) -/

/-- The time a retest fell due, as the order of offers takes it. -/
def Retest.dueTime (w : Retest) (now : Nat) : Nat :=
  match w.due with
  | .dueAt t => t
  | .whenIdle | .outstanding => w.fellDue.getD now

/-- Ticket n's retest wanted is due at this moment. -/
def State.retestDue (s : State) (t : Ticket) : Bool :=
  match t.kind, t.retest with
  | .line, some w =>
    match w.due with
    | .dueAt time => decide (time ≤ s.now)
    | .whenIdle => decide ((s.line t.subject).callState = .idle) && decide ((s.line t.subject).access = .none)
    | .outstanding => false
  | _, _ => false

/-- The retest wanted of ticket n, if it is due, is offered to the AC. -/
def State.offerRetest (s : State) (n : Nat) : State × Option Answer :=
  match s.core.ticket n with
  | none => (s, none)
  | some t =>
    if s.retestDue t then
      match t.retest with
      | none => (s, none)
      | some w =>
        let answer := s.offerCore (s.retestRequest t.subject (s.routineProgramme t.subject) w.reason (some n))
        match answer.2 with
        | none =>
          (answer.1.updCore fun c => c.putTicket n fun t => { t with retest := some { w with due := .outstanding, fellDue := none } }, none)
        | some .shelfSilent => (answer.1.updCore fun c => c.retestAttempt n false, some .shelfSilent)
        | some a =>
          (answer.1.updCore fun c => c.putTicket n fun t =>
            { t with retest := some { w with fellDue := some (w.dueTime s.now) } }, some a)
    else (s, none)

/-- Due retests are offered one after another; the first refused QUEUE_FULL stops them (R122). One walk follows them all (log 15). -/
def State.offerRetests (s : State) : List Nat → State
  | [] => s
  | n :: ns =>
    let answer := s.offerRetest n
    if answer.2 = some .queueFull then answer.1 else answer.1.offerRetests ns

/-- The numbers of the tickets whose retest is due, by the time it fell due and then by number. -/
def State.dueRetests (s : State) : List Nat :=
  (sortBy (fun (a b : Nat × Nat) => decide (a.1 < b.1) || (decide (a.1 = b.1) && decide (a.2 < b.2)))
    ((s.core.tc.tickets.filter s.retestDue).map fun t => ((t.retest.map fun w => w.dueTime s.now).getD 0, t.number))).map (·.2)

/-- What the AC still owes at this moment is carried out: the TC offers its due retests after a departure (R122), and a walk that an
event has begun is made whole (R26). A walk's grants are departures in their turn; there are four slots, so few rounds are needed.
The offers go before the walk (log 15). -/
def State.settleRounds : Nat → State → State
  | 0, s => s
  | n + 1, s =>
    let s := if s.ac.departed then
        let s := s.updAc fun a => { a with departed := false }
        s.offerRetests s.dueRetests
      else s
    if s.ac.walkDue then State.settleRounds n ((s.updAc fun a => { a with walkDue := false }).walk) else s

def State.settle (s : State) : State := s.settleRounds 8

/-- A source offers a request; an accepted one begins a walk at once (R22). -/
def State.offer (s : State) (r : Request) : State × Option Answer :=
  match s.offerCore r with
  | (s, none) => (s.settle, none)
  | (s, some a) => (s, some a)

/-- A source that drops a refused offer. -/
def State.offerAndDrop (s : State) (r : Request) : State := (s.offer r).1

/-- A retest that falls due is offered (R122). -/
def State.offerFallen (s : State) (n : Nat) : State := (s.offerRetest n).1.settle

/-- The TC examines the line's retest due when idle (R122): on a change to IDLE and on the access state becoming NONE. Either begins the
condition afresh, so a retest that then falls due does so at this moment (log 20). -/
def State.examineIdleRetest (s : State) (l : Nat) : State :=
  match (s.line l).ticket.bind s.core.ticket with
  | none => s
  | some t =>
    if t.retest.map (·.due) = some .whenIdle then
      (s.updCore fun c => c.putTicket t.number fun t =>
        { t with retest := t.retest.map fun w => { w with fellDue := none } }).offerFallen t.number
    else s

/-! ### Commands -/

/-- What every command ends with: the AC's owed walks and the TC's offers (R26, R122), the current conditions (R180), readiness (R196), and
a latched ORDER that spells no order (R178). -/
def State.finish (s : State) : State := s.settle.refreshConditions.examineReadiness.takeBadOrder

/-- A command's step: its effect, and what every command ends with; nothing while the reset input is asserted. -/
def State.command (s : State) (f : State → State) : Host.Outcome State Fault Refusal := .next (s.whenLive fun s => (f s).finish)

/-- The step of an order command: taken from the latch and judged (R178). -/
def State.orderCommand (s : State) (i : Instr) (judge : State → State) : Host.Outcome State Fault Refusal :=
  s.command fun s => s.takeOrder i judge

/-! ### RESULTs (R88, R89) -/

/-- A RESULT joins the list; with 64 in it it is discarded. -/
def State.makeResult (s : State) (r : Result) : State :=
  s.updMs fun m => if m.results.length < 64 then { m with results := m.results ++ [r] } else m

/-- A RESULT made at the AC's word (R41, R88). -/
def State.resultOf (s : State) (r : Request) (bus : Option Nat) (outcome : RunOutcome) : State :=
  s.makeResult
    { token := r.token.getD 0, position := r.position.getD 0, line := r.line, bus := bus, cls := r.cls,
      programme := r.programme, outcome := outcome, fault := none, steps := [] }

/-! ### Orders of a slot -/

/-- A slot goes to RELEASING with this cause and attempt count 1, and a RELEASE is made ready. The hold timer stops (R39). -/
def State.beginRelease (s : State) (b : Nat) (cause : Cause) : State :=
  (s.updSlot b fun r => { r with state := .releasing, cause := some cause, attempt := 1, holdDue := none }).makeReady (slotOwner b) .release

/-- A slot's request has its one ending (R41). -/
def State.markEnded (s : State) (b : Nat) : State := s.updSlot b fun r => { r with ended := true }

/-- The DESK request of a token that stands in a slot SEIZING, HELD or RELEASING (R44). -/
def State.deskSlot (s : State) (token : Nat) : Option Nat :=
  slotNumbers.find? fun b =>
    (s.slot b).state.live && match (s.slot b).request with
      | none => false
      | some r => decide (r.cls = .desk) && decide (r.token = some token)

/-- The queued DESK request of a token. -/
def State.deskQueued (s : State) (token : Nat) : Option Request :=
  s.ac.queue.find? fun r => decide (r.cls = .desk) && decide (r.token = some token)

/-- A token names a live DESK request (R44). -/
def State.tokenLive (s : State) (token : Nat) : Bool := (s.deskSlot token).isSome || (s.deskQueued token).isSome

/-- The token that follows (R184). -/
def nextToken (n : Nat) : Nat := if n < 255 then n + 1 else 1

/-- The first token from n on that no live DESK request holds (R184). -/
def State.freeToken (s : State) : Nat → Nat → Nat
  | 0, n => n
  | k + 1, n => if s.tokenLive n then s.freeToken k (nextToken n) else n

end Sys2Proof.Machine
end

