-- ==== Sys2Proof/Machine/Operands.lean ====
section
/-! DEFINITION. The judgement and clamping of what an order carries: the records of LOAD and of the configuration image (R2, R9, R68–R71,
R146, R165, R179, R182), and the station address. -/

namespace Sys2Proof.Machine

/-- What a record's judgement gives: the record as it is applied, or the refusal. -/
abbrev Judged (α : Type) := Except Answer α

/-- A record is taken when a condition holds, else refused BAD_ARG. -/
def Judged.guard {α : Type} (ok : Bool) (v : α) : Judged α := if ok then .ok v else .error .badArg

/-- Every record is judged before any is applied: the first refused one gives the refusal and its position (R182). -/
def judgeAll {α β : Type} (judge : α → Judged β) : Nat → List α → Except (Answer × Nat) (List β)
  | _, [] => .ok []
  | n, x :: xs =>
    match judge x with
    | .error a => .error (a, n)
    | .ok y =>
      match judgeAll judge (n + 1) xs with
      | .error e => .error e
      | .ok ys => .ok (y :: ys)

/-! ### PARAMETERS (R179, R56) -/

/-- The station parameter: 0 is STRAPS. -/
def judgeStation (b : Byte) : Judged (Option Nat) :=
  if b = 0 then .ok none else Judged.guard (decide (65 ≤ b.toNat) && decide (b.toNat ≤ 126)) (some b.toNat)

/-- The maximum rate: the greatest of the three not above the value, and 250 for a value below it (R56). -/
def clampRate (v : BitVec 16) : Rate := if 1000 ≤ v.toNat then .r1000 else if 500 ≤ v.toNat then .r500 else .r250

def judgeParameters (p : ParametersArg) : Judged Params :=
  match judgeStation p.station, boolOfCode p.reportRoutine.toNat with
  | .ok station, some report =>
    Judged.guard (decide (p.lockoutProgramme.toNat ≤ 31) && decide (p.defaultProgramme.toNat ≤ 31))
      { station := station
        hitsThreshold := clamp 4 64 p.hitsThreshold.toNat
        hitsWindow := clamp 10 300 p.hitsWindow.toNat
        lockoutDelay := clamp 5 120 p.lockoutDelay.toNat
        lockoutProgramme := p.lockoutProgramme.toNat
        defaultProgramme := p.defaultProgramme.toNat
        holdLimit := clamp 5 60 p.holdLimit.toNat
        routineQuota := clamp 1 8 p.routineQuota.toNat
        maximumRate := clampRate p.maximumRate
        enabledKinds := kindsOfByte p.enabledKinds
        reportRoutine := report
        trendShift := clamp 0 7 p.trendShift.toNat
        degradeLevel := p.degradeLevel.toNat
        confirmDelay := clamp 5 120 p.confirmDelay.toNat
        groupThreshold := clamp 2 32 p.groupThreshold.toNat
        groupWindow := clamp 60 3600 p.groupWindow.toNat }
  | _, _ => .error .badArg

/-- The station a parameter record and the straps give (R179). -/
def stationOf (p : Params) (straps : BitVec 6) : Nat :=
  match p.station with
  | some n => n
  | none => if straps = 0 ∨ straps = 63 then 100 else 64 + straps.toNat

/-! ### The other tables -/

/-- A judged LINE record: group, routine-enabled and routine programme (R2). -/
structure LineSetting where
  group : Nat
  routineEnabled : Bool
  programme : Option Nat
  deriving DecidableEq, Repr

def judgeLine (r : LineArg) : Judged LineSetting :=
  match boolOfCode r.routineEnabled.toNat with
  | none => .error .badArg
  | some on =>
    Judged.guard (decide (r.group.toNat ≤ 127) && (decide (r.programme.toNat ≤ 31) || decide (r.programme = 0xFF)))
      { group := r.group.toNat, routineEnabled := on,
        programme := if r.programme = 0xFF then none else some r.programme.toNat }

def judgeShelf (r : ShelfArg) : Judged (Nat × Bool) :=
  match boolOfCode r.fitted.toNat with
  | none => .error .badArg
  | some on => Judged.guard (decide (r.shelf.toNat ≤ 63)) (r.shelf.toNat, on)

def judgeTreatment (r : TreatmentArg) : Judged (Nat × TreatmentEntry) :=
  match treatmentOfCode r.treatment.toNat with
  | none => .error .badArg
  | some t =>
    Judged.guard (decide (r.lineOffset.toNat ≤ 118) && decide (r.stateOffset.toNat ≤ 119))
      (r.kind.toNat, { treatment := t, lineOffset := r.lineOffset.toNat, stateOffset := r.stateOffset.toNat })

def judgeStatemap (r : StatemapArg) : Judged (Nat × Option CallState) :=
  match mapValueOfCode r.callState.toNat with
  | none => .error .badArg
  | some v => Judged.guard (decide (r.index.toNat ≤ 15)) (r.index.toNat, v)

/-- The programmes of the active and pending runs (R71). -/
def State.programmesInUse (s : State) : List Nat :=
  slotNumbers.filterMap (fun b => (s.run b).map (·.programme)) ++ slotNumbers.filterMap s.pendingRun

/-- The span of a programme holds step record i. -/
def Programme.spans (p : Programme) (i : Nat) : Bool := decide (p.first ≤ i) && decide (i < p.first + p.count)

/-- A step record is in use by a run or a pending run (R71). -/
def State.stepInUse (s : State) (i : Nat) : Bool :=
  s.programmesInUse.any fun p => (s.ms.programme p).any fun r => r.spans i

/-- Every step record of the span holds a step (R68). -/
def Ms.spanLoaded (m : Ms) (first count : Nat) : Bool := (List.range count).all fun k => (m.step (first + k)).isSome

/-- The contents of a PROGRAMME record (R68). -/
def State.programmeContents (s : State) (first count : Nat) : Judged (Option Programme) :=
  let n := min 12 count
  if n = 0 then .ok none
  else Judged.guard (decide (first + n - 1 ≤ 255) && s.ms.spanLoaded first n) (some { first := first, count := n })

def State.judgeProgramme (s : State) (r : ProgrammeArg) : Judged (Nat × Option Programme) :=
  if 31 < r.programme.toNat then .error .badArg
  else if s.programmesInUse.contains r.programme.toNat then .error .inUse
  else (s.programmeContents r.firstStep.toNat r.stepCount.toNat).map fun p => (r.programme.toNat, p)

/-- A loaded programme's span holds step record i (R69). -/
def Ms.stepNamed (m : Ms) (i : Nat) : Bool := m.programmes.any fun e => e.2.any fun p => p.spans i

/-- The limit set a step names: 0–63 or NONE. -/
def limitOfByte (b : Byte) : Judged (Option Nat) :=
  if b = 0xFF then .ok none else Judged.guard (decide (b.toNat ≤ 63)) (some b.toNat)

/-- The contents of a STEP record that names a kind (R69). -/
def stepContents (r : StepArg) : Judged Step :=
  match kindOfCode r.kind.toNat, leadPairOfCode r.leadPair.toNat, limitOfByte r.limitSet, stepClassOfCode r.faultClass.toNat,
      onFailOfCode r.onFail.toNat with
  | some kind, some pair, .ok limit, some cls, some onFail =>
    .ok { kind := kind, pair := pair, level := clampInt (-150000) 150000 r.level.toInt, slope := clamp 1 100 r.slope.toNat,
          settle := clamp 0 2000 r.settle.toNat, samples := clamp 1 256 r.sampleCount.toNat, limitSet := limit, faultClass := cls,
          onFail := onFail }
  | _, _, _, _, _ => .error .badArg

/-- A step record is refused IN_USE while a run uses it (R71). One of kind NONE empties its step, which no programme may name (R69); its
other fields are not read, even where they bear unassigned codes: the model's choice (log 58). -/
def State.judgeStep (s : State) (r : StepArg) : Judged (Nat × Option Step) :=
  if s.stepInUse r.step.toNat then .error .inUse
  else if r.kind = 0xFF then Judged.guard (!s.ms.stepNamed r.step.toNat) (r.step.toNat, none)
  else (stepContents r).map fun st => (r.step.toNat, some st)

/-- A limit: absent, or clamped to 999,999,999 (R70). -/
def limitOfWord (v : BitVec 32) : Option Nat := if v = 0xFFFFFFFF then none else some (min 999999999 v.toNat)

/-- The limits are in order (R70). -/
def limitsOrdered : Option Nat → Option Nat → Bool
  | some low, some high => decide (low ≤ high)
  | _, _ => true

def judgeLimit (r : LimitArg) : Judged (Nat × LimitSet) :=
  match unitOfCode r.unit.toNat with
  | none => .error .badArg
  | some unit =>
    Judged.guard (decide (r.limitSet.toNat ≤ 63) && limitsOrdered (limitOfWord r.low) (limitOfWord r.high))
      (r.limitSet.toNat,
        { unit := unit, low := limitOfWord r.low, high := limitOfWord r.high, hysteresis := clamp 0 50 r.hysteresis.toNat })

def judgeSweepRange (r : SweepRangeArg) : Judged (Nat × SweepRange) :=
  match boolOfCode r.enabled.toNat with
  | none => .error .badArg
  | some on =>
    Judged.guard (decide (r.range.toNat ≤ 15) && decide (r.first.toNat ≤ 8191) && decide (r.last.toNat ≤ 8191)
        && decide (r.first.toNat ≤ r.last.toNat))
      (r.range.toNat, { first := r.first.toNat, last := r.last.toNat, enabled := on })

/-! ### Limits of a TEST (R21) -/

/-- The hold limit of a TEST, in s. -/
def testHold (v : BitVec 16) : Nat := if v = 0 then 300 else min 900 v.toNat

/-- The wait limit of a TEST, in s. -/
def testWait (v : BitVec 16) : Nat := if v = 0 then 60 else min 600 v.toNat

end Sys2Proof.Machine
end

