-- ==== Sys2Proof/Machine/LineWatch.lean ====
section
/-! DEFINITION. The Line Watch (R10–R19): hits, lockout, deferred reports and re-offers; the endings of requests (R41) and the way out of
the access queue (R24); and the word to the Call Guard and the Line Watch that a line is free (R32, R176). -/

namespace Sys2Proof.Machine

/-! ### Hits, lockout and re-offers -/

/-- A hit is counted in the sliding window (R13). -/
def State.countHit (s : State) (l : Nat) : State :=
  s.updLine l fun r =>
    match r.hitsStart with
    | some t =>
      if t + s.params.hitsWindow < s.now then { r with hits := 1, hitsStart := some s.now } else { r with hits := r.hits + 1 }
    | none => { r with hits := 1, hitsStart := some s.now }

/-- The LW offers a HITS retest for the line; a refused one is dropped (R14, R18). -/
def State.offerHits (s : State) (l : Nat) : State :=
  s.offerAndDrop (s.retestRequest l (s.routineProgramme l) .hits none)

/-- A count at the threshold offers a HITS retest (R14). -/
def State.examineHits (s : State) (l : Nat) : State :=
  if s.params.hitsThreshold ≤ (s.line l).hits then
    (s.offerHits l).updLine l fun r => { r with hits := 0, hitsStart := some s.now, reOffer := false }
  else s

/-- The LOCKOUT retest of an episode is offered when the four conditions of R16 hold. Its start and now are whole seconds, so the delay has
run out as soon as now reaches their sum (log 54). -/
def State.examineLockout (s : State) (l : Nat) : State :=
  match (s.line l).lockoutStart with
  | none => s
  | some t =>
    if (s.line l).callState = .lockout ∧ t + s.params.lockoutDelay ≤ s.now ∧ (s.line l).access = .none then
      (s.offerAndDrop (s.retestRequest l s.params.lockoutProgramme .lockout none)).updLine l fun r => { r with lockoutStart := none }
    else s

/-- An owed re-offer is made when the call state is IDLE and the access state NONE (R18). -/
def State.examineReOffer (s : State) (l : Nat) : State :=
  if (s.line l).reOffer = true ∧ (s.line l).callState = .idle ∧ (s.line l).access = .none then
    (s.offerHits l).updLine l fun r => { r with reOffer := false }
  else s

/-! ### Reports -/

/-- A report of state st is applied to line l (R12, R15). -/
def State.applyReport (s : State) (l : Nat) (st : CallState) : State :=
  let was := (s.line l).callState
  if was = st then s
  else
    let s := s.updLine l fun r => { r with callState := st }
    let s := (s.countHit l).examineHits l
    let s := s.updLine l fun r =>
      if st = .lockout then { r with lockoutStart := some s.now }
      else if was = .lockout then { r with lockoutStart := none }
      else r
    let s := if st = .idle then (s.examineReOffer l).examineIdleRetest l else s
    s.updAc fun a => { a with walkDue := true }

/-- The slot of bus b is SEIZING, HELD or RELEASING. -/
def State.slotLive (s : State) (b : Nat) : Bool := (s.slot b).state.live

/-- The LW receives a line-state report (R10). -/
def State.lineReport (s : State) (l : Nat) (st : CallState) : State :=
  match (s.line l).access with
  | .inAccess b => if s.slotLive b then s.updLine l fun r => { r with deferred := some st } else s.applyReport l st
  | .queued | .none => s.applyReport l st

/-- The deferred report is applied as a report arriving at this moment (R11). -/
def State.applyDeferred (s : State) (l : Nat) : State :=
  match (s.line l).deferred with
  | none => s
  | some st => (s.updLine l fun r => { r with deferred := none }).applyReport l st

/-- The line's access state has become NONE: the LOCKOUT retest and the TC's retest due when idle are examined (R16, R122), the LW's
first (log 47). -/
def State.lineIdle (s : State) (l : Nat) : State := (s.examineLockout l).examineIdleRetest l

/-- The line's slot has gone FREE (R11): deferred report, LOCKOUT retest, re-offer; the TC is told too (R122). R24 lets either block's
offer come first; here the LW goes before the TC (log 47). -/
def State.accessOver (s : State) (l : Nat) : State :=
  (((s.applyDeferred l).examineLockout l).examineReOffer l).examineIdleRetest l

/-! ### The Call Guard's word that a line is free -/

/-- The held orders of a line go down in the order they entered the buffer (R176). -/
def State.releaseHeld (s : State) (l : Nat) : State :=
  (s.cg.held.foldl (fun s h => if h.line = l then s.passDown h.frame else s) s).updCg fun g =>
    { g with held := g.held.filter fun h => decide (h.line ≠ l) }

/-! ### Endings of requests (R41, R17, R154) -/

/-- An ending at the AC's word. -/
inductive Ending where
  | outcome (o : RunOutcome)
  | preEmpted
  | quotaLowered
  deriving DecidableEq, Repr

/-- A RETEST goes back to its source: the LW for HITS and LOCKOUT (R17), the TC for CONFIRM and VERIFY (R123). -/
def State.returnRetest (s : State) (r : Request) (preEmpted : Bool) : State :=
  match r.reason with
  | some .hits => if preEmpted then s.updLine r.line fun l => { l with reOffer := true } else s
  | some .lockout =>
    if preEmpted then
      s.updLine r.line fun l => if l.callState = .lockout then { l with lockoutStart := some s.now } else l
    else s
  | some .confirm | some .verify => s.updCore fun c => c.retestReturned r preEmpted
  | none => s

/-- The RS's mark on a line (R7, R154). -/
def State.markSkipped (s : State) (l : Nat) : State := s.updLine l fun r => { r with skipped := true }

/-- A request ends, and its ending is handed to its source (R41). -/
def State.endRequest (s : State) (r : Request) (bus : Option Nat) (e : Ending) : State :=
  match r.cls, e with
  | .desk, .outcome o => s.resultOf r bus o
  | .desk, .preEmpted | .desk, .quotaLowered => s
  | .retest, .outcome _ => s.returnRetest r false
  | .retest, .preEmpted => s.returnRetest r true
  | .retest, .quotaLowered => s
  | .routine, .outcome .waitExpired | .routine, .preEmpted | .routine, .quotaLowered => s.markSkipped r.line
  | .routine, .outcome _ => s

/-- The request of a slot ends, unless it has had its ending. Its RESULT carries the slot's bus, also while the slot is SEIZING (R88,
log 41). -/
def State.endSlotRequest (s : State) (b : Nat) (e : Ending) : State :=
  if (s.slot b).ended then s
  else match (s.slot b).request with
    | none => s
    | some r => (s.markEnded b).endRequest r (some b) e

/-! ### Out of the queue (R24) -/

/-- A request leaves the queue without a grant. -/
def State.dequeue (s : State) (r : Request) : State :=
  (s.updAc fun a => { a with queue := a.queue.erase r, departed := true }).updLine r.line fun l => { l with access := .none }

/-- Requests leave the queue with an ending; their lines have become NONE. All end before the first line is examined (log 39). -/
def State.expel (s : State) (rs : List Request) (e : Ending) : State :=
  let s := rs.foldl (fun s r => (s.dequeue r).endRequest r none e) s
  rs.foldl (fun s r => s.lineIdle r.line) s

/-- A lowered quota removes the latest-entered queued ROUTINE requests until the count is at most the new value (R23). The queue keeps
its classes together, so the latest entered is the last of its class. -/
def State.quotaExcess (s : State) (quota : Nat) : List Request :=
  ((s.ac.queue.filter fun r => decide (r.cls = .routine)).reverse).take (s.routineCount - quota)

/-- The routine quota parameter has changed from `was` to the record's value (R23). A raise takes the new value at once, also below the ROUTINE
count of the moment (log 38). -/
def State.quotaChanged (s : State) (was : Nat) : State :=
  let quota := s.params.routineQuota
  if was < quota then s.updAc fun a => { a with quotaInForce := quota }
  else if quota < was then
    let s := s.expel (s.quotaExcess quota) .quotaLowered
    s.updAc fun a => { a with quotaInForce := max quota s.routineCount }
  else s

/-- A ROUTINE access has left SEIZING, HELD and RELEASING: a quota in force above the parameter falls by 1 (R23). -/
def State.routineLeft (s : State) (r : Option Request) : State :=
  match r with
  | some q =>
    if q.cls = .routine ∧ s.params.routineQuota < s.ac.quotaInForce then
      s.updAc fun a => { a with quotaInForce := a.quotaInForce - 1 }
    else s
  | none => s

end Sys2Proof.Machine
end

