-- ==== Sys2Proof/Machine/Measure.lean ====
section
/-! DEFINITION. The Measurement Arithmetic Unit (section 5): accumulation, the value of each kind, overload, verdicts, and the closing of a
run into channels, class and trend. -/

namespace Sys2Proof.Machine

/-! ### Accumulation (R91) -/

/-- The voltage code as both sums take it: −32,768 is taken as −32,767. -/
def summedCode (code : Int) : Int := if code = -32768 then -32767 else code

/-- A delivered sample is added to an accumulator, under the current range it was taken on. -/
def Accum.add (a : Accum) (kind : Kind) (range : CurrentRange) (x : Sample) : Accum :=
  let v := summedCode x.voltage
  { sv := a.sv + v, si := a.si + x.current,
    sv2 := match kind with
      | .acv => a.sv2 + v.natAbs * v.natAbs
      | .dcv | .resIns | .resLoop | .cap => a.sv2
    range := range, overI := a.overI || x.overI,
    overV := match a.overV with
      | some sign => some sign
      | none => if x.overV then some (decide (0 ≤ x.voltage)) else none }

/-! ### Means (R92) -/

/-- The step of a current code in nA. -/
def CurrentRange.lsb : CurrentRange → Nat
  | .low => 5
  | .high => 1000

/-- Vm, in mV. -/
def Accum.meanVoltage (a : Accum) (n : Nat) : Int := rounded (a.sv * 10) n

/-- I, in nA. -/
def Accum.meanCurrent (a : Accum) (n : Nat) : Int := rounded (a.si * a.range.lsb) n

/-! ### Values (R93–R100) -/

/-- The RMS of the alternating part of the voltage, in mV (R94). -/
def Accum.acVoltage (a : Accum) (n : Nat) : Int :=
  ((isqrt (100 * ((n : Int) * a.sv2 - a.sv * a.sv).toNat) / n : Nat) : Int)

/-- The value of a step with its qualifiers. -/
structure Figure where
  value : Int
  quals : Quals := {}
  deriving DecidableEq, Repr

/-- The greatest resistance in Ω. -/
def greatestOhm : Nat := 999999999

/-- A resistance from the net voltage and the mean current (R96, R97). -/
def resistance (vnet i : Int) (lsb : Nat) : Figure :=
  if i.natAbs < 2 * lsb then { value := greatestOhm, quals := { openCircuit := true } }
  else
    { value := (min greatestOhm ((2 * vnet.natAbs * 1000000 + i.natAbs) / (2 * i.natAbs)) : Nat),
      quals := { reverse := decide (vnet < 0 ∧ 0 < i) || decide (0 < vnet ∧ i < 0) } }

/-- A capacitance in tenths of a nanofarad from the two ramps' means (R99). -/
def capacitance (iUp iDown : Int) (slope : Nat) : Figure :=
  let d := iUp - iDown
  if d ≤ 0 then { value := 0, quals := { reverse := true } }
  else { value := (min 65535 ((d.toNat * 10 + slope) / (2 * slope)) : Nat) }

/-- A value that an overload has put in place bears OVERRANGE alone (R100). -/
def overranged (v : Int) : Figure := { value := v, quals := { overrange := true } }

/-- The voltage an overload of this sign stands for, in mV. -/
def overVoltage (positive : Bool) : Int := if positive then 327670 else -327670

/-- The value of a step from its working accumulator, its held one for CAP, and the foreign voltage for a resistance (R93–R100). Current
overload is examined first: with its mark set a DCV and an ACV step are computed, whatever the voltage mark (log 42). -/
def figureOf (st : Step) (working held : Accum) (vf : Int) : Figure :=
  match st.kind with
  | .dcv =>
    match working.overI, working.overV with
    | false, some sign => overranged (overVoltage sign)
    | _, _ => { value := working.meanVoltage st.samples }
  | .acv =>
    if working.overI = false ∧ working.overV.isSome = true then overranged 327670
    else { value := working.acVoltage st.samples }
  | .resIns | .resLoop =>
    if working.overI then overranged 0
    else if working.overV.isSome then overranged greatestOhm
    else resistance (working.meanVoltage st.samples - vf) (working.meanCurrent st.samples) working.range.lsb
  | .cap =>
    if working.overI || held.overI then overranged 65535
    else capacitance (held.meanCurrent st.samples) (working.meanCurrent st.samples) st.slope

/-- The channel of a kind and a lead pair (R101). -/
def channelOf : Kind → LeadPair → Channel
  | .dcv, _ => .fv
  | .acv, _ => .fv
  | .resIns, .tg => .irTg
  | .resIns, .rg => .irRg
  | .resIns, .tr => .irTr
  | .resLoop, _ => .loop
  | .cap, _ => .cap

/-- The foreign voltage of a lead pair: the last DCV result of the run on it that is not VOID, else 0 (R95). -/
def Ms.foreignVoltage (m : Ms) (p : Programme) (results : List StepResult) (pair : LeadPair) : Int :=
  results.foldl (fun v r =>
    match m.stepOf p r.step with
    | some st => if st.kind = .dcv ∧ st.pair = pair ∧ r.quals.isVoid = false then r.value else v
    | none => v) 0

/-! ### Verdicts (R102, R103) -/

def Channels.get (c : Channels) : Channel → Verdict
  | .fv => c.fv
  | .irTg => c.irTg
  | .irRg => c.irRg
  | .irTr => c.irTr
  | .loop => c.loop
  | .cap => c.cap

def Kind.unit : Kind → LimitUnit
  | .dcv | .acv => .millivolt
  | .resIns | .resLoop => .ohm
  | .cap => .tenthNanofarad

/-- The effective low limit: tightened by the hysteresis when the channel started FAIL. -/
def LimitSet.effectiveLow (l : LimitSet) (start : Verdict) : Option Nat :=
  l.low.map fun low => if start = .fail then low + low * l.hysteresis / 100 else low

/-- The effective high limit. -/
def LimitSet.effectiveHigh (l : LimitSet) (start : Verdict) : Option Nat :=
  l.high.map fun high => if start = .fail then high - high * l.hysteresis / 100 else high

/-- The figure a step is judged on: the magnitude on channel FV, the value itself on every other (R103). -/
def judgedFigure (c : Channel) (value : Int) : Int := if c = .fv then value.natAbs else value

/-- The verdict of a step that is not VOID (R103). -/
def verdictOf (kind : Kind) (limit : Option LimitSet) (start : Verdict) (c : Channel) (value : Int) : Verdict :=
  match limit with
  | none => .unset
  | some l =>
    if l.unit ≠ kind.unit ∨ (l.low = none ∧ l.high = none) then .unset
    else if (match l.effectiveLow start with
        | some low => decide (judgedFigure c value < low)
        | none => false)
      || (match l.effectiveHigh start with
        | some high => decide ((high : Int) < judgedFigure c value)
        | none => false) then .fail
    else .good

/-- CHECK: the step result (R80, R104). -/
def Ms.check (m : Ms) (r : Run) (p : Programme) (st : Step) : StepResult :=
  let c := channelOf st.kind st.pair
  let f := figureOf st r.working (r.held.getD {}) (m.foreignVoltage p r.results st.pair)
  { step := r.step, channel := c, value := f.value, quals := f.quals,
    verdict := verdictOf st.kind (st.limitSet.map m.limit) (r.start.get c) c f.value }

/-- A VOID result: value 0, verdict NONE, its qualifier alone (R72). -/
def voidResult (step : Nat) (st : Step) (q : Quals) : StepResult :=
  { step := step, channel := channelOf st.kind st.pair, value := 0, quals := q, verdict := .unset }

/-! ### The two ramps (R79, R98) -/

/-- E, the swing of one ramp in mV. -/
def Step.swing (st : Step) (period : Nat) : Nat := st.slope * (st.settle + st.samples * period)

/-- A CAP step passes the range pre-check. -/
def Step.rampFits (st : Step) (period : Nat) : Bool := decide (st.level.natAbs + st.swing period / 2 ≤ 150000)

/-- The start level of a ramp. -/
def Step.rampStart (st : Step) (period : Nat) (up : Bool) : Int :=
  if up then st.level - (st.swing period / 2 : Nat) else st.level + (st.swing period / 2 : Nat)

/-! ### Closing a run (R105–R109) -/

/-- A channel after the run: FAIL or GOOD when it was checked, else kept (R105). -/
def closedVerdict (results : List StepResult) (c : Channel) (was : Verdict) : Verdict :=
  if results.any fun r => decide (r.channel = c) && decide (r.verdict = .fail) then .fail
  else if results.any fun r => decide (r.channel = c) && decide (r.verdict = .good) then .good
  else was

def Channels.close (c : Channels) (results : List StepResult) : Channels :=
  { fv := closedVerdict results .fv c.fv, irTg := closedVerdict results .irTg c.irTg,
    irRg := closedVerdict results .irRg c.irRg, irTr := closedVerdict results .irTr c.irTr,
    loop := closedVerdict results .loop c.loop, cap := closedVerdict results .cap c.cap }

/-- The class of a run: of the failing steps' classes the one of highest severity, the earliest step among equals (R106). -/
def Ms.runClass (m : Ms) (p : Programme) (results : List StepResult) : Option FaultClass :=
  results.foldl (fun c r =>
    if r.verdict = .fail then
      match (m.stepOf p r.step).map (·.faultClass), c with
      | some f, none => some f
      | some f, some g => if g.severity < f.severity then some f else some g
      | none, c => c
    else c) none

/-- The last value on a channel that is not VOID. -/
def lastReading (results : List StepResult) (c : Channel) : Option Int :=
  results.foldl (fun v r => if r.channel = c ∧ r.quals.isVoid = false then some r.value else v) none

/-- The line's trend after a ROUTINE run (R108). -/
def movedTrend (was : Option Nat) (shift : Nat) (results : List StepResult) : Option Nat :=
  match lastReading results .irTg, lastReading results .irRg with
  | some t, some r =>
    let m := min 65535 ((min t r).toNat / 1000)
    match was with
    | none => some m
    | some w => some ((w : Int) + ((m : Int) - w).tdiv (2 ^ shift)).toNat
  | _, _ => was

/-- The run moves the trend: it is ROUTINE and holds both ground insulation readings (R108). -/
def movesTrend (cls : ReqClass) (results : List StepResult) : Bool :=
  decide (cls = .routine) && (lastReading results .irTg).isSome && (lastReading results .irRg).isSome

/-- DEGRADING is reported (R109). -/
def degradingReport (cls : ReqClass) (results : List StepResult) (level : Nat) (trend : Option Nat) (fault : Option FaultClass) : Bool :=
  movesTrend cls results && decide (level ≠ 0) && decide (fault = none)
    && match trend with
      | some t => decide (t < level)
      | none => false

end Sys2Proof.Machine
end

