-- ==== Sys2Proof/Machine/Links.lean ====
section
/-! DEFINITION. What the Test-Set Link Controller sends (R52, R55, R58, R59): link frames, sources, streams, enumeration and the fixing of
an agreement; and the stopping of its timers. -/

namespace Sys2Proof.Machine

/-- A frame is made on a link (R52). -/
def State.sendLink (s : State) (n : Nat) (m : LinkMsg) (timed : Bool) : State :=
  s.updTestSet n fun t => { t with sending := t.sending ++ [{ msg := m, timed := timed }] }

/-- STREAM on or off is sent and recorded; STREAM on resets the expected next sample index (R59). -/
def State.sendStream (s : State) (n : Nat) (on : Bool) : State :=
  (s.updTestSet n fun t => { t with stream := on, expected := if on then 0 else t.expected }).sendLink n (.stream on) false

/-- The tag that follows (R58). -/
def nextTag (t : Nat) : Nat := (t + 1) % 16

/-- A SOURCE order with a fresh tag; its range becomes the current range (R58). -/
def State.sendSource (s : State) (n : Nat) (pair : LeadPair) (mode : SourceMode) (level slope : Int) (range : CurrentRange)
    (coupling : Coupling) (timed : Bool) : State :=
  let tag := nextTag (s.testSet n).tag
  (s.updTestSet n fun t => { t with tag := tag, range := range }).sendLink n (.source tag pair mode level slope range coupling) timed

/-- SOURCE OFF: no first-tag wait starts for it (R58). -/
def State.sourceOff (s : State) (n : Nat) : State := s.sendSource n .tg .off 0 0 .low .dc false

/-- The mode, level, slope, range and coupling of a step's source (R58); `start` and `slope` are those of the CAP ramp. -/
def State.askSource (s : State) (n : Nat) (st : Step) (start slope : Int) : State :=
  match st.kind with
  | .dcv => s.sendSource n st.pair .off 0 0 .low .dc true
  | .acv => s.sendSource n st.pair .off 0 0 .low .ac true
  | .resIns => s.sendSource n st.pair .level st.level 0 .low .dc true
  | .resLoop => s.sendSource n st.pair .level st.level 0 .high .dc true
  | .cap => s.sendSource n st.pair .ramp start slope .low .dc true

/-- A frame whose leaving starts no timer any longer. -/
def LinkFrame.untime (f : LinkFrame) (identify : Bool) : LinkFrame :=
  match f.msg, identify with
  | .identify, true => { f with timed := false }
  | .source .., false => { f with timed := false }
  | _, _ => f

/-- The first-tag wait and the sample timeout stop (R61). -/
def State.stopStepTimers (s : State) (n : Nat) : State :=
  s.updTestSet n fun t => { t with firstTagDue := none, sampleDue := none, sending := t.sending.map (·.untime false) }

/-- The answer timer of an IDENTIFY stops (R53, R64). -/
def State.stopAnswerTimer (s : State) (n : Nat) : State :=
  s.updTestSet n fun t => { t with answerDue := none, sending := t.sending.map (·.untime true) }

/-- A set enters enumeration (R53). -/
def State.enumerate (s : State) (n : Nat) : State :=
  let s := (s.stopAnswerTimer n).updTestSet n fun t =>
    { t with state := .probing, failures := 0, samplesSeen := false, probeDue := none }
  ((s.sendStream n true).sendLink n .identify true).updTestSet n fun t => { t with attempt := 1 }

/-- A silence probe is made (R64): the 5 s timer counts from its beginning. -/
def State.probeSet (s : State) (n : Nat) : State :=
  ((s.sendStream n true).sendLink n .identify true).updTestSet n fun t =>
    { t with attempt := 1, probeDue := some (s.after 5000) }

/-- The rate a set agrees: the highest offered not above the greatest allowed, else the lowest offered (R55). -/
def agreedRateOf (greatest : Rate) (r : RateSet) : Rate :=
  match greatest with
  | .r1000 => if r.r1000 then .r1000 else if r.r500 then .r500 else .r250
  | .r500 => if r.r500 then .r500 else if r.r250 then .r250 else .r1000
  | .r250 => if r.r250 then .r250 else if r.r500 then .r500 else .r1000

/-- No rate is offered (R54). -/
def RateSet.isNone (r : RateSet) : Bool := !r.r1000 && !r.r500 && !r.r250

/-- The set goes READY (R55): the AC begins a walk, and an equipment ticket is told of the recovery. -/
def State.goReady (s : State) (n : Nat) : State :=
  let s := (s.updTestSet n fun t => { t with state := .ready, failures := 0, probeDue := none }).updAc fun a => { a with walkDue := true }
  if (s.testSet n).ticket.isSome then s.updCore fun c => c.recovered .testSet n else s

/-- Agreement with a found set of these offers (R54, R55). -/
def State.agree (s : State) (n : Nat) (type : SetType) (kinds : KindSet) (rates : RateSet) : State :=
  let agreed := kinds.inter s.params.enabledKinds
  let rate := agreedRateOf s.params.maximumRate rates
  let s := s.updTestSet n fun t =>
    { t with type := some type, offeredKinds := some kinds, offeredRates := some rates, agreedKinds := some agreed,
             agreedRate := some rate }
  let s := match type with
    | .full => s.sendLink n (.agree rate agreed) false
    | .basic => s
  (if (s.testSet n).stream then s.sendStream n false else s).goReady n

/-- An enumeration or a silence probe ends: its timer and try are over, and STREAM off is sent (R54, R64). -/
def State.endIdentify (s : State) (n : Nat) : State :=
  (s.stopAnswerTimer n).updTestSet n fun t => { t with attempt := 0, samplesSeen := false }

/-- An enumeration ends: STREAM off, and the expected next sample index becomes 0 (R54). -/
def State.endEnumeration (s : State) (n : Nat) : State :=
  ((s.endIdentify n).sendStream n false).updTestSet n fun t => { t with expected := 0 }

/-- The enabled kinds have changed: the agreed kinds of one set follow (R56). -/
def State.reagree (s : State) (n : Nat) : State :=
  match (s.testSet n).offeredKinds with
  | none => s
  | some offered =>
    let agreed := offered.inter s.params.enabledKinds
    if (s.testSet n).agreedKinds = some agreed then s
    else
      let t := s.testSet n
      let s := s.updTestSet n fun t => { t with agreedKinds := some agreed }
      if t.state = .ready then
        let s := s.updAc fun a => { a with walkDue := true }
        if t.type = some .full then s.sendLink n (.agree (t.agreedRate.getD .r250) agreed) false else s
      else s

end Sys2Proof.Machine
end

