-- ==== Sys2Proof/Machine/Runs.lean ====
section
/-! DEFINITION. The Measurement Sequencer's runs (R73–R86): steps and their phases, loss and retry, the ending of a run. -/

namespace Sys2Proof.Machine

/-! ### Phases of a step -/

/-- P of the set on bus b, in ms. -/
def State.period (s : State) (b : Nat) : Nat := ((s.testSet b).agreedRate.getD .r1000).period

/-- The step enters APPLY, on this ramp (R77): a source is asked for, the counts and the working accumulator are emptied. A down ramp
keeps the held accumulator; any other APPLY starts with none. -/
def State.applyStep (s : State) (b : Nat) (st : Step) (ramp : Ramp) : State :=
  let s := s.stopStepTimers b
  let opens := !(s.testSet b).stream
  let p := s.period b
  let s := s.askSource b st (st.rampStart p (decide (ramp ≠ .down))) (if ramp = .down then -(st.slope : Int) else st.slope)
  let s := if opens then s.sendStream b true else s
  s.updRun b fun r =>
    { r with ramp := ramp, phase := .apply, lost := 0, taken := 0, settleEnd := none, working := {},
             held := if ramp = .down then r.held else none, opener := opens }

/-- The ramp a step begins on. -/
def Step.firstRamp (st : Step) : Ramp := if st.kind = .cap then .up else .none

/-- A step result joins the result list, and the accumulators are emptied. -/
def State.record (s : State) (b : Nat) (x : StepResult) : State :=
  s.updRun b fun r => { r with results := r.results ++ [x], working := {}, held := none }

/-- A step cannot be run: its kind is not agreed, or a CAP step fails the range pre-check (R76). -/
def State.stepVoid (s : State) (b : Nat) (st : Step) : Bool :=
  (match (s.testSet b).agreedKinds with
    | none => true
    | some k => !k.has st.kind)
  || (decide (st.kind = .cap) && !st.rampFits (s.period b))

/-- Steps begin from number k, at most n of them, until one enters APPLY; VOID_RANGE steps are recorded on the way (R76). The answer
tells that a step has entered APPLY. -/
def State.beginSteps (b : Nat) (p : Programme) : Nat → Nat → State → State × Bool
  | 0, _, s => (s, false)
  | n + 1, k, s =>
    match s.ms.stepOf p k with
    | none => (s, false)
    | some st =>
      let s := s.updRun b fun r => { r with step := k, retryUsed := false, ramp := .none }
      if s.stepVoid b st then State.beginSteps b p n (k + 1) (s.record b (voidResult k st { voidRange := true }))
      else (s.applyStep b st st.firstRamp, true)

/-! ### Ending a run (R81, R82) -/

/-- The outcome of a run that ends by itself (R81, R73). -/
def State.ownOutcome (s : State) (r : Run) : RunOutcome :=
  if (s.ms.programme r.programme).isNone then .incomplete
  else if r.results.any fun x => x.quals.isVoid then .incomplete
  else .complete

/-- Step 1 of R82. -/
def State.restSource (s : State) (b : Nat) : State :=
  let s := s.stopStepTimers b
  if (s.testSet b).state = .ready then (s.sourceOff b).sendStream b false else s

/-- The RESULT of a run (R82 step 4, R88). -/
def State.runResult (s : State) (b : Nat) (r : Request) (x : Run) (outcome : RunOutcome) (fault : Option FaultClass) : State :=
  let due := match r.cls with
    | .desk => true
    | .routine => s.params.reportRoutine
    | .retest => false
  if due then
    s.makeResult { token := r.token.getD 0, position := r.position.getD 0, line := r.line, bus := some b, cls := r.cls,
                   programme := some x.programme, outcome := outcome, fault := fault, steps := x.results }
  else s

/-- The fault class of a run (R106). -/
def State.runFault (s : State) (x : Run) : Option FaultClass :=
  (s.ms.programme x.programme).bind fun p => s.ms.runClass p x.results

/-- The ending of a run, steps 1 to 4 of R82, and the run record made idle. -/
def State.closeRun (s : State) (b : Nat) (outcome : RunOutcome) : State :=
  match s.run b, (s.slot b).request with
  | some x, some r =>
    let s := s.restSource b
    let fault := s.runFault x
    let trend := if r.cls = .routine then movedTrend (s.line r.line).trend s.params.trendShift x.results else (s.line r.line).trend
    let s := s.updLine r.line fun l => { l with channels := l.channels.close x.results, trend := trend }
    let degrading := degradingReport r.cls x.results s.params.degradeLevel trend fault
    let s := s.updCore fun c => c.handOver r outcome fault x.results degrading
    (s.runResult b r x outcome fault).setRun b none
  | _, _ => s.setRun b none

/-- The access is a KEEP access. -/
def State.keeps (s : State) (b : Nat) : Bool := (s.slot b).request.any (·.keep)

/-- The end of the last run of an access (R82 step 5): a KEEP access stays HELD, any other is released, cause RUN_END. -/
def State.afterLastRun (s : State) (b : Nat) : State :=
  if s.keeps b then s else (s.markEnded b).beginRelease b .runEnd

/-- A run starts on a slot (R73); the answer tells that a step has entered APPLY. -/
def State.startRun (s : State) (b programme : Nat) : State × Bool :=
  let start := ((s.slot b).request.map fun r => (s.line r.line).channels).getD {}
  let s := s.setRun b (some { programme := programme, start := start })
  match s.ms.programme programme with
  | none => (s, false)
  | some p => State.beginSteps b p p.count 1 s

/-- The active run ends by itself (R81, R82), and a pending run starts at once (R75). The pending-run slot is then empty, so a second run
that ends at its start is the last. -/
def State.finishRun (s : State) (b : Nat) : State :=
  match s.run b with
  | none => s
  | some x =>
    let s := s.closeRun b (s.ownOutcome x)
    match s.pendingRun b with
    | none => s.afterLastRun b
    | some programme =>
      let begun := (s.setPendingRun b none).startRun b programme
      if begun.2 then begun.1
      else match begun.1.run b with
        | none => begun.1
        | some y => (begun.1.closeRun b (begun.1.ownOutcome y)).afterLastRun b

/-- A run starts on a HELD slot, and ends at once when no step of it can enter APPLY (R73). -/
def State.startRunNow (s : State) (b programme : Nat) : State :=
  let begun := s.startRun b programme
  if begun.2 then begun.1 else begun.1.finishRun b

/-- After a step's result the next step begins, or the run ends by itself (R80, R81). -/
def State.nextStep (s : State) (b : Nat) : State :=
  match s.run b with
  | none => s
  | some x =>
    match s.ms.programme x.programme with
    | none => s.finishRun b
    | some p =>
      let begun := State.beginSteps b p (p.count - x.step) (x.step + 1) s
      if begun.2 then begun.1 else begun.1.finishRun b

/-- The step record under way. -/
def State.stepUnderWay (s : State) (b : Nat) : Option (Run × Programme × Step) :=
  match s.run b with
  | none => none
  | some x =>
    match s.ms.programme x.programme with
    | none => none
    | some p => (s.ms.stepOf p x.step).map fun st => (x, p, st)

/-- CHECK (R80). -/
def State.checkStep (s : State) (b : Nat) : State :=
  match s.stepUnderWay b with
  | none => s
  | some (x, p, st) =>
    let result := s.ms.check x p st
    let s := (s.stopStepTimers b).record b result
    if result.verdict = .fail ∧ st.onFail = .finish then s.finishRun b else s.nextStep b

/-- The step's acquisition is abandoned (R83). `opening` tells that the first-tag wait of the SOURCE that opened the stream has
expired. -/
def State.abandon (s : State) (b : Nat) (opening : Bool) : State :=
  match s.stepUnderWay b with
  | none => s
  | some (x, _, st) =>
    if x.retryUsed then
      ((s.stopStepTimers b).record b (voidResult x.step st { voidLoss := true })).nextStep b
    else
      (s.updRun b fun r => { r with retryUsed := !opening }).applyStep b st st.firstRamp

/-- CANCEL STEP (R85). -/
def State.cancelCurrent (s : State) (b : Nat) : State :=
  match s.stepUnderWay b with
  | none => s
  | some (x, _, st) => ((s.stopStepTimers b).record b (voidResult x.step st { voidSkipped := true })).nextStep b

/-- A delivered sample of gap g in ACQUIRE or ACQUIRE_DOWN (R79). -/
def State.acquire (s : State) (b : Nat) (x : Sample) (g : Nat) : State :=
  match s.stepUnderWay b with
  | none => s
  | some (r, _, st) =>
    let lost := min 65535 (r.lost + g)
    if st.samples / 4 < lost then (s.updRun b fun r => { r with lost := lost }).abandon b false
    else
      let range := (s.testSet b).range
      let s := s.updRun b fun r => { r with lost := lost, taken := r.taken + 1, working := r.working.add st.kind range x }
      if r.taken + 1 < st.samples then s
      else if st.kind = .cap ∧ r.ramp = .up then
        (s.updRun b fun r => { r with held := some r.working }).applyStep b st .down
      else s.checkStep b

/-- SETTLE has ended: the step enters ACQUIRE, or ACQUIRE_DOWN on a down ramp (R78). -/
def Run.enterAcquire (r : Run) : Run := { r with phase := if r.ramp = .down then .acquireDown else .acquire }

/-- The MS takes a delivered sample (R77–R79). -/
def State.deliver (s : State) (b : Nat) (x : Sample) (g : Nat) : State :=
  match s.stepUnderWay b with
  | none => s
  | some (r, _, st) =>
    match r.phase with
    | .apply =>
      let s := s.updRun b fun r => { r with phase := .settle, settleEnd := some (s.after st.settle) }
      if st.settle = 0 then (s.updRun b Run.enterAcquire).acquire b x g else s
    | .settle => if s.due r.settleEnd then (s.updRun b Run.enterAcquire).acquire b x g else s
    | .acquire | .acquireDown => s.acquire b x g
    | .check => s

/-- A run is active on the slot. -/
def State.running (s : State) (b : Nat) : Bool := (s.run b).isSome

/-- A run ended by an outside event (R84): the step under way is dropped, the pending run discarded, the ending carried out. -/
def State.endRunEarly (s : State) (b : Nat) (outcome : RunOutcome) : State :=
  let s := s.setPendingRun b none
  if s.running b then s.closeRun b outcome else s

end Sys2Proof.Machine
end

