-- ==== Sys2Proof/Machine/Slots.lean ====
section
/-! DEFINITION. Access slots and shelves (R28–R39, R46, R47): relay transactions and what their endings do, shelf silence, recovery and
retirement, hold limits, pre-emption, and a test set lost under an access. -/

namespace Sys2Proof.Machine

/-! ### A slot leaves its live states -/

/-- A slot goes FREE (R32): the pair is given back and the line's access state becomes NONE. Cause, attempt count and pair stay for READ
SLOT until the next grant. -/
def State.slotFree (s : State) (b : Nat) : State :=
  let r := s.slot b
  let s := if r.state.live then s.routineLeft r.request else s
  let s := (s.endOrder (slotOwner b)).updSlot b fun r =>
    { r with state := .free, request := none, ended := false, holdDue := none, mark := none }
  let s := match r.line with
    | none => s
    | some l =>
      (s.updLine l fun x => { x with access := .none }).updShelf (shelfOf l) fun h => { h with freePairs := min 2 (h.freePairs + 1) }
  s.updAc fun a => { a with walkDue := true }

/-- The Call Guard and the Line Watch are told that the line of a slot now FREE is free (R32). -/
def State.tellFree (s : State) (l : Nat) : State := (s.releaseHeld l).accessOver l

/-- A slot goes FREE and the blocks are told. -/
def State.freeSlot (s : State) (b : Nat) : State :=
  match (s.slot b).line with
  | none => s.slotFree b
  | some l => (s.slotFree b).tellFree l

/-- A slot goes FAULTED (R33, R35): it keeps its request, pair and line, and no order of it is outstanding. -/
def State.slotFault (s : State) (b : Nat) : State :=
  let r := s.slot b
  let s := if r.state.live then s.routineLeft r.request else s
  (s.endOrder (slotOwner b)).updSlot b fun r => { r with state := .faulted, holdDue := none, mark := none }

/-- The Call Guard and the Line Watch are told of a slot gone FAULTED (R33): held orders go down, the deferred report is applied. -/
def State.tellFaulted (s : State) (l : Nat) : State := (s.releaseHeld l).applyDeferred l

/-- The lines of some slots. -/
def State.linesOf (s : State) (bs : List Nat) : List Nat := bs.filterMap fun b => (s.slot b).line

/-! ### Shelves (R29, R34–R37) -/

/-- The slots of a shelf that stand as `p` says. -/
def State.slotsOn (s : State) (n : Nat) (p : SlotState → Bool) : List Nat :=
  slotNumbers.filter fun b => p (s.slot b).state && (s.slot b).onShelf n

/-- A slot's request ends with its shelf (R35, R37): a run ends SHELF_SILENT, and its retest is returned as well, after the MS has handed
the run over (R123, log 51); a request still carried with no run ends SHELF_SILENT. -/
def State.endWithShelf (s : State) (b : Nat) : State :=
  if s.running b then
    let r := (s.slot b).request
    let s := (s.endRunEarly b .shelfSilent).markEnded b
    match r with
    | some q => if q.cls = .retest then s.returnRetest q false else s
    | none => s
  else (s.setPendingRun b none).endSlotRequest b (.outcome .shelfSilent)

/-- One live slot of a shelf gone SILENT: its request ends, and it goes FAULTED with cause EQUIPMENT (R35). -/
def State.faultSilent (s : State) (b : Nat) : State :=
  ((s.endWithShelf b).slotFault b).updSlot b fun r => { r with cause := some .equipment }

/-- The queued requests for lines of a shelf. -/
def State.queuedOn (s : State) (n : Nat) : List Request := s.ac.queue.filter fun r => decide (shelfOf r.line = n)

/-- A shelf goes SILENT (R35). A RELEASE sent on CLEAR for a FAULTED slot of the shelf is abandoned or withdrawn (R38). Its
slots end in ascending order, after its queued requests (log 39), and its ticket is asked for before them (log 53). -/
def State.shelfGoesSilent (s : State) (n : Nat) : State :=
  let s := (s.updShelf n fun h => { h with state := .silent, probeDue := some (s.after 10000) }).updCore
    fun c => c.askEquipment .shelf n .shelfSilent
  let s := s.expel (s.queuedOn n) (.outcome .shelfSilent)
  let s := (s.slotsOn n (decide <| · = .faulted)).foldl (fun s b => s.endOrder (slotOwner b)) s
  let live := s.slotsOn n SlotState.live
  let s := live.foldl State.faultSilent s
  (s.linesOf live).foldl State.tellFaulted s

/-- A failed transaction is counted (R29): at 3 a shelf SERVING or PROBING goes SILENT. -/
def State.countFailure (s : State) (n : Nat) : State :=
  let s := s.updShelf n fun h => { h with failures := satSucc 3 h.failures }
  if (s.shelf n).failures = 3 ∧ ((s.shelf n).state = .serving ∨ (s.shelf n).state = .probing) then s.shelfGoesSilent n else s

/-- A transaction ends with DONE (R29). -/
def State.clearFailures (s : State) (n : Nat) : State := s.updShelf n fun h => { h with failures := 0 }

/-- A FAULTED slot goes FREE, and the TC is told that its bus has recovered (R36, R128). -/
def State.recoverSlot (s : State) (b : Nat) : State := (s.slotFree b).updCore fun c => c.recovered .bus b

/-- A RELEASE_ALL has ended with DONE: the shelf goes SERVING and its FAULTED slots go FREE (R34, R36). The slots go FREE in ascending
order, the TC is told of their buses and then of the shelf, and the lines are examined after that, by slot (log 48). -/
def State.shelfRecovers (s : State) (n : Nat) : State :=
  let faulted := s.slotsOn n (decide <| · = .faulted)
  let lines := s.linesOf faulted
  let s := faulted.foldl State.recoverSlot s
  let s := (s.updShelf n fun h => { h with state := .serving, failures := 0, freePairs := 2, probeDue := none }).updCore
    fun c => c.recovered .shelf n
  let s := s.updAc fun a => { a with walkDue := true }
  lines.foldl State.accessOver s

/-- A shelf enters PROBING and its first probe is made (R34). -/
def State.probeShelf (s : State) (n : Nat) : State :=
  ((s.endOrder (shelfOwner n)).updShelf n fun h => { h with state := .probing, failures := 0, probeDue := none }).makeReady
    (shelfOwner n) .releaseAll

/-- A RELEASE_ALL has failed (R34, R36). -/
def State.probeFails (s : State) (n : Nat) : State :=
  let s := s.countFailure n
  if (s.shelf n).state = .probing then s.makeReady (shelfOwner n) .releaseAll else s

/-- One slot of a retired shelf: its request ends and it goes FREE; a FAULTED slot's bus has recovered (R37). -/
def State.retireSlot (s : State) (b : Nat) : State :=
  if (s.slot b).state = .faulted then s.recoverSlot b else (s.endWithShelf b).slotFree b

/-- A shelf is retired (R37): its queued requests end, and then its slots in ascending order (log 39). The TC is told of the recovered
buses in that order and then of the shelf, and the lines are told of after that (log 48). The shelf is UNFITTED before the lines of its
requests and slots are examined, so that an offer they make meets SHELF_SILENT (log 59). -/
def State.retireShelf (s : State) (n : Nat) : State :=
  let s := (s.endOrder (shelfOwner n)).updShelf n fun h => { h with state := .unfitted, failures := 0, probeDue := none }
  let s := s.expel (s.queuedOn n) (.outcome .shelfSilent)
  let slots := s.slotsOn n (decide <| · ≠ .free)
  let lines := s.linesOf slots
  let s := slots.foldl State.retireSlot s
  let s := (s.updShelf n fun h => { h with freePairs := 2 }).updCore fun c => c.recovered .shelf n
  let s := s.updAc fun a => { a with walkDue := true }
  lines.foldl State.tellFree s

/-! ### Transactions of a slot (R30–R33, R38) -/

/-- The line's shelf of a slot. -/
def State.slotShelf (s : State) (b : Nat) : Nat := shelfOf ((s.slot b).line.getD 0)

/-- OPERATE has ended with DONE on a SEIZING slot (R30, R44–R46). -/
def State.operateDone (s : State) (b : Nat) : State :=
  match (s.slot b).mark with
  | some cause => (s.updSlot b fun r => { r with mark := none }).beginRelease b cause
  | none =>
    let hold := ((s.slot b).request.map (·.hold)).getD 0
    let s := s.updSlot b fun r =>
      { r with state := .held, heldAt := some s.now, holdDue := some (s.after (1000 * hold)) }
    if (s.testSet b).state = .ready then
      match (s.slot b).request.bind (·.programme) with
      | some p => s.startRunNow b p
      | none => s
    else (s.endSlotRequest b (.outcome .equipment)).beginRelease b .equipment

/-- OPERATE has failed on a SEIZING slot (R31). With its shelf gone SILENT, R35 has governed the slot. -/
def State.operateFailed (s : State) (b : Nat) : State :=
  let s := s.countFailure (s.slotShelf b)
  if (s.slot b).state = .seizing then
    match (s.slot b).mark with
    | some cause => (s.updSlot b fun r => { r with mark := none }).beginRelease b cause
    | none => (s.endSlotRequest b (.outcome .accessFailed)).beginRelease b .accessFailed
  else s

/-- RELEASE has ended with DONE: a RELEASING slot's access is over (R32), a FAULTED slot has been brought back by a CLEAR (R38),
and there the TC is told of the bus before the LW examines the line (log 48). -/
def State.releaseDone (s : State) (b : Nat) : State :=
  if (s.slot b).state = .faulted then
    match (s.slot b).line with
    | none => s.recoverSlot b
    | some l => (s.recoverSlot b).accessOver l
  else s.freeSlot b

/-- The third failed release: the slot goes FAULTED and a BUS ticket is asked for (R33). -/
def State.busFaults (s : State) (b : Nat) : State :=
  let line := (s.slot b).line
  let s := (s.slotFault b).updCore fun c => c.askEquipment .bus b .accessRelay
  match line with
  | some l => s.tellFaulted l
  | none => s

/-- RELEASE has failed (R33); on a FAULTED slot the failure is counted and nothing more (R38). -/
def State.releaseFailed (s : State) (b : Nat) : State :=
  let n := s.slotShelf b
  if (s.slot b).state = .releasing then
    if (s.slot b).attempt < 3 then
      let s := s.countFailure n
      if (s.slot b).state = .releasing then
        (s.updSlot b fun r => { r with attempt := satSucc 3 r.attempt }).makeReady (slotOwner b) .release
      else s
    else (s.busFaults b).countFailure n
  else s.countFailure n

/-- A transaction ends (R28, R29): its owner's order is over, DONE clears the shelf's count, and the operation's own rule follows. -/
def State.transactionEnds (s : State) (o : AccessOwner) (op : AccessOp) (done : Bool) : State :=
  let s := s.endOrder o
  match o, op, done with
  | .slot b, .operate, true => (s.clearFailures (s.slotShelf b.val)).operateDone b.val
  | .slot b, .operate, false => s.operateFailed b.val
  | .slot b, .release, true => (s.clearFailures (s.slotShelf b.val)).releaseDone b.val
  | .slot b, .release, false => s.releaseFailed b.val
  | .slot _, .releaseAll, _ => s
  | .shelf n, _, true => (s.clearFailures n.val).shelfRecovers n.val
  | .shelf n, _, false => s.probeFails n.val

/-- The owner of the transaction outstanding for this shelf, operation and bus (R28). -/
def State.outstanding (s : State) (shelf : Nat) (op : AccessOp) (bus : Nat) : Option AccessOwner :=
  match op with
  | .releaseAll =>
    match (s.shelf shelf).order with
    | .placed .releaseAll _ => some (shelfOwner shelf)
    | _ => none
  | _ =>
    if bus < 4 ∧ (s.slot bus).onShelf shelf = true then
      match (s.slot bus).order with
      | .placed held _ => if held = op then some (slotOwner bus) else none
      | _ => none
    else none

/-- An ACCESS_CONFIRM is taken (R28): matched, it ends its transaction; otherwise it is discarded. -/
def State.accessConfirm (s : State) (source : Nat) (op : AccessOp) (bus : Nat) (done : Bool) : State :=
  if 1 ≤ source ∧ source ≤ 64 then
    match s.outstanding (source - 1) op bus with
    | some o => s.transactionEnds o op done
    | none => s
  else s

/-! ### Hold limit, pre-emption, lost sets -/

/-- A HELD slot's run, if any, is ended early, and its request has its ending (R39, R44–R47): by the run, or by this outcome. -/
def State.endHeld (s : State) (b : Nat) (run : RunOutcome) (idle : Option RunOutcome) : State :=
  if s.running b then (s.endRunEarly b run).markEnded b
  else
    let s := s.setPendingRun b none
    match idle with
    | some o => s.endSlotRequest b (.outcome o)
    | none => s.markEnded b

/-- The hold limit of a HELD slot has run out (R39). -/
def State.holdEnds (s : State) (b : Nat) : State :=
  (s.endHeld b .abortedHold (some .abortedHold)).beginRelease b .holdExpired

/-- A SEIZING slot's OPERATE is withdrawn and the slot goes FREE with this cause (R44–R46). -/
def State.withdraw (s : State) (b : Nat) (cause : Cause) : State :=
  (s.updSlot b fun r => { r with cause := some cause }).freeSlot b

/-- An order waits unplaced. -/
def Transaction.unsent : Transaction → Bool
  | .waiting _ => true
  | .idle | .placed .. => false

/-- A SEIZING slot with its OPERATE sent is marked; a slot marked already keeps its mark. -/
def State.markSlot (s : State) (b : Nat) (cause : Cause) : State :=
  s.updSlot b fun r => { r with mark := some (r.mark.getD cause) }

/-- The AC pre-empts the access of slot b (R46). With the OPERATE of a SEIZING slot unsent, the return of R17 comes before the slot goes
FREE (log 34), and a run is handed over before its request returns (log 18). -/
def State.preEmpt (s : State) (b : Nat) : State :=
  match (s.slot b).state with
  | .seizing =>
    if (s.slot b).order.unsent then (s.endSlotRequest b .preEmpted).withdraw b .preEmpted
    else (s.endSlotRequest b .preEmpted).markSlot b .preEmpted
  | .held => ((s.endRunEarly b .abortedCall).endSlotRequest b .preEmpted).beginRelease b .preEmpted
  | .releasing | .free | .faulted => s

/-- The set of bus b has left READY for SILENT or DISABLED (R47). -/
def State.setLost (s : State) (b : Nat) : State :=
  if (s.slot b).state = .held then (s.endHeld b .equipment (some .equipment)).beginRelease b .equipment else s

/-- The set of bus b has restarted under its access (R47, R57, R84): a run ends EQUIPMENT, and then a non-KEEP access is released. -/
def State.setRestarted (s : State) (b : Nat) : State :=
  if s.running b then
    let s := s.endRunEarly b .equipment
    if s.keeps b then s else (s.markEnded b).beginRelease b .equipment
  else s.setPendingRun b none

end Sys2Proof.Machine
end

