-- ==== Sys2Proof/Machine/TestSets.lean ====
section
/-! DEFINITION. The test sets (R52–R67): what the Test-Set Link Controller does with the frames that arrive, with its timers, with failures
and silence, and with enabling and disabling. -/

namespace Sys2Proof.Machine

/-! ### Failures and silence (R62–R64) -/

/-- A set goes SILENT (R63). Its ticket is asked for before its run is ended (log 53). -/
def State.setGoesSilent (s : State) (n : Nat) : State :=
  let s := (s.stopStepTimers n).updTestSet n fun t => { t with state := .silent, failures := 3, probeDue := some (s.after 5000) }
  let s := ((s.sourceOff n).sendStream n false).updCore fun c => c.askEquipment .testSet n .testSetSilent
  s.setLost n

/-- A first-tag wait or a sample timeout has expired on a READY set (R62, R83). -/
def State.setFails (s : State) (n : Nat) (firstTag : Bool) : State :=
  let s := (s.stopStepTimers n).updTestSet n fun t => { t with failures := satSucc 3 t.failures }
  if 3 ≤ (s.testSet n).failures then s.setGoesSilent n
  else s.abandon n (firstTag && ((s.run n).map (·.opener)).getD false)

/-! ### Finding a set (R54, R57, R64) -/

/-- The set restarts under the part (R57): it leaves READY for PROBING before its run is ended, so the ending sends nothing (R82). -/
def State.restartSet (s : State) (n : Nat) : State := (s.updTestSet n fun t => { t with state := .probing }).setRestarted n

/-- An IDENTITY is taken by the set's state (R54, R57). The ending of an enumeration turns the stream off before the agreement (log 40). -/
def State.identity (s : State) (n : Nat) (kinds : KindSet) (rates : RateSet) : State :=
  match (s.testSet n).state with
  | .disabled => s
  | .probing => (s.endEnumeration n).agree n .full kinds rates
  | .ready => (s.restartSet n).agree n .full kinds rates
  | .silent => ((s.updTestSet n fun t => { t with probeDue := none }).endIdentify n).agree n .full kinds rates
  | .absent => s.agree n .full kinds rates

/-- What a BASIC set offers (R54). -/
def basicKinds : KindSet := { dcv := true, resIns := true }
def basicRates : RateSet := { r250 := true }

/-- An enumeration ends unanswered (R54). -/
def State.unanswered (s : State) (n : Nat) : State :=
  let seen := (s.testSet n).samplesSeen
  let s := s.endEnumeration n
  if seen then s.agree n .basic basicKinds basicRates
  else s.updTestSet n fun t =>
    { t with state := .absent, type := none, offeredKinds := none, offeredRates := none, agreedKinds := none, agreedRate := none,
             failures := 0 }

/-- The answer timer of an enumeration's IDENTIFY expires (R53). -/
def State.identifyExpires (s : State) (n : Nat) : State :=
  if (s.testSet n).attempt < 3 then
    ((s.stopAnswerTimer n).sendLink n .identify true).updTestSet n fun t => { t with attempt := satSucc 3 t.attempt }
  else s.unanswered n

/-! ### Samples (R53, R60, R61, R64) -/

/-- The gap of a sample, modulo 256 (R60). -/
def sampleGap (index expected : Nat) : Nat := (index + 256 - expected % 256) % 256

/-- A sample timeout that runs restarts (R61). -/
def State.restartSampleTimeout (s : State) (n : Nat) : State :=
  s.updTestSet n fun t => if t.sampleDue.isSome then { t with sampleDue := some (s.after 40) } else t

/-- A sample is delivered to the MS (R60 step 4): in APPLY it is the first under its tag, the first-tag wait stops and the sample timeout
starts. -/
def State.deliverSample (s : State) (n : Nat) (x : Sample) (g : Nat) : State :=
  let s := s.updTestSet n fun t => { t with failures := 0 }
  let s := if (s.run n).map (·.phase) = some .apply then
      (s.stopStepTimers n).updTestSet n fun t => { t with sampleDue := some (s.after 40) }
    else s
  s.deliver n x g

/-- A sample on a READY set (R60). -/
def State.readySample (s : State) (n : Nat) (x : Sample) : State :=
  let g := sampleGap x.index (s.testSet n).expected
  let s := (s.updTestSet n fun t => { t with expected := (x.index + 1) % 256 }).restartSampleTimeout n
  if x.tag = (s.testSet n).tag ∧ s.running n = true then s.deliverSample n x g else s

/-- A sample answers the silence probe of a BASIC set (R64). -/
def State.silentSample (s : State) (n : Nat) : State :=
  let t := s.testSet n
  if t.attempt ≠ 0 ∧ t.type = some .basic then
    (s.endIdentify n).agree n .basic (t.offeredKinds.getD basicKinds) (t.offeredRates.getD basicRates)
  else s

/-- A SAMPLE is taken by the set's state. -/
def State.sample (s : State) (n : Nat) (x : Sample) : State :=
  match (s.testSet n).state with
  | .disabled | .absent => s
  | .probing => s.updTestSet n fun t => { t with samplesSeen := true }
  | .silent => s.silentSample n
  | .ready => s.readySample n x

/-- Frames on this link are taken: start-up has begun enumeration and the link is not DISABLED (R51, R52). -/
def State.linkOpen (s : State) (n : Nat) : Bool := !s.csi.imageAwaited && decide ((s.testSet n).state ≠ .disabled)

/-! ### Orders to the TLC (R65–R67) -/

/-- TESTSET of action DISABLE (R66). -/
def State.disableSet (s : State) (n : Nat) : State :=
  let was := (s.testSet n).state
  if was = .disabled then s
  else
    let s := ((s.stopStepTimers n).stopAnswerTimer n).updTestSet n fun t =>
      { t with state := .disabled, attempt := 0, samplesSeen := false, failures := 0, probeDue := none }
    let s := (s.sourceOff n).sendStream n false
    if was = .ready then s.setLost n else s

/-- TESTSET of action ENABLE (R67). -/
def State.enableSet (s : State) (n : Nat) : State :=
  match (s.testSet n).state with
  | .disabled | .absent | .silent => s.enumerate n
  | .ready | .probing => s

/-- CLEAR on a TEST_SET ticket (R65). -/
def State.clearProbeSet (s : State) (n : Nat) : State :=
  match (s.testSet n).state with
  | .silent => if (s.testSet n).attempt = 0 then s.probeSet n else s
  | .absent => s.enumerate n
  | .probing | .disabled | .ready => s

/-- Frames leave the link (R52): an IDENTIFY starts the answer timer, a SOURCE that the MS asked for the first-tag wait. -/
def State.linkLeaves (s : State) (n : Nat) : State :=
  s.updTestSet n fun t =>
    match t.sending with
    | [] => t
    | f :: rest =>
      let t := { t with sending := rest }
      match f.timed, f.msg with
      | true, .identify => { t with answerDue := some (s.after 100) }
      | true, .source .. => { t with firstTagDue := some (s.after 40) }
      | _, _ => t

end Sys2Proof.Machine
end

