-- ==== Sys2Proof/Machine/Desk.lean ====
section
/-! DEFINITION. The desk's orders (R44, R45, R74, R85, R124, R125, R142, R184–R189): TEST, RUN, RELEASE, CANCEL, ACK and CLEAR. -/

namespace Sys2Proof.Machine

/-! ### TEST (R184) -/

/-- The request a TEST makes (R21). -/
def State.deskRequest (s : State) (position : Byte) (line : BitVec 16) (programme flags : Byte) (hold wait : BitVec 16) (token : Nat) :
    Request :=
  let p := if programme = 0xFF then none else some programme.toNat
  { cls := .desk, line := line.toNat, programme := p, kinds := s.ms.requiredKinds p, token := some token,
    position := some position.toNat, force := flags.getLsbD 0, keep := flags.getLsbD 1, ticketFlag := flags.getLsbD 2,
    hold := testHold hold, wait := testWait wait }

/-- The arguments of a TEST that the OH takes (R184). -/
def State.testArgsOk (s : State) (position : Byte) (line : BitVec 16) (programme flags : Byte) : Bool :=
  decide (line.toNat ≤ 8191) && decide (position.toNat ≤ 7)
    && if programme = 0xFF then flags.getLsbD 1
       else decide (programme.toNat ≤ 31) && (s.ms.programme programme.toNat).isSome

/-- TEST as the OH judges it. -/
def State.takeTest (s : State) (i : Instr) (position : Byte) (line : BitVec 16) (programme flags : Byte) (hold wait : BitVec 16) :
    State :=
  if s.testArgsOk position line programme flags then
    let token := s.freeToken 255 s.core.oh.tokenCounter
    match s.offer (s.deskRequest position line programme flags hold wait token) with
    | (s, none) => (s.updOh fun o => { o with tokenCounter := nextToken token }).answer i .accepted [byte token]
    | (s, some a) => s.answer i a
  else s.answer i .badArg

/-- TEST (R184). -/
def execTest (ref position : Byte) (line : BitVec 16) (programme flags : Byte) (hold wait : BitVec 16) (s : State) :
    Host.Outcome State Fault Refusal :=
  s.orderCommand (.test ref position line programme flags hold wait) fun s =>
    s.takeTest (.test ref position line programme flags hold wait) position line programme flags hold wait

/-! ### RUN (R74) -/

/-- A programme number that names a programme that is not empty. -/
def State.programmeLoaded (s : State) (p : Nat) : Bool := decide (p ≤ 31) && (s.ms.programme p).isSome

/-- The set of bus b can run a programme now (R74 test 4). -/
def State.setCanRun (s : State) (b p : Nat) : Bool :=
  decide ((s.testSet b).state = .ready) && (s.testSet b).agrees (s.ms.requiredKinds (some p))

/-- The judgement of a RUN (R74): its refusal, or the slot it is taken on. -/
def State.judgeRun (s : State) (token p : Nat) : Except Answer Nat :=
  match s.deskSlot token with
  | none =>
    if (s.deskQueued token).isNone then .error .unknownToken
    else if s.programmeLoaded p then .error .busy else .error .badArg
  | some b =>
    if s.programmeLoaded p = false then .error .badArg
    else if (s.slot b).state ≠ .held then .error .busy
    else if s.setCanRun b p = false then .error .noTestSet
    else if s.running b = true ∧ (s.pendingRun b).isSome = true then .error .busy
    else .ok b

/-- A RUN taken: the run starts at once on an idle access, and otherwise waits in the pending-run slot (R74). -/
def State.takeRun (s : State) (b p : Nat) : State := if s.running b then s.setPendingRun b (some p) else s.startRunNow b p

/-- RUN (R185). -/
def execRun (ref token programme : Byte) (s : State) : Host.Outcome State Fault Refusal :=
  s.orderCommand (.run ref token programme) fun s =>
    match s.judgeRun token.toNat programme.toNat with
    | .error a => s.answer (.run ref token programme) a
    | .ok b => (s.answer (.run ref token programme) .accepted).takeRun b programme.toNat

/-! ### RELEASE and CANCEL (R44, R45, R85) -/

/-- RELEASE on a slot (R44). -/
def State.releaseSlot (s : State) (b : Nat) : State :=
  match (s.slot b).state with
  | .seizing =>
    if (s.slot b).order.unsent then (s.markEnded b).withdraw b .deskRelease else (s.markEnded b).markSlot b .deskRelease
  | .held => (s.endHeld b .cancelled none).beginRelease b .deskRelease
  | .releasing | .free | .faulted => s

/-- RELEASE on a token's request: with no live request there is none (R44). -/
def State.releaseToken (s : State) (token : Nat) : Option State :=
  match s.deskSlot token with
  | some b => some (s.releaseSlot b)
  | none => (s.deskQueued token).map fun r => (s.dequeue r).lineIdle r.line

/-- RELEASE (R186). -/
def execRelease (ref token : Byte) (s : State) : Host.Outcome State Fault Refusal :=
  s.orderCommand (.release ref token) fun s =>
    match s.releaseToken token.toNat with
    | some s => s.answer (.release ref token) .accepted
    | none => s.answer (.release ref token) .unknownToken

/-- CANCEL RUN on a slot (R45): a SEIZING request has a RESULT. -/
def State.cancelSlot (s : State) (b : Nat) : State :=
  match (s.slot b).state with
  | .seizing =>
    if (s.slot b).order.unsent then (s.endSlotRequest b (.outcome .cancelled)).withdraw b .cancelled
    else (s.endSlotRequest b (.outcome .cancelled)).markSlot b .cancelled
  | .held => (s.endHeld b .cancelled none).beginRelease b .cancelled
  | .releasing | .free | .faulted => s

/-- CANCEL RUN on a token's request (R45): a queued request has a RESULT. -/
def State.cancelToken (s : State) (token : Nat) : Option State :=
  match s.deskSlot token with
  | some b => some (s.cancelSlot b)
  | none => (s.deskQueued token).map fun r => s.expel [r] (.outcome .cancelled)

/-- CANCEL of scope RUN (R187). -/
def execCancelRun (ref token : Byte) (s : State) : Host.Outcome State Fault Refusal :=
  s.orderCommand (.cancelRun ref token) fun s =>
    match s.cancelToken token.toNat with
    | some s => s.answer (.cancelRun ref token) .accepted
    | none => s.answer (.cancelRun ref token) .unknownToken

/-- CANCEL of scope STEP (R85, R187). -/
def execCancelStep (ref token : Byte) (s : State) : Host.Outcome State Fault Refusal :=
  s.orderCommand (.cancelStep ref token) fun s =>
    match s.deskSlot token.toNat with
    | some b =>
      if (s.slot b).state = .held ∧ s.running b = true then (s.answer (.cancelStep ref token) .accepted).cancelCurrent b
      else s.answer (.cancelStep ref token) .badArg
    | none => s.answer (.cancelStep ref token) (if (s.deskQueued token.toNat).isSome then .badArg else .unknownToken)

/-! ### ACK and CLEAR (R124, R125, R128, R142) -/

/-- ACK (R188). -/
def execAck (ref : Byte) (number : BitVec 16) (s : State) : Host.Outcome State Fault Refusal :=
  s.orderCommand (.ack ref number) fun s =>
    ({ s with core := (s.core.ack number.toNat).1 } : State).answer (.ack ref number) (s.core.ack number.toNat).2

/-- The AC probes a shelf on CLEAR: a RELEASE_ALL is made ready unless one is outstanding or unsent, and the probe timer of a SILENT
shelf restarts (R38). -/
def State.clearProbeShelf (s : State) (n : Nat) : State :=
  if (s.shelf n).order = .idle then
    (s.updShelf n fun h => if h.state = .silent then { h with probeDue := some (s.after 10000) } else h).makeReady (shelfOwner n) .releaseAll
  else s

/-- The AC probes the bus of a FAULTED slot on CLEAR (R38). -/
def State.clearProbeBus (s : State) (b : Nat) : State :=
  if (s.slot b).state = .faulted then
    match (s.shelf (s.slotShelf b)).state with
    | .serving => if (s.slot b).order = .idle then s.makeReady (slotOwner b) .release else s
    | .silent => s.clearProbeShelf (s.slotShelf b)
    | .probing | .unfitted => s
  else s

/-- The block that owns an equipment ticket's subject probes at once (R128). -/
def State.clearProbe (s : State) (kind : TicketKind) (subject : Nat) : State :=
  match kind with
  | .shelf => s.clearProbeShelf subject
  | .bus => s.clearProbeBus subject
  | .testSet => s.clearProbeSet subject
  | .line | .group => s

/-- CLEAR on a LINE ticket that stands alone, OPEN or ACKNOWLEDGED (R125). -/
def State.clearLine (s : State) (t : Ticket) : State :=
  let s := if t.cls = .fault .degrading then s.updCore fun c => c.removeTrend t.subject else s
  (s.updCore fun c => c.putTicket t.number fun t => t.toVerify (.dueAt s.now)).offerFallen t.number

/-- CLEAR on a GROUP ticket, OPEN or ACKNOWLEDGED: the children's retests fall due, and are offered in order of number (R142).
The offers do not stop at a QUEUE_FULL, as those after a departure do (log 20). -/
def State.clearGroup (s : State) (t : Ticket) : State :=
  let fanned := s.core.fanOut t.number
  (sortBy (fun a b => decide (a < b)) fanned.2).foldl State.offerFallen { s with core := fanned.1 }

/-- CLEAR on a ticket number: the answer and the new state (R125, R128, R142). A ticket VERIFYING or CLOSING keeps everything, its line's trend
with it (log 44). -/
def State.clearTicket (s : State) (n : Nat) : State × Answer :=
  match s.core.ticket n with
  | none => (s, .badArg)
  | some t =>
    if t.parent.isSome then (s, .inGroup)
    else if t.state = .provisional then (s, .badArg)
    else if t.state.standing then
      match t.kind with
      | .line => (s.clearLine t, .accepted)
      | .group => (s.clearGroup t, .accepted)
      | .shelf | .testSet | .bus => (s.clearProbe t.kind t.subject, .accepted)
    else (s, .accepted)

/-- CLEAR (R189). -/
def execClear (ref : Byte) (number : BitVec 16) (s : State) : Host.Outcome State Fault Refusal :=
  s.orderCommand (.clear ref number) fun s =>
    (s.clearTicket number.toNat).1.answer (.clear ref number) (s.clearTicket number.toNat).2

end Sys2Proof.Machine
end

