-- ==== Sys2Proof/Machine/Guard.lean ====
section
/-! DEFINITION. The Call Guard (section 10): the judgement of a call-path order, the held-order buffer and GUARD notices. -/

namespace Sys2Proof.Machine

/-- What the CG decides (R171). -/
inductive Decision where
  | forward
  | hold
  | holdAndPreEmpt (bus : Nat)
  | refuse (reason : GuardReason)
  deriving DecidableEq, Repr

/-- The live slot of a line, with the class of its request (R171 tests 3 to 6). -/
def State.liveAccess (s : State) (l : Nat) : Option (Nat × ReqClass) :=
  match (s.line l).access with
  | .inAccess b => if s.slotLive b then (s.slot b).request.map fun r => (b, r.cls) else none
  | .queued | .none => none

/-- The CG judges an order for line l (R171): the first test that applies decides. -/
def State.guardDecision (s : State) (l : Nat) (seize : Bool) : Decision :=
  let room := decide (s.cg.held.length < 8)
  if s.cg.held.any fun h => decide (h.line = l) then
    if room then .hold else .refuse .bufferFull
  else match s.liveAccess l with
    | some (_, .desk) => .refuse .deskTest
    | some (b, .retest) | some (b, .routine) =>
      if seize then (if room then .holdAndPreEmpt b else .refuse .bufferFull) else .forward
    | none => .forward

/-- An order enters the end of the held-order buffer (R173). -/
def State.holdOrder (s : State) (frame : Octets) (l : Nat) (seize : Bool) : State :=
  s.updCg fun g => { g with held := g.held ++ [{ frame := frame, line := l, seize := seize }] }

/-- The frame of a GUARD notice. -/
def State.guardFrame (s : State) (g : GuardNotice) : OwnFrame := s.toControl kindGuard (guardPayload g)

/-- The first notice of the waiting list enters the UP insertion queue when the queue has a place for it (R175). -/
def State.placeGuardNotice (s : State) : State :=
  match s.cg.waiting with
  | [] => s
  | g :: rest =>
    if s.upGuardFree then (s.insertUp (s.guardFrame g)).updCg fun c => { c with waiting := rest } else s

/-- A notice joins the waiting list. -/
def State.waitGuardNotice (s : State) (g : GuardNotice) : State := s.updCg fun c => { c with waiting := c.waiting ++ [g] }

/-- A refusal (R174, R175): a notice enters the UP queue or waits behind the others, and GUARD_REFUSED is latched; with the queue and the
waiting list both full the order is forwarded instead. A full list whose first notice has a place gives that place first (log 32). -/
def State.refuseOrder (s : State) (frame : Octets) (l : Nat) (seize : Bool) (reason : GuardReason) : State :=
  let notice : GuardNotice := { refusedKind := frame.getD 2 0, seize := seize, line := l, reason := reason }
  if s.upGuardFree = true ∧ s.cg.waiting = [] then
    (s.insertUp (s.guardFrame notice)).updOh fun o => o.latchFlag .guardRefused
  else if s.cg.waiting.length < 8 then (s.waitGuardNotice notice).updOh fun o => o.latchFlag .guardRefused
  else if s.upGuardFree then (s.placeGuardNotice.waitGuardNotice notice).updOh fun o => o.latchFlag .guardRefused
  else s.passDown frame

/-- The CG is handed a CALL_SEIZE or CALL_FREE order (R164, R171–R175). -/
def State.callPath (s : State) (frame : Octets) (l : Nat) (seize : Bool) : State :=
  match s.guardDecision l seize with
  | .forward => s.passDown frame
  | .hold => s.holdOrder frame l seize
  | .holdAndPreEmpt b => (s.holdOrder frame l seize).preEmpt b
  | .refuse reason => s.refuseOrder frame l seize reason

end Sys2Proof.Machine
end

