-- ==== Sys2Proof/Machine/Through.lean ====
section
/-! DEFINITION. The Highway Through-Path (section 9): receivers, the judgement and treatment of frames, and the output arbiters. -/

namespace Sys2Proof.Machine

/-! ### Treatment (R161–R165) -/

def Htp.entry (h : Htp) (kind : Nat) : TreatmentEntry := Table.get {} h.treatment kind
def Htp.mapEntry (h : Htp) (code : Nat) : Option CallState := Table.get none h.stateMap code

/-- A frame forwarded from the port it arrived at (R161). -/
def State.forward (s : State) (port : Port) (f : Octets) : State :=
  match port with
  | .up => s.passDown f
  | .down => s.passUp f

/-- The line number at an offset of the payload: `none` when the payload is too short or the value is 8,192 or more (R162). -/
def lineAt (payload : Octets) (o : Nat) : Option Nat :=
  match payload[o]?, payload[o + 1]? with
  | some a, some b => if (field2 a b).toNat < 8192 then some (field2 a b).toNat else none
  | _, _ => none

/-- The report of a LINE_STATE frame: its line and its call state (R162). -/
def Htp.report (h : Htp) (e : TreatmentEntry) (payload : Octets) : Option (Nat × CallState) :=
  match lineAt payload e.lineOffset, payload[e.stateOffset]? with
  | some l, some octet => (h.mapEntry (octet.toNat % 16)).map fun st => (l, st)
  | _, _ => none

/-- The treatment of a good frame's kind: a kind of the part's own set is PASS (R161). -/
def Htp.treatmentOf (h : Htp) (kind : Nat) : TreatmentEntry := if 240 ≤ kind then {} else h.entry kind

/-- A good frame that the part does not consume (R161–R164). -/
def State.passFrame (s : State) (port : Port) (f : Octets) : State :=
  let e := s.htp.treatmentOf (f.getD 2 0).toNat
  match e.treatment, port with
  | .drop, _ => s
  | .lineState, .down =>
    match s.htp.report e (framePayload f) with
    | some (l, st) => (s.forward port f).lineReport l st
    | none => s.forward port f
  | .callSeize, .up =>
    match lineAt (framePayload f) e.lineOffset with
    | some l => s.callPath f l true
    | none => s.forward port f
  | .callFree, .up =>
    match lineAt (framePayload f) e.lineOffset with
    | some l => s.callPath f l false
    | none => s.forward port f
  | .pass, _ | .lineState, .up | .callSeize, .down | .callFree, .down => s.forward port f

/-! ### Consumption (R159) -/

/-- The AC takes an ACCESS_CONFIRM: operation, bus, result (R28, R198). -/
def State.takeConfirm (s : State) (source : Nat) (payload : Octets) : State :=
  match payload with
  | [op, bus, result] =>
    match accessOpOfCode op.toNat, boolOfCode result.toNat with
    | some o, some contactFault => s.accessConfirm source o bus.toNat (!contactFault)
    | _, _ => s
  | _ => s

/-- A good frame addressed to the part's station (R159). -/
def State.consume (s : State) (port : Port) (f : Octets) : State :=
  match port with
  | .up => if f.getD 2 0 = kindOrder then s.offerLatch f else s
  | .down => if f.getD 2 0 = kindAccessConfirm then s.takeConfirm (f.getD 1 0).toNat (framePayload f) else s

/-- A frame ends at a port (R158). -/
def State.frameEnds (s : State) (port : Port) (f : Octets) : State :=
  if f = [] then s
  else if goodFrame f then
    if (f.getD 0 0).toNat = s.core.oh.station then s.consume port f else s.passFrame port f
  else s.forward port f

/-! ### Receivers (R157) -/

def State.receiver (s : State) : Port → Receiver
  | .up => s.htp.upReceiver
  | .down => s.htp.downReceiver

def State.setReceiver (s : State) (port : Port) (r : Receiver) : State :=
  s.updHtp fun h =>
    match port with
    | .up => { h with upReceiver := r }
    | .down => { h with downReceiver := r }

/-- The octets a receiver has collected of a frame that is not the beginning of these. -/
def State.leftOver (s : State) (port : Port) (octets : Octets) : Octets :=
  match s.receiver port with
  | .receiving c => if c.isPrefixOf octets then [] else c
  | .hunting => []

/-- The frame of these octets ends at the port; the receiver then hunts, or receives the frame that a marked octet began. A frame under
reception that these octets do not continue has ended cut short before (log 14). -/
def State.frameEnd (s : State) (port : Port) (octets : Octets) (mark : Option Byte) : State :=
  ((s.frameEnds port (s.leftOver port octets)).frameEnds port (frameOctets octets)).setReceiver port
    (match mark with
      | none => .hunting
      | some m => .receiving [m])

/-- A marked octet arrives: a frame under reception ends cut short, and the octet begins a frame (R157). -/
def State.markedOctet (s : State) (port : Port) (m : Byte) : State :=
  (s.frameEnds port (s.leftOver port [])).setReceiver port (.receiving [m])

/-! ### Output ports (R166–R168) -/

def State.outPort (s : State) : Port → OutPort
  | .up => s.htp.up
  | .down => s.htp.down

def State.setOutPort (s : State) (port : Port) (p : OutPort) : State :=
  s.updHtp fun h =>
    match port with
    | .up => { h with up := p }
    | .down => { h with down := p }

/-- The frame being sent has gone: a passing frame leaves the pass buffer, and the strict mark clears as the buffer becomes empty. -/
def OutPort.sent (p : OutPort) : OutPort :=
  match p.sending with
  | some .passing => { p with sending := none, pass := p.pass.drop 1, strict := p.strict && decide (2 ≤ p.pass.length) }
  | some (.inserted _) => { p with sending := none }
  | none => p

/-- The arbiter chooses the next frame (R168). -/
def OutPort.choose (p : OutPort) : OutPort :=
  let passing := { p with sending := some .passing, lastInserted := false }
  if p.strict = true ∧ p.pass ≠ [] then passing
  else match p.insertion with
    | f :: rest =>
      if p.lastInserted = false ∨ p.pass = [] then
        { p with sending := some (.inserted f), lastInserted := true, insertion := rest }
      else if p.pass ≠ [] then passing else p
    | [] => if p.pass ≠ [] then passing else p

/-- The confirm timer of an ACCESS order starts as the order leaves the DOWN port (R28). -/
def State.startConfirm (s : State) (o : AccessOwner) : State :=
  match s.order o with
  | .placed op none => s.setOrder o (.placed op (some (s.after 250)))
  | _ => s

/-- An output port becomes free (R168). -/
def State.portFree (s : State) (port : Port) : State :=
  let p := s.outPort port
  let s := match p.sending with
    | some (.inserted f) =>
      match f.owner with
      | some o => s.startConfirm o
      | none => s
    | some .passing | none => s
  s.setOutPort port p.sent.choose

end Sys2Proof.Machine
end

