-- ==== Sys2Proof/Machine/Events.lean ====
section
/-! DEFINITION. The commands that are no orders: frames and ports of the highway, placings into the insertion queues, timers, and what
comes over the test-set links. A timer's command acts when its timer has run out (log 5). -/

namespace Sys2Proof.Machine

/-! ### The highway -/

/-- FRAME_END (R158). -/
def execFrameEnd (port : Port) (octets : Octets) (mark : Option Byte) (s : State) : Host.Outcome State Fault Refusal :=
  s.command fun s => s.frameEnd port octets mark

/-- PORT_FREE (R168). -/
def execPortFree (port : Port) (s : State) : Host.Outcome State Fault Refusal := s.command fun s => s.portFree port

/-- MARKED_OCTET_RECEIVED (R157). -/
def execMarkedOctetReceived (port : Port) (octet : Byte) (s : State) : Host.Outcome State Fault Refusal :=
  s.command fun s => s.markedOctet port octet

/-! ### Placings (R28, R89, R130, R175, R178, R181) -/

/-- The payload of an ATTENTION, built as it is placed (R181, R199). -/
def Oh.attentionPayload (o : Oh) : Octets :=
  [byte o.latch.code, byte o.current.code] ++ num2 o.count1 ++ num2 o.count2 ++ num2 o.count3

/-- The frame of the OH's earliest waiting frame. -/
def State.ohFrame (s : State) : OhFrame → OwnFrame
  | .attention => s.toControl kindAttention s.core.oh.attentionPayload
  | .saveAnswer ref result => s.toControl kindAnswer [12, ref, byte result.code]

/-- The OH's earliest waiting frame is placed, when it is of the kind asked for and the queue has a free place (R178). -/
def State.placeOh (s : State) (wanted : OhFrame → Bool) : State :=
  match s.core.oh.waiting with
  | [] => s
  | f :: rest =>
    if wanted f = true ∧ s.upFree = true then (s.insertUp (s.ohFrame f)).updOh fun o => { o with waiting := rest } else s

def OhFrame.isAttention : OhFrame → Bool
  | .attention => true
  | .saveAnswer .. => false

/-- SAVE_ANSWER_PLACE (R178). -/
def execSaveAnswerPlace (s : State) : Host.Outcome State Fault Refusal := s.command fun s => s.placeOh fun f => !f.isAttention

/-- ATTENTION_PLACE (R181). -/
def execAttentionPlace (s : State) : Host.Outcome State Fault Refusal := s.command fun s => s.placeOh OhFrame.isAttention

/-- The oldest RESULT is placed when the UP queue has a free place (R89). -/
def State.placeResult (s : State) : State :=
  match s.ms.results with
  | [] => s
  | r :: rest =>
    if s.upFree then (s.insertUp (s.toControl kindResult (resultPayload r))).updMs fun m => { m with results := rest } else s

/-- RESULT_PLACE (R89). -/
def execResultPlace (s : State) : Host.Outcome State Fault Refusal := s.command State.placeResult

/-- The first notice is made into a TICKET frame and leaves the list; a CLOSING ticket then leaves the table (R130). -/
def State.placeNotice (s : State) : State :=
  match s.core.tc.notices with
  | [] => s
  | n :: rest =>
    if s.upFree then
      match s.core.ticket n with
      | none => s.updCore fun c => c.updTc fun tc => { tc with notices := rest }
      | some t =>
        (s.insertUp (s.toControl kindTicket (ticketPayload t ((s.core.children n).map (·.number))))).updCore fun c =>
          let c := (c.putTicket n fun t => { t with noticePending := false }).updTc fun tc => { tc with notices := rest }
          if t.state = .closing then c.dropTicket n else c
    else s

/-- TICKET_NOTICE_PLACE (R130). -/
def execTicketNoticePlace (s : State) : Host.Outcome State Fault Refusal := s.command State.placeNotice

/-- GUARD_NOTICE_PLACE (R175). -/
def execGuardNoticePlace (s : State) : Host.Outcome State Fault Refusal := s.command State.placeGuardNotice

/-- A waiting ACCESS order is placed when the DOWN queue has a free place (R28). -/
def State.placeOrder (s : State) (o : AccessOwner) : State :=
  match s.order o with
  | .waiting op => if s.downFree then s.makeReady o op else s
  | .idle | .placed .. => s

/-- ACCESS_ORDER_PLACE (R28). -/
def execAccessOrderPlace (owner : AccessOwner) (s : State) : Host.Outcome State Fault Refusal := s.command fun s => s.placeOrder owner

/-! ### Timers of the AC, the LW and the TC -/

/-- The confirm timer of an owner's transaction runs out: the transaction has failed (R28). -/
def State.confirmExpires (s : State) (o : AccessOwner) : State :=
  match s.order o with
  | .placed op due => if s.due due then s.transactionEnds o op false else s
  | .idle | .waiting _ => s

/-- CONFIRM_TIMEOUT (R28). -/
def execConfirmTimeout (owner : AccessOwner) (s : State) : Host.Outcome State Fault Refusal := s.command fun s => s.confirmExpires owner

/-- The probe timer of a SILENT shelf falls due (R36): a RELEASE_ALL is made unless one is outstanding or unsent; the next probe falls due
10 s after this one. -/
def State.shelfProbeDue (s : State) (n : Nat) : State :=
  match (s.shelf n).probeDue with
  | none => s
  | some t =>
    if t ≤ s.core.timeMs ∧ (s.shelf n).state = .silent then
      let idle := decide ((s.shelf n).order = .idle)
      let s := s.updShelf n fun h => { h with probeDue := some (t + 10000) }
      if idle then s.makeReady (shelfOwner n) .releaseAll else s
    else s

/-- SHELF_PROBE_TIMER (R36). -/
def execShelfProbeTimer (shelf : Fin 64) (s : State) : Host.Outcome State Fault Refusal := s.command fun s => s.shelfProbeDue shelf.val

/-- HOLD_EXPIRY (R39). -/
def execHoldExpiry (slot : Fin 4) (s : State) : Host.Outcome State Fault Refusal :=
  s.command fun s =>
    if (s.slot slot.val).state = .held ∧ s.due (s.slot slot.val).holdDue = true then s.holdEnds slot.val else s

/-- The queued request of a line whose wait timer has run out ends WAIT_EXPIRED (R40). -/
def State.waitExpires (s : State) (l : Nat) : State :=
  match s.ac.queue.find? fun r => decide (r.line = l) with
  | none => s
  | some r => if s.due r.waitDue then s.expel [r] (.outcome .waitExpired) else s

/-- WAIT_EXPIRY (R40). -/
def execWaitExpiry (line : Fin 8192) (s : State) : Host.Outcome State Fault Refusal := s.command fun s => s.waitExpires line.val

/-- LOCKOUT_DELAY_EXPIRY (R16): the conditions are examined. The delay runs out at a whole second of the time base (log 54). -/
def execLockoutDelayExpiry (line : Fin 8192) (s : State) : Host.Outcome State Fault Refusal :=
  s.command fun s => s.examineLockout line.val

/-- A retest due at a time falls due, once, and is offered (R122); the time is a whole second (log 54). -/
def State.retestFallsDue (s : State) (n : Nat) : State :=
  match (s.core.ticket n).bind (·.retest) with
  | none => s
  | some w =>
    match w.due with
    | .dueAt t => if t ≤ s.now ∧ w.fellDue = none then s.offerFallen n else s
    | .whenIdle | .outstanding => s

/-- RETEST_DUE (R122). -/
def execRetestDue (number : BitVec 16) (s : State) : Host.Outcome State Fault Refusal :=
  s.command fun s => s.retestFallsDue number.toNat

/-! ### Test-set links -/

/-- LINK_FRAME_LEAVES (R52). -/
def execLinkFrameLeaves (link : Fin 4) (s : State) : Host.Outcome State Fault Refusal := s.command fun s => s.linkLeaves link.val

/-- An IDENTITY arrives: one that fails its check or leaves no offered rate is discarded (R52, R54). -/
def State.identityArrives (s : State) (n : Nat) (octets : Octets) : State :=
  match parseIdentity octets with
  | none => s
  | some (kinds, rates) => if s.linkOpen n = true ∧ rates.isNone = false then s.identity n kinds rates else s

/-- IDENTITY_RECEIVED (R57). -/
def execIdentityReceived (link : Fin 4) (octets : Octets) (s : State) : Host.Outcome State Fault Refusal :=
  s.command fun s => s.identityArrives link.val octets

/-- A SAMPLE arrives: one that fails its check is discarded (R52). -/
def State.sampleArrives (s : State) (n : Nat) (octets : Octets) : State :=
  match parseSample octets with
  | none => s
  | some x => if s.linkOpen n then s.sample n x else s

/-- SAMPLE_RECEIVED (R60). -/
def execSampleReceived (link : Fin 4) (octets : Octets) (s : State) : Host.Outcome State Fault Refusal :=
  s.command fun s => s.sampleArrives link.val octets

/-- IDENTIFY_ANSWER_TIMEOUT (R53). -/
def execIdentifyAnswerTimeout (link : Fin 4) (s : State) : Host.Outcome State Fault Refusal :=
  s.command fun s =>
    if (s.testSet link.val).state = .probing ∧ s.due (s.testSet link.val).answerDue = true then s.identifyExpires link.val else s

/-- The 5 s probe timer of a SILENT set falls due: a probe is made, unless one is under way (R64). -/
def State.setProbeDue (s : State) (n : Nat) : State :=
  match (s.testSet n).probeDue with
  | none => s
  | some t =>
    if t ≤ s.core.timeMs ∧ (s.testSet n).state = .silent then
      if (s.testSet n).attempt = 0 then s.probeSet n else s.updTestSet n fun x => { x with probeDue := some (t + 5000) }
    else s

/-- SILENCE_PROBE_TIMER (R64). -/
def execSilenceProbeTimer (link : Fin 4) (s : State) : Host.Outcome State Fault Refusal := s.command fun s => s.setProbeDue link.val

/-- SILENCE_PROBE_TIMEOUT (R64): the probe has failed. -/
def execSilenceProbeTimeout (link : Fin 4) (s : State) : Host.Outcome State Fault Refusal :=
  s.command fun s =>
    if (s.testSet link.val).state = .silent ∧ s.due (s.testSet link.val).answerDue = true then
      (s.endIdentify link.val).sendStream link.val false
    else s

/-- FIRST_TAG_WAIT_EXPIRY (R61, R62). -/
def execFirstTagWaitExpiry (link : Fin 4) (s : State) : Host.Outcome State Fault Refusal :=
  s.command fun s =>
    if (s.testSet link.val).state = .ready ∧ s.due (s.testSet link.val).firstTagDue = true then s.setFails link.val true else s

/-- SAMPLE_TIMEOUT (R61, R62). -/
def execSampleTimeout (link : Fin 4) (s : State) : Host.Outcome State Fault Refusal :=
  s.command fun s =>
    if (s.testSet link.val).state = .ready ∧ s.due (s.testSet link.val).sampleDue = true then s.setFails link.val false else s

/-- The settle end of the step under way is reached (R78). -/
def State.settleEnds (s : State) (b : Nat) : State :=
  match s.run b with
  | none => s
  | some r => if r.phase = .settle ∧ s.due r.settleEnd = true then s.updRun b Run.enterAcquire else s

/-- SETTLE_END (R78). -/
def execSettleEnd (slot : Fin 4) (s : State) : Host.Outcome State Fault Refusal := s.command fun s => s.settleEnds slot.val

end Sys2Proof.Machine
end

