-- ==== Sys2Proof/Machine/Loads.lean ====
section
/-! DEFINITION. LOAD, one meaning for each table (R182): the records judged, answered and applied, with what their change sets off. -/

namespace Sys2Proof.Machine

/-- A LOAD that the OH has taken: BUSY while a save is under way; else every record is judged before any is applied, and the answer is
placed before the records take effect (R182, R179). -/
def State.load {β : Type} (s : State) (i : Instr) (judged : Except (Answer × Nat) (List β)) (apply : State → List β → State) : State :=
  if s.csi.saving.isSome then s.answer i .busy
  else match judged with
    | .error (a, n) => s.answer i a [byte n]
    | .ok rs => apply (s.answer i .accepted) rs

/-- A LOAD with no record fits no order (R178, log 19). -/
def State.loadSome {α β : Type} (s : State) (i : Instr) (records : List α) (judge : α → Judged β) (apply : State → List β → State) :
    State :=
  if records = [] then s.answer i .badOrder else s.load i (judgeAll judge 0 records) apply

/-! ### Applying records -/

/-- Every line with a lockout start has the conditions of R16 examined (R19), in ascending order of line (log 35). -/
def State.examineLockouts (s : State) : State :=
  (s.core.lines.filter fun e => e.2.lockoutStart.isSome).foldl (fun s e => s.examineLockout e.1) s

/-- The parameter record is replaced, and the blocks that a change reaches at once act on it (R19, R23, R56, R179): the quota, then the
lockout delay, then the kinds (log 36). -/
def State.applyParameters (s : State) (p : Params) : State :=
  let was := s.params
  let s := s.updOh fun o => { o with params := p, station := stationOf p s.straps }
  let s := s.quotaChanged was.routineQuota
  let s := if was.lockoutDelay = p.lockoutDelay then s else s.examineLockouts
  if was.enabledKinds = p.enabledKinds then s else slotNumbers.foldl State.reagree s

def State.setLineSetting (s : State) (l : Nat) (r : LineSetting) : State :=
  s.updLine l fun x => { x with group := r.group, routineEnabled := r.routineEnabled, programme := r.programme }

/-- Line records replace the configuration part; a change of group is reported to the TC (R2, R134, R141). -/
def State.applyLines (s : State) (rs : List (Nat × LineSetting)) : State :=
  let moved := (rs.filter fun r => decide ((s.line r.1).group ≠ r.2.group)).map (·.1)
  let s := rs.foldl (fun s r => s.setLineSetting r.1 r.2) s
  moved.foldl (fun s l => s.updCore fun c => c.lineRegrouped l) s

def State.setFitted (s : State) (r : Nat × Bool) : State := s.updShelf r.1 fun h => { h with fitted := r.2 }

/-- Fitted fields are set; a shelf whose field has changed is probed or retired (R9, R34, R37), at the place of its first
record (log 19). -/
def State.applyShelves (s : State) (rs : List (Nat × Bool)) : State :=
  let s' := rs.foldl State.setFitted s
  ((rs.map (·.1)).eraseDups.filter fun n => decide ((s.shelf n).fitted ≠ (s'.shelf n).fitted)).foldl
    (fun t n => if (s'.shelf n).fitted then t.probeShelf n else t.retireShelf n) s'

def State.setTreatment (s : State) (r : Nat × TreatmentEntry) : State :=
  s.updHtp fun h => { h with treatment := Table.set {} h.treatment r.1 r.2 }

def State.setMapEntry (s : State) (r : Nat × Option CallState) : State :=
  s.updHtp fun h => { h with stateMap := Table.set none h.stateMap r.1 r.2 }

def State.setProgramme (s : State) (r : Nat × Option Programme) : State :=
  s.updMs fun m => { m with programmes := Table.set none m.programmes r.1 r.2 }

def State.setStep (s : State) (r : Nat × Option Step) : State :=
  s.updMs fun m => { m with steps := Table.set none m.steps r.1 r.2 }

def State.setLimit (s : State) (r : Nat × LimitSet) : State :=
  s.updMs fun m => { m with limits := Table.set {} m.limits r.1 r.2 }

def State.setRange (s : State) (r : Nat × SweepRange) : State :=
  s.updRs fun x => { x with ranges := Table.set {} x.ranges r.1 r.2 }

/-- Line records with the lines they are for. -/
def numberedLines (first : BitVec 16) (records : List LineArg) : List (LineArg × Nat) := records.zipIdx first.toNat

/-- A line record of a block, refused when its line lies beyond 8191 (R182). -/
def judgeNumberedLine (r : LineArg × Nat) : Judged (Nat × LineSetting) :=
  if 8191 < r.2 then .error .badArg else (judgeLine r.1).map fun x => (r.2, x)

/-! ### Meanings -/

/-- LOAD_PARAMETERS (R179). -/
def execLoadParameters (ref : Byte) (record : ParametersArg) (s : State) : Host.Outcome State Fault Refusal :=
  s.orderCommand (.loadParameters ref record) fun s =>
    s.load (.loadParameters ref record) (judgeAll judgeParameters 0 [record]) fun s rs => rs.foldl State.applyParameters s

/-- LOAD_LINE (R2, R182): 1 to 24 records; with another number it fits no order (log 19). -/
def execLoadLine (ref : Byte) (first : BitVec 16) (records : List LineArg) (s : State) : Host.Outcome State Fault Refusal :=
  s.orderCommand (.loadLine ref first records) fun s =>
    if 24 < records.length then s.answer (.loadLine ref first records) .badOrder
    else s.loadSome (.loadLine ref first records) (numberedLines first records) judgeNumberedLine State.applyLines

/-- LOAD_SHELF (R9). -/
def execLoadShelf (ref : Byte) (records : List ShelfArg) (s : State) : Host.Outcome State Fault Refusal :=
  s.orderCommand (.loadShelf ref records) fun s => s.loadSome (.loadShelf ref records) records judgeShelf State.applyShelves

/-- LOAD_TREATMENT (R165). -/
def execLoadTreatment (ref : Byte) (records : List TreatmentArg) (s : State) : Host.Outcome State Fault Refusal :=
  s.orderCommand (.loadTreatment ref records) fun s =>
    s.loadSome (.loadTreatment ref records) records judgeTreatment fun s rs => rs.foldl State.setTreatment s

/-- LOAD_STATEMAP (R165). -/
def execLoadStatemap (ref : Byte) (records : List StatemapArg) (s : State) : Host.Outcome State Fault Refusal :=
  s.orderCommand (.loadStatemap ref records) fun s =>
    s.loadSome (.loadStatemap ref records) records judgeStatemap fun s rs => rs.foldl State.setMapEntry s

/-- LOAD_PROGRAMME (R68, R71). -/
def execLoadProgramme (ref : Byte) (records : List ProgrammeArg) (s : State) : Host.Outcome State Fault Refusal :=
  s.orderCommand (.loadProgramme ref records) fun s =>
    s.loadSome (.loadProgramme ref records) records s.judgeProgramme fun s rs => rs.foldl State.setProgramme s

/-- LOAD_STEP (R69, R71). -/
def execLoadStep (ref : Byte) (records : List StepArg) (s : State) : Host.Outcome State Fault Refusal :=
  s.orderCommand (.loadStep ref records) fun s =>
    s.loadSome (.loadStep ref records) records s.judgeStep fun s rs => rs.foldl State.setStep s

/-- LOAD_LIMIT (R70): never refused for use (R71). -/
def execLoadLimit (ref : Byte) (records : List LimitArg) (s : State) : Host.Outcome State Fault Refusal :=
  s.orderCommand (.loadLimit ref records) fun s =>
    s.loadSome (.loadLimit ref records) records judgeLimit fun s rs => rs.foldl State.setLimit s

/-- LOAD_SWEEPRANGE (R146). -/
def execLoadSweeprange (ref : Byte) (records : List SweepRangeArg) (s : State) : Host.Outcome State Fault Refusal :=
  s.orderCommand (.loadSweeprange ref records) fun s =>
    s.loadSome (.loadSweeprange ref records) records judgeSweepRange fun s rs => rs.foldl State.setRange s

end Sys2Proof.Machine
end

