-- ==== Sys2Proof/Machine/Reading.lean ====
section
/-! DEFINITION. READ (R183): the records of every table as their octets (R201). -/

namespace Sys2Proof.Machine

/-! ### Records in LOAD format -/

/-- The parameter record as a LOAD would carry it. -/
def Params.record (p : Params) : ParametersArg :=
  { station := optByte 0 p.station
    hitsThreshold := byte p.hitsThreshold
    hitsWindow := BitVec.ofNat 16 p.hitsWindow
    lockoutDelay := byte p.lockoutDelay
    lockoutProgramme := byte p.lockoutProgramme
    defaultProgramme := byte p.defaultProgramme
    holdLimit := byte p.holdLimit
    routineQuota := byte p.routineQuota
    maximumRate := BitVec.ofNat 16 p.maximumRate.perSecond
    enabledKinds := byte p.enabledKinds.code
    reportRoutine := onOff p.reportRoutine
    trendShift := byte p.trendShift
    degradeLevel := BitVec.ofNat 16 p.degradeLevel
    confirmDelay := byte p.confirmDelay
    groupThreshold := byte p.groupThreshold
    groupWindow := BitVec.ofNat 16 p.groupWindow }

def State.lineRecord (s : State) (l : Nat) : Octets :=
  encodeLine { group := byte (s.line l).group, routineEnabled := onOff (s.line l).routineEnabled,
               programme := optByte 0xFF (s.line l).programme }

def State.shelfRecord (s : State) (n : Nat) : Octets := encodeShelf { shelf := byte n, fitted := onOff (s.shelf n).fitted }

def State.treatmentRecord (s : State) (k : Nat) : Octets :=
  let e : TreatmentEntry := Table.get {} s.htp.treatment k
  encodeTreatment { kind := byte k, treatment := byte e.treatment.code, lineOffset := byte e.lineOffset,
                    stateOffset := byte e.stateOffset }

/-- A state-code map entry: IGNORE is 15. -/
def State.statemapRecord (s : State) (k : Nat) : Octets :=
  let e : Option CallState := Table.get none s.htp.stateMap k
  encodeStatemap { index := byte k, callState := byte (match e with
    | some c => c.code
    | none => 15) }

/-- A programme record; the first step index of an empty one is not stated (log 8). -/
def State.programmeRecord (s : State) (p : Nat) : Octets :=
  encodeProgramme (match s.ms.programme p with
    | some r => { programme := byte p, firstStep := byte r.first, stepCount := byte r.count }
    | none => { programme := byte p, firstStep := Config.unstatedOctet 6 p 1, stepCount := 0 })

/-- A step record; the fields of an empty one other than its kind NONE are not stated (log 8). -/
def State.stepRecord (s : State) (i : Nat) : Octets :=
  match s.ms.step i with
  | some st =>
    encodeStep { step := byte i, kind := byte st.kind.code, leadPair := byte st.pair.code, level := BitVec.ofInt 32 st.level,
                 slope := byte st.slope, settle := BitVec.ofNat 16 st.settle, sampleCount := BitVec.ofNat 16 st.samples,
                 limitSet := optByte 0xFF st.limitSet, faultClass := byte st.faultClass.code, onFail := byte st.onFail.code }
  | none => [byte i, 0xFF] ++ (List.range 13).map fun k => Config.unstatedOctet 7 i (k + 2)

/-- A limit, absent as 0xFFFFFFFF. -/
def limitWord (v : Option Nat) : BitVec 32 :=
  match v with
  | some n => BitVec.ofNat 32 n
  | none => 0xFFFFFFFF

def State.limitRecord (s : State) (k : Nat) : Octets :=
  let l := s.ms.limit k
  encodeLimit { limitSet := byte k, unit := byte l.unit.code, low := limitWord l.low, high := limitWord l.high,
                hysteresis := byte l.hysteresis }

def State.rangeRecord (s : State) (k : Nat) : Octets :=
  let r : SweepRange := Table.get {} s.rs.ranges k
  encodeSweepRange { range := byte k, first := BitVec.ofNat 16 r.first, last := BitVec.ofNat 16 r.last, enabled := onOff r.enabled }

/-! ### Runtime records -/

/-- The access bus of a line, 0xFF for none. -/
def AccessState.bus : AccessState → Byte
  | .inAccess b => byte b
  | .none | .queued => 0xFF

def State.linestatusRecord (s : State) (l : Nat) : Octets :=
  let r := s.line l
  let v := r.channels
  [byte r.callState.code, byte r.access.code, r.access.bus, byte v.fv.code, byte v.irTg.code, byte v.irRg.code, byte v.irTr.code,
    byte v.loop.code, byte v.cap.code] ++ num2 (r.trend.getD 0) ++ num2 (r.ticket.getD 0)
    ++ [byte (bitFlag 0 r.trend.isSome + bitFlag 1 r.ticket.isSome + bitFlag 2 r.unticketed + bitFlag 3 r.skipped)]

/-- A request record (R20); the desk position of a request that is not DESK is not stated (log 8). -/
def requestRecord (table number offset : Nat) (r : Request) : Octets :=
  [byte r.cls.code] ++ num2 r.line ++ [optByte 0xFF r.programme, byte r.kinds.code, optByte 0 r.token,
    (match r.position with
      | some p => byte p
      | none => Config.unstatedOctet table number (offset + 6)),
    byte (bitFlag 0 r.force + bitFlag 1 r.keep + bitFlag 2 r.ticketFlag)] ++ num2 r.hold ++ num2 r.wait ++ num4 r.entry
    ++ [optByte 0xFF (r.reason.map (·.code))] ++ num2 (r.ticketRef.getD 0)

/-- The run fields of a SLOT record, 0 with no run active; retry-used stands in the flags. Of the results so far their number is shown
(R72, R201, log 43). -/
def runRecord : Option Run → Octets
  | some x =>
    [byte x.programme, byte x.step, byte x.ramp.code, byte x.phase.code] ++ num2 x.lost ++ num2 x.taken ++ [byte x.results.length]
  | none => List.replicate 9 0

/-- A SLOT record, its fields in the order R201 lists them (log 9). -/
def State.slotRecord (s : State) (b : Nat) : Octets :=
  let r := s.slot b
  let x := s.run b
  [byte b, byte r.state.code, byte r.pair, byte r.attempt, optByte 0xFF (r.cause.map (·.code))] ++ num4 (r.heldAt.getD 0)
    ++ [byte (bitFlag 0 r.request.isSome + bitFlag 1 r.heldAt.isSome + bitFlag 2 x.isSome + bitFlag 3 ((x.map (·.retryUsed)).getD false))]
    ++ (match r.request with
      | some q => requestRecord 11 b 10 q
      | none => List.replicate 19 0)
    ++ runRecord x ++ [optByte 0xFF (s.pendingRun b)]

def State.testSetRecord (s : State) (n : Nat) : Octets :=
  let t := s.testSet n
  [byte n, byte t.state.code, optByte 0xFF (t.type.map (·.code)), byte ((t.offeredKinds.map (·.code)).getD 0),
    byte ((t.offeredRates.map (·.code)).getD 0), byte ((t.agreedKinds.map (·.code)).getD 0),
    byte ((t.agreedRate.map (·.code)).getD 0), byte t.tag, byte t.range.code, onOff t.stream, byte t.expected, byte t.failures]
    ++ num2 (t.ticket.getD 0) ++ [byte (bitFlag 0 t.offeredKinds.isSome + bitFlag 1 t.agreedKinds.isSome)]

/-- The retest wanted of a ticket (R199): what an absent one shows beside its reason, and the due time of a condition that is not due at
a time, are not stated (log 8). -/
def retestRecord (number : Nat) (w : Option Retest) : Octets :=
  let unstated (k n : Nat) : Octets := (List.range n).map fun i => Config.unstatedOctet 14 number (k + i)
  match w with
  | none => 0xFF :: unstated 1 6
  | some w =>
    [byte w.reason.code, byte w.attempts, byte w.due.code] ++ match w.due with
      | .dueAt t => num4 t
      | .whenIdle | .outstanding => unstated 3 4

/-- The numbers of a group ticket's children, in creation order. -/
def Core.childNumbers (c : Core) (t : Ticket) : List Nat := (c.children t.number).map (·.number)

/-- A TICKET record: R199's layout of a ticket, which has no place for notice pending (log 45), and the retest wanted (R199). That the table
code and the record count go before it, as before the record of any other table, is the model's choice (log 57). -/
def State.ticketRecord (s : State) (t : Ticket) : Octets :=
  ticketPayload t (s.core.childNumbers t) ++ retestRecord t.number t.retest

/-! ### READ -/

/-- The data of a READ that names one record: table code, record count 1, the record. -/
def oneRecord (t : ReadTable) (r : Octets) : Octets := [byte t.code, 1] ++ r

/-- The data of a READ of lines from a first one. -/
def lineRecords (t : ReadTable) (first count : Nat) (record : Nat → Octets) : Octets :=
  [byte t.code, byte count] ++ num2 first ++ (List.range count).flatMap fun k => record (first + k)

/-- How many lines a READ gives: its count clamped to 1 to `greatest`, and to line 8191 (R183). -/
def lineCount (first count greatest : Nat) : Nat := min (clamp 1 greatest count) (8192 - first)

/-- One record of a table whose numbers run to `last`. -/
def numberedRecord (t : ReadTable) (last index : Nat) (record : Nat → Octets) : Option Octets :=
  if index ≤ last then some (oneRecord t (record index)) else none

/-- The data of a READ; `none` is an index outside its table (R183). The data of READ TICKET begins with table code and record count too,
where R199 speaks of the payload alone: the model's choice (log 57). -/
def State.readData (s : State) (t : ReadTable) (index count : Nat) : Option Octets :=
  match t with
  | .parameters => some (oneRecord t (encodeParameters s.params.record))
  | .line => if index ≤ 8191 then some (lineRecords t index (lineCount index count 24) s.lineRecord) else none
  | .linestatus => if index ≤ 8191 then some (lineRecords t index (lineCount index count 8) s.linestatusRecord) else none
  | .shelf => numberedRecord t 63 index s.shelfRecord
  | .treatment => numberedRecord t 255 index s.treatmentRecord
  | .statemap => numberedRecord t 15 index s.statemapRecord
  | .programme => numberedRecord t 31 index s.programmeRecord
  | .step => numberedRecord t 255 index s.stepRecord
  | .limit => numberedRecord t 63 index s.limitRecord
  | .sweeprange => numberedRecord t 15 index s.rangeRecord
  | .slot => numberedRecord t 3 index s.slotRecord
  | .testset => numberedRecord t 3 index s.testSetRecord
  | .queue =>
    if index ≤ 31 then
      let rs := ((s.ac.queue.zipIdx).drop index).take (clamp 1 6 count)
      some ([byte t.code, byte rs.length] ++ rs.flatMap fun r => requestRecord 12 r.2 0 r.1)
    else none
  | .ticket => (s.core.ticket index).map fun k => oneRecord t (s.ticketRecord k)

/-- READ (R183): no state changes. -/
def execRead (ref : Byte) (table : ReadTable) (index : BitVec 16) (count : Byte) (s : State) : Host.Outcome State Fault Refusal :=
  s.orderCommand (.read ref table index count) fun s =>
    match s.readData table index.toNat count.toNat with
    | some data => s.answer (.read ref table index count) .accepted data
    | none => s.answer (.read ref table index count) .badArg

end Sys2Proof.Machine
end

