-- ==== Sys2Proof/Machine/Image.lean ====
section
/-! DEFINITION. The configuration image (R195, R202): how a read image is judged and applied, and how a save writes it (R193). -/

namespace Sys2Proof.Machine

/-! ### Reading an image -/

/-- The records of a section, cut from the front of the octets that are left. -/
def takeRecords {α : Type} (one : Octets → Option (α × Octets)) : Nat → Octets → Option (List α × Octets)
  | 0, o => some ([], o)
  | n + 1, o =>
    match one o with
    | none => none
    | some (r, rest) => (takeRecords one n rest).map fun x => (r :: x.1, x.2)

/-- A PARAMETERS record from the front. -/
def takeParameters (o : Octets) : Option (ParametersArg × Octets) := (decodeParameters (o.take 20)).map fun p => (p, o.drop 20)

/-- The records of a section, judged against the state so far and applied; a record that does not pass makes the image not valid. -/
def applySection {α β : Type} (s : State) (one : Octets → Option (α × Octets)) (judge : α × Nat → Judged β) (apply : State → β → State)
    (count : Nat) (o : Octets) : Option (State × Octets) :=
  match takeRecords one count o with
  | none => none
  | some (records, rest) =>
    match judgeAll judge 0 (records.zipIdx) with
    | .ok rs => some (rs.foldl apply s, rest)
    | .error _ => none

/-- The image's parameter record becomes the record, and its quota the quota in force (R23, R195). -/
def State.imageParameters (s : State) (p : Params) : State :=
  (s.updOh fun o => { o with params := p, station := stationOf p s.straps }).updAc fun a => { a with quotaInForce := p.routineQuota }

/-- The section of a table code: an unassigned code makes the image not valid (R198). -/
def imageSection (s : State) (code count : Nat) (o : Octets) : Option (State × Octets) :=
  match readTableOfCode code with
  | some .parameters => applySection s takeParameters (fun r => judgeParameters r.1) State.imageParameters count o
  | some .step => applySection s takeStep (fun r => s.judgeStep r.1) State.setStep count o
  | some .programme => applySection s takeProgramme (fun r => s.judgeProgramme r.1) State.setProgramme count o
  | some .limit => applySection s takeLimit (fun r => judgeLimit r.1) State.setLimit count o
  | some .line => applySection s takeLine judgeNumberedLine (fun s r => s.setLineSetting r.1 r.2) count o
  | some .shelf => applySection s takeShelf (fun r => judgeShelf r.1) State.setFitted count o
  | some .treatment => applySection s takeTreatment (fun r => judgeTreatment r.1) State.setTreatment count o
  | some .statemap => applySection s takeStatemap (fun r => judgeStatemap r.1) State.setMapEntry count o
  | some .sweeprange => applySection s takeSweepRange (fun r => judgeSweepRange r.1) State.setRange count o
  | some .linestatus | some .slot | some .queue | some .testset | some .ticket | none => none

/-- The sections, in image order, at most n of them. -/
def imageSections : Nat → State → Octets → Option State
  | _, s, [] => some s
  | n + 1, s, code :: c1 :: c0 :: rest =>
    match imageSection s code.toNat (field2 c1 c0).toNat rest with
    | none => none
    | some (s, rest) => imageSections n s rest
  | _, _, _ => none

/-- The table sections of an image: its signature is 0x5C, its length fits what the store answered, and its CRC-16 matches. -/
def imageBody (o : Octets) : Option Octets :=
  match o with
  | sig :: l1 :: l0 :: rest =>
    let n := (field2 l1 l0).toNat
    if sig = 0x5C ∧ n + 2 ≤ rest.length ∧ (rest.drop n).take 2 = octets2 (crc16 (o.take (3 + n))) then some (rest.take n) else none
  | _ => none

/-- The image applied whole, or `none` when it is not valid (R195). The sweep's cursor goes to the first line of range 0 (R156). -/
def State.loadImage (s : State) (o : Octets) : Option State :=
  match (imageBody o).bind fun body => imageSections body.length s body with
  | none => none
  | some s => some (s.updRs fun r => { r with cursorRange := 0, cursorLine := (Table.get {} r.ranges 0).first })

/-! ### Writing an image -/

/-- A section: table code, record count, records. -/
def tableSection (t : ReadTable) (count : Nat) (record : Nat → Octets) : Octets :=
  byte t.code :: num2 count ++ (List.range count).flatMap record

/-- The table sections of the configuration as it stands, in the order of R195. -/
def State.imageTables (s : State) : Octets :=
  tableSection .parameters 1 (fun _ => encodeParameters s.params.record) ++ tableSection .step 256 s.stepRecord
    ++ tableSection .programme 32 s.programmeRecord ++ tableSection .limit 64 s.limitRecord ++ tableSection .line 8192 s.lineRecord
    ++ tableSection .shelf 64 s.shelfRecord ++ tableSection .treatment 256 s.treatmentRecord ++ tableSection .statemap 16 s.statemapRecord
    ++ tableSection .sweeprange 16 s.rangeRecord

/-- The octets of the table sections when every table is present (R202). -/
def tableOctets : Nat := 30543

/-- The blocks of 32 octets that hold the length and the records. -/
def recordBlocks : Nat := 955

/-- The number of the last block: the signature (R193). -/
def lastBlock : Nat := recordBlocks + 2

/-- Block k of a save (R193): the cleared signature, the length with the records, the CRC-16, the signature. -/
def State.saveBlock (s : State) (k : Nat) : Octets :=
  if k = 0 then [0x00]
  else if k ≤ recordBlocks then ((num2 tableOctets ++ s.imageTables).drop (32 * (k - 1))).take 32
  else if k = recordBlocks + 1 then octets2 (crc16 ([0x5C] ++ num2 tableOctets ++ s.imageTables))
  else [0x5C]

/-- The CSI writes block k for a SAVE of this reference; the store has 50 ms to acknowledge it. -/
def State.writeBlock (s : State) (ref : Byte) (k : Nat) : State :=
  s.updCsi fun c => { c with saving := some { ref := ref, block := k, octets := s.saveBlock k, ackDue := s.after 50 } }

/-- SAVE (R193): BUSY while a save is under way, else the save begins and no answer is made yet. -/
def execSave (ref : Byte) (s : State) : Host.Outcome State Fault Refusal :=
  s.orderCommand (.save ref) fun s =>
    if s.csi.saving.isSome then s.answer (.save ref) .busy
    else (s.updCsi fun c => { c with stored := .invalid }).writeBlock ref 0

/-- A save ends, and its answer waits for a place (R193, R178). -/
def State.saveEnds (s : State) (ref : Byte) (result : Answer) : State :=
  (s.updCsi fun c => { c with saving := none }).updOh fun o => { o with waiting := o.waiting ++ [.saveAnswer ref result] }

/-- SAVE_BLOCK_ACK (R193). -/
def execSaveBlockAck (s : State) : Host.Outcome State Fault Refusal :=
  s.command fun s =>
    match s.csi.saving with
    | none => s
    | some v =>
      if v.block < lastBlock then s.writeBlock v.ref (v.block + 1)
      else (s.updCsi fun c => { c with stored := .saved }).saveEnds v.ref .accepted

/-- SAVE_ACK_TIMEOUT (R193): the signature stays cleared. -/
def execSaveAckTimeout (s : State) : Host.Outcome State Fault Refusal :=
  s.command fun s =>
    match s.csi.saving with
    | none => s
    | some v => if s.due (some v.ackDue) then s.saveEnds v.ref .storeFailed else s

end Sys2Proof.Machine
end

