-- ==== Sys2Proof/Machine/Sweep.lean ====
section
/-! DEFINITION. The Routine Sweep (section 8): ranges and cursor, the scan, pacing, and the SWEEP orders. -/

namespace Sys2Proof.Machine

/-! ### Ranges and the cursor (R146–R148) -/

def Rs.range (r : Rs) (k : Nat) : SweepRange := Table.get {} r.ranges k

/-- The lowest-numbered enabled range from k on, of the n ranges left to look at. -/
def Rs.enabledFrom (r : Rs) : Nat → Nat → Option Nat
  | 0, _ => none
  | n + 1, k => if (r.range k).enabled then some k else r.enabledFrom n (k + 1)

/-- The next enabled range above k. -/
def Rs.enabledAbove (r : Rs) (k : Nat) : Option Nat := r.enabledFrom (15 - k) (k + 1)

/-- The lowest-numbered enabled range. -/
def Rs.firstEnabled (r : Rs) : Option Nat := r.enabledFrom 16 0

/-- The cursor at the first line of a range. -/
def Rs.enterRange (r : Rs) (k : Nat) : Rs := { r with cursorRange := k, cursorLine := (r.range k).first }

/-- The end of a pass (R148): the pass count rises, every SKIPPED flag clears, the cursor goes to the first line of the lowest-numbered
enabled range, and the OH is told the new count. -/
def State.endPass (s : State) : State :=
  match s.rs.firstEnabled with
  | none => s
  | some k =>
    let count := (s.rs.passCount + 1) % 65536
    ((s.updRs fun r => ({ r with passCount := count } : Rs).enterRange k).updCore fun c =>
      { c with lines := Table.mapAll {} (fun l => { l with skipped := false }) c.lines }).updOh fun o => { o with passCount := count }

/-- The cursor moves past the end of its range: to the next enabled range, or past the end of the pass (R147, R148). -/
def State.leaveRange (s : State) : State :=
  match s.rs.enabledAbove s.rs.cursorRange with
  | some k => s.updRs fun r => r.enterRange k
  | none => s.endPass

/-- The cursor is settled against the ranges at the start of a scan (R147). -/
def State.settleCursor (s : State) : State :=
  let g := s.rs.range s.rs.cursorRange
  if g.enabled = false ∨ g.last < s.rs.cursorLine then s.leaveRange
  else if s.rs.cursorLine < g.first then s.updRs fun r => { r with cursorLine := g.first }
  else s

/-- The cursor moves to the position after the one it is at. -/
def State.advanceCursor (s : State) : State :=
  if s.rs.cursorLine < (s.rs.range s.rs.cursorRange).last then s.updRs fun r => { r with cursorLine := r.cursorLine + 1 }
  else s.leaveRange

/-! ### The scan (R151–R153) -/

/-- A candidate is passed over by a test that leaves SKIPPED alone (R152 tests 1 to 4). -/
def State.passedOver (s : State) (l : Nat) : Bool :=
  decide ((s.shelf (shelfOf l)).state ≠ .serving) || !(s.line l).routineEnabled || (s.line l).ticket.isSome
    || (decide ((s.line l).group ≤ 126)
        && s.core.tc.tickets.any fun t => decide (t.kind = .group) && decide (t.subject = (s.line l).group))

/-- A candidate is passed over because it is busy, and is marked SKIPPED (R152 tests 5 and 6). -/
def State.busyLine (s : State) (l : Nat) : Bool :=
  decide ((s.line l).callState ≠ .idle) || decide ((s.line l).access ≠ .none)

/-- The request for an eligible candidate: accepted, the cursor moves on; refused, it stays (R153). -/
def State.offerRoutine (s : State) (l : Nat) : State :=
  match s.offerCore (s.backgroundRequest .routine l (s.routineProgramme l) 120 none none) with
  | (s, none) => s.advanceCursor.settle
  | (s, some _) => s

/-- Positions are examined from the cursor on, at most n of them, until a request is made or the scan has come round to where it
began (R151). -/
def State.scan (startRange startLine : Nat) : Nat → State → State
  | 0, s => s
  | n + 1, s =>
    let l := s.rs.cursorLine
    if s.passedOver l = false ∧ s.busyLine l = false then s.offerRoutine l
    else
      let s := if s.passedOver l then s else s.markSkipped l
      let s := s.advanceCursor
      if s.rs.cursorRange = startRange ∧ s.rs.cursorLine = startLine then s else State.scan startRange startLine n s

/-- A pacing event (R151): lost when the ROUTINE count has reached the quota in force or no range is enabled, else a scan. -/
def State.pace (s : State) : State :=
  if s.ac.quotaInForce ≤ s.routineCount then s
  else if s.rs.firstEnabled.isNone then s
  else
    let s := s.settleCursor
    State.scan s.rs.cursorRange s.rs.cursorLine 64 s

/-! ### Pacing (R149, R150) -/

/-- One tick of the time base (R149): while RUNNING the increment is added, and an overflow makes a pacing event at that tick. -/
def Rs.tick (r : Rs) : Rs :=
  let r := { r with eventDue := false }
  if r.running then
    let sum := r.accumulator + r.increment
    if 16777216 ≤ sum then { r with accumulator := sum - 16777216, eventDue := true } else { r with accumulator := sum }
  else r

/-- TIME_BASE_TICK (R149): one more millisecond has passed. -/
def execTimeBaseTick (s : State) : Host.Outcome State Fault Refusal :=
  s.command fun s => (s.updCore fun c => { c with timeMs := c.timeMs + 1 }).updRs Rs.tick

/-- A pacing event takes the pending increment (R150). -/
def Rs.takeIncrement (r : Rs) : Rs :=
  match r.pendingIncrement with
  | some i => { r with eventDue := false, increment := i, pendingIncrement := none }
  | none => { r with eventDue := false }

/-- PACING_EVENT (R149–R153): the event of the tick whose addition overflowed the accumulator; with no such event there is none. -/
def execPacingEvent (s : State) : Host.Outcome State Fault Refusal :=
  s.command fun s => if s.rs.eventDue then (s.updRs Rs.takeIncrement).pace else s

/-! ### SWEEP (R150, R155, R190) -/

/-- The data of a SWEEP's answer: the sweep as it stands after the order. -/
def Rs.octets (r : Rs) : Octets :=
  [byte (bitFlag 0 r.running + bitFlag 7 r.pendingIncrement.isSome), byte r.cursorRange] ++ num2 r.cursorLine ++ num2 r.increment
    ++ num2 (r.pendingIncrement.getD 0) ++ num2 r.passCount

def State.answerSweep (s : State) (i : Instr) : State := s.answer i .accepted s.rs.octets

/-- The sweep state becomes RUNNING or STOPPED, and the OH is told (R155). -/
def State.setSweep (s : State) (on : Bool) : State :=
  (s.updRs fun r => { r with running := on }).updOh fun o => { o with sweepRunning := on }

/-- SWEEP START (R155). -/
def execSweepStart (ref : Byte) (s : State) : Host.Outcome State Fault Refusal :=
  s.orderCommand (.sweepStart ref) fun s => (s.setSweep true).answerSweep (.sweepStart ref)

/-- SWEEP STOP (R155). -/
def execSweepStop (ref : Byte) (s : State) : Host.Outcome State Fault Refusal :=
  s.orderCommand (.sweepStop ref) fun s => (s.setSweep false).answerSweep (.sweepStop ref)

/-- A RATE order's value (R150). -/
def Rs.setRate (r : Rs) (v : Nat) : Rs :=
  if r.increment = 0 then { r with increment := v, pendingIncrement := none } else { r with pendingIncrement := some v }

/-- SWEEP RATE (R150). -/
def execSweepRate (ref : Byte) (increment : BitVec 16) (s : State) : Host.Outcome State Fault Refusal :=
  s.orderCommand (.sweepRate ref increment) fun s =>
    (s.updRs fun r => r.setRate increment.toNat).answerSweep (.sweepRate ref increment)

end Sys2Proof.Machine
end

