-- ==== Sys2Proof/Machine/Start.lean ====
section
/-! DEFINITION. The reset input, start-up (R157, R195, R196) and RESTART (R194), with SUMMARY and TESTSET (R191, R192). -/

namespace Sys2Proof.Machine

/-! ### Power-on -/

/-- RESET_ASSERT (R157): from now on the part neither receives nor transmits. -/
def execResetAssert (s : State) : Host.Outcome State Fault Refusal := .next { s with resetInput := true }

/-- The part as the release of reset leaves it, with these straps (R179, R196): the waiting commands and the store are outside it. -/
def State.powerOn (s : State) (straps : BitVec 6) : State :=
  { pending := s.pending, straps := straps, core := { oh := { station := stationOf {} straps } }, csi := { stored := s.csi.stored } }

/-- POWER_ON (R196). -/
def execPowerOn (straps : BitVec 6) (s : State) : Host.Outcome State Fault Refusal := .next (s.powerOn straps)

/-- Step 3 of start-up: fitted shelves are probed and enumeration begins on all four links (R196). The shelves' RELEASE_ALLs are made
ready in ascending order of shelf (log 49). -/
def State.beginService (s : State) : State :=
  let shelves := (s.core.shelves.filter fun e => e.2.fitted).map (·.1)
  let s := s.updCsi fun c => { c with imageAwaited := false }
  slotNumbers.foldl State.enumerate (shelves.foldl State.probeShelf s)

/-- The image is not valid: the defaults stand, and CONFIG_DEFAULTED is latched (R195). -/
def State.defaulted (s : State) : State := s.updOh fun o => o.latchFlag .configDefaulted

/-- The image the store holds is one it can give: a save cut off has left it without its signature (R193). -/
def State.storeReadable (s : State) : Bool := decide (s.csi.stored ≠ .invalid)

/-- CONFIG_IMAGE_READ (R195). -/
def execConfigImageRead (octets : Octets) (s : State) : Host.Outcome State Fault Refusal :=
  s.command fun s =>
    if s.csi.imageAwaited then
      match if s.storeReadable then s.loadImage octets else none with
      | some loaded => loaded.beginService
      | none => s.defaulted.beginService
    else s

/-- STORE_READ_TIMEOUT (R195): 50 ms without an answer make the image not valid. -/
def execStoreReadTimeout (s : State) : Host.Outcome State Fault Refusal :=
  s.command fun s => if s.csi.imageAwaited = true ∧ 50 ≤ s.core.timeMs then s.defaulted.beginService else s

/-! ### SUMMARY and TESTSET -/

/-- The data of a SUMMARY's answer (R191, R199). -/
def Oh.octets (o : Oh) : Octets :=
  num2 o.count1 ++ num2 o.count2 ++ num2 o.count3 ++ [byte o.latch.code, byte o.current.code, onOff o.sweepRunning]
    ++ num2 o.passCount ++ [onOff o.ready]

/-- SUMMARY (R191). -/
def execSummary (ref : Byte) (s : State) : Host.Outcome State Fault Refusal :=
  s.orderCommand (.summary ref) fun s =>
    (s.answer (.summary ref) .accepted s.core.oh.octets).updOh fun o => { o.relatch with attentionSent := false }

/-- TESTSET ENABLE (R67, R192). -/
def execTestsetEnable (ref set : Byte) (s : State) : Host.Outcome State Fault Refusal :=
  s.orderCommand (.testsetEnable ref set) fun s =>
    if 3 < set.toNat then s.answer (.testsetEnable ref set) .badArg
    else (s.answer (.testsetEnable ref set) .accepted).enableSet set.toNat

/-- TESTSET DISABLE (R66, R192). -/
def execTestsetDisable (ref set : Byte) (s : State) : Host.Outcome State Fault Refusal :=
  s.orderCommand (.testsetDisable ref set) fun s =>
    if 3 < set.toNat then s.answer (.testsetDisable ref set) .badArg
    else (s.answer (.testsetDisable ref set) .accepted).disableSet set.toNat

/-! ### RESTART (R194) -/

/-- The CG forwards every held order (R177). -/
def State.restartGuard (s : State) : State :=
  (s.cg.held.foldl (fun s h => s.passDown h.frame) s).updCg fun g => { g with held := [] }

/-- A live slot at RESTART (R49 step 1): a RELEASE is placed if there is room and is not awaited, the slot goes FREE, its line NONE.
A RELEASE of a FAULTED slot that still waits for a place is withdrawn (log 37). Slots go in ascending order, so the
highest find no place where there are too few (log 50). -/
def State.restartSlot (s : State) (b : Nat) : State :=
  if (s.slot b).state.live then
    let line := (s.slot b).line
    let s := s.endOrder (slotOwner b)
    let s := if s.downFree then s.insertDown { s.accessFrame (slotOwner b) .release with owner := none } else s
    let s := s.updSlot b fun r => { r with state := .free, request := none, ended := false, holdDue := none, mark := none }
    match line with
    | some l => s.updLine l fun x => { x with access := .none }
    | none => s
  else s.endOrder (slotOwner b)

/-- The DESK requests that RESTART ends, with their buses: those of live slots that have not had their ending, then the queued ones. -/
def State.restartEndings (s : State) : List (Request × Option Nat) :=
  (slotNumbers.filterMap fun b =>
      if (s.slot b).state.live && !(s.slot b).ended then
        ((s.slot b).request.filter fun r => decide (r.cls = .desk)).map fun r => (r, some b)
      else none)
    ++ (s.ac.queue.filter fun r => decide (r.cls = .desk)).map fun r => (r, none)

/-- A fitted shelf at RESTART (R9, R34, R49 step 4): PROBING, its pairs recounted, its first probe made. -/
def State.restartShelf (s : State) (n : Nat) : State :=
  (s.probeShelf n).updShelf n fun h => { h with freePairs := 2 - (s.slotsOn n (decide <| · = .faulted)).length }

/-- The AC and the MS at RESTART (R49, R86): live slots are freed, runs dropped, DESK requests end CANCELLED, the queue is emptied, the
shelves are probed afresh in ascending order (log 49), the quota in force becomes the parameter. RESULTs and RELEASEs go by slot
(logs 17, 50). -/
def State.restartAccess (s : State) : State :=
  let endings := s.restartEndings
  let s := slotNumbers.foldl State.restartSlot s
  let s := s.updMs fun m => { m with runs := [], pendingRuns := [] }
  let s := endings.foldl (fun s e => s.resultOf e.1 e.2 .cancelled) s
  let s := s.ac.queue.foldl (fun s r => s.updLine r.line fun x => { x with access := .none }) s
  let s := s.updAc fun a =>
    { a with queue := [], quotaInForce := s.params.routineQuota, departed := a.departed || !a.queue.isEmpty }
  ((s.core.shelves.filter fun e => e.2.fitted).map (·.1)).foldl State.restartShelf s

/-- The TLC at RESTART (R51). -/
def State.restartLink (s : State) (n : Nat) : State :=
  let s := s.stopStepTimers n
  if (s.testSet n).state = .ready then (s.sourceOff n).sendStream n false else s

/-- The watch fields of a line after RESTART (R4). -/
def LineRec.unwatched (r : LineRec) : LineRec :=
  { r with hits := 0, hitsStart := none, lockoutStart := none, deferred := none, reOffer := false }

/-- The LW at RESTART (R4). -/
def Core.restartWatch (c : Core) : Core := { c with lines := Table.mapAll {} LineRec.unwatched c.lines }

/-- The RS at RESTART (R156): STOPPED, the accumulator 0. -/
def State.restartSweep (s : State) : State :=
  (s.updRs fun r => { r with running := false, accumulator := 0, eventDue := false }).updOh fun o => { o with sweepRunning := false }

/-- The lines whose access state RESTART makes NONE (R49): those of live slots, then those of queued requests. -/
def State.restartLines (s : State) : List Nat :=
  (slotNumbers.filterMap fun b => if (s.slot b).state.live then (s.slot b).line else none) ++ s.ac.queue.map (·.line)

/-- What the blocks do at RESTART (R194): the CG goes before the AC, and the TC before the GM. -/
def State.restartBlocks (s : State) : State :=
  let s := (s.restartGuard).restartAccess
  let s := slotNumbers.foldl State.restartLink s
  (s.updCore fun c => ((c.restartTickets).rebuildGroups).restartWatch).restartSweep

/-- What RESTART does once it has been answered (R194). When the blocks have acted the latch becomes the current conditions. Then the TC
examines the retests due when idle of the lines that have become NONE, and offers its due retests for the requests that have left the
queue (R24, R122, log 17). -/
def State.restart (s : State) : State :=
  s.restartLines.foldl State.examineIdleRetest ((s.restartBlocks.refreshConditions).updOh Oh.relatch)

/-- RESTART (R194). -/
def execRestart (ref : Byte) (s : State) : Host.Outcome State Fault Refusal :=
  s.orderCommand (.restart ref) fun s => (s.answer (.restart ref) .accepted).restart

end Sys2Proof.Machine
end

