-- ==== Sys2Proof/Machine/Dispatch.lean ====
section
/-! DEFINITION. What each command does: one arm for each constructor of `Instr`, one meaning for each arm. -/

namespace Sys2Proof.Machine

def exec (i : Instr) (s : State) : Host.Outcome State Fault Refusal :=
  match i with
  | .resetAssert => Sys2Proof.Machine.execResetAssert s
  | .powerOn straps => Sys2Proof.Machine.execPowerOn straps s
  | .configImageRead octets => Sys2Proof.Machine.execConfigImageRead octets s
  | .storeReadTimeout => Sys2Proof.Machine.execStoreReadTimeout s
  | .frameEnd port octets mark => Sys2Proof.Machine.execFrameEnd port octets mark s
  | .portFree port => Sys2Proof.Machine.execPortFree port s
  | .loadParameters ref record => Sys2Proof.Machine.execLoadParameters ref record s
  | .loadLine ref first records => Sys2Proof.Machine.execLoadLine ref first records s
  | .loadShelf ref records => Sys2Proof.Machine.execLoadShelf ref records s
  | .loadTreatment ref records => Sys2Proof.Machine.execLoadTreatment ref records s
  | .loadStatemap ref records => Sys2Proof.Machine.execLoadStatemap ref records s
  | .loadProgramme ref records => Sys2Proof.Machine.execLoadProgramme ref records s
  | .loadStep ref records => Sys2Proof.Machine.execLoadStep ref records s
  | .loadLimit ref records => Sys2Proof.Machine.execLoadLimit ref records s
  | .loadSweeprange ref records => Sys2Proof.Machine.execLoadSweeprange ref records s
  | .read ref table index count => Sys2Proof.Machine.execRead ref table index count s
  | .test ref position line programme flags hold wait => Sys2Proof.Machine.execTest ref position line programme flags hold wait s
  | .run ref token programme => Sys2Proof.Machine.execRun ref token programme s
  | .release ref token => Sys2Proof.Machine.execRelease ref token s
  | .cancelStep ref token => Sys2Proof.Machine.execCancelStep ref token s
  | .cancelRun ref token => Sys2Proof.Machine.execCancelRun ref token s
  | .ack ref number => Sys2Proof.Machine.execAck ref number s
  | .clear ref number => Sys2Proof.Machine.execClear ref number s
  | .sweepStart ref => Sys2Proof.Machine.execSweepStart ref s
  | .sweepStop ref => Sys2Proof.Machine.execSweepStop ref s
  | .sweepRate ref increment => Sys2Proof.Machine.execSweepRate ref increment s
  | .summary ref => Sys2Proof.Machine.execSummary ref s
  | .testsetEnable ref set => Sys2Proof.Machine.execTestsetEnable ref set s
  | .testsetDisable ref set => Sys2Proof.Machine.execTestsetDisable ref set s
  | .save ref => Sys2Proof.Machine.execSave ref s
  | .restart ref => Sys2Proof.Machine.execRestart ref s
  | .saveBlockAck => Sys2Proof.Machine.execSaveBlockAck s
  | .saveAckTimeout => Sys2Proof.Machine.execSaveAckTimeout s
  | .saveAnswerPlace => Sys2Proof.Machine.execSaveAnswerPlace s
  | .attentionPlace => Sys2Proof.Machine.execAttentionPlace s
  | .resultPlace => Sys2Proof.Machine.execResultPlace s
  | .ticketNoticePlace => Sys2Proof.Machine.execTicketNoticePlace s
  | .guardNoticePlace => Sys2Proof.Machine.execGuardNoticePlace s
  | .accessOrderPlace owner => Sys2Proof.Machine.execAccessOrderPlace owner s
  | .confirmTimeout owner => Sys2Proof.Machine.execConfirmTimeout owner s
  | .shelfProbeTimer shelf => Sys2Proof.Machine.execShelfProbeTimer shelf s
  | .holdExpiry slot => Sys2Proof.Machine.execHoldExpiry slot s
  | .waitExpiry line => Sys2Proof.Machine.execWaitExpiry line s
  | .linkFrameLeaves link => Sys2Proof.Machine.execLinkFrameLeaves link s
  | .identityReceived link octets => Sys2Proof.Machine.execIdentityReceived link octets s
  | .sampleReceived link octets => Sys2Proof.Machine.execSampleReceived link octets s
  | .identifyAnswerTimeout link => Sys2Proof.Machine.execIdentifyAnswerTimeout link s
  | .silenceProbeTimer link => Sys2Proof.Machine.execSilenceProbeTimer link s
  | .silenceProbeTimeout link => Sys2Proof.Machine.execSilenceProbeTimeout link s
  | .firstTagWaitExpiry link => Sys2Proof.Machine.execFirstTagWaitExpiry link s
  | .sampleTimeout link => Sys2Proof.Machine.execSampleTimeout link s
  | .settleEnd slot => Sys2Proof.Machine.execSettleEnd slot s
  | .lockoutDelayExpiry line => Sys2Proof.Machine.execLockoutDelayExpiry line s
  | .retestDue number => Sys2Proof.Machine.execRetestDue number s
  | .pacingEvent => Sys2Proof.Machine.execPacingEvent s
  | .timeBaseTick => Sys2Proof.Machine.execTimeBaseTick s
  | .markedOctetReceived port octet => Sys2Proof.Machine.execMarkedOctetReceived port octet s

end Sys2Proof.Machine
end

