-- ==== Sys2Proof/Safety.lean ====
section
/-! DEFINITION. What a sound state of the part is, the moments at which a command has its whole effect at once, and what the claims say a
command leaves alone. -/

namespace Sys2Proof.Machine

/-! ### Sound states -/

/-- A ticket's number and counters keep their widths (R112, R114, R123), and it holds at most four last values (R117). -/
structure Ticket.Sound (t : Ticket) : Prop where
  number : 1 ≤ t.number ∧ t.number ≤ 65535
  occurrences : t.occurrences ≤ 255
  reopened : t.reopened ≤ 15
  lastValues : t.lastValues.length ≤ 4
  attempts : ∀ w, t.retest = some w → w.attempts ≤ 3

/-- The ticket table holds at most 256 tickets of different numbers (R111, R114), and the notice list each ticket whose notice is pending,
once (R129). -/
structure Tc.Sound (tc : Tc) : Prop where
  tickets : tc.tickets.length ≤ 256
  counter : 1 ≤ tc.counter ∧ tc.counter ≤ 65535
  numbers : (tc.tickets.map (·.number)).Nodup
  each : ∀ t ∈ tc.tickets, t.Sound
  notices : tc.notices.Nodup
  pending : ∀ n, n ∈ tc.notices ↔ ∃ t ∈ tc.tickets, t.number = n ∧ t.noticePending = true

/-- A shelf's free pairs and failure count keep their ranges (R8, R29). -/
structure ShelfRec.Sound (h : ShelfRec) : Prop where
  freePairs : h.freePairs ≤ 2
  failures : h.failures ≤ 3

/-- A test set's tag, expected index, failure count and identify attempt keep their ranges (R50, R53, R58, R60, R62). -/
structure TestSet.Sound (t : TestSet) : Prop where
  tag : t.tag < 16
  expected : t.expected < 256
  failures : t.failures ≤ 3
  attempt : t.attempt ≤ 3

/-- The open counts are the numbers of counted tickets of each severity (R131), and the token counter keeps its range (R184). -/
structure Oh.Sound (o : Oh) (tickets : List Ticket) : Prop where
  count1 : o.count1 = tickets.countP fun t => decide (t.counts = some 1)
  count2 : o.count2 = tickets.countP fun t => decide (t.counts = some 2)
  count3 : o.count3 = tickets.countP fun t => t.counts.any fun v => decide (v ≠ 1 ∧ v ≠ 2)
  token : 1 ≤ o.tokenCounter ∧ o.tokenCounter ≤ 255

/-- The records the Ticket Controller works on: the ticket table and the open counts, and the canonical form of every table. -/
structure Core.Sound (c : Core) : Prop where
  tc : c.tc.Sound
  oh : c.oh.Sound c.tc.tickets
  shelf : ∀ n, (c.shelf n).Sound
  testSet : ∀ n, (c.testSet n).Sound
  lines : Table.wf {} c.lines = true
  shelves : Table.wf {} c.shelves = true
  sets : Table.wf {} c.sets = true
  groups : Table.wf [] c.gm.members = true

/-- The routine sweep's registers keep their widths (R148–R150). -/
structure Rs.Sound (r : Rs) : Prop where
  accumulator : r.accumulator < 2 ^ 24
  increment : r.increment ≤ 65535
  pendingIncrement : ∀ i, r.pendingIncrement = some i → i ≤ 65535
  passCount : r.passCount < 65536
  ranges : Table.wf {} r.ranges = true

/-- A run is at one of the at most twelve steps of its programme, and has a result of no step but those before it (R68, R72). -/
structure Run.Sound (x : Run) : Prop where
  step : x.step ≤ 12
  results : x.results.length < x.step
  lost : x.lost ≤ 65535

/-- The measurement sequencer's tables, runs and RESULT list (R68–R75, R89). -/
structure Ms.Sound (m : Ms) : Prop where
  results : m.results.length ≤ 64
  programmes : Table.wf none m.programmes = true
  steps : Table.wf none m.steps = true
  limits : Table.wf {} m.limits = true
  runs : Table.wf none m.runs = true
  pendingRuns : Table.wf none m.pendingRuns = true
  programme : ∀ n p, m.programme n = some p → p.count ≤ 12
  run : ∀ b x, Table.get none m.runs b = some x → x.Sound

/-- The access queue's capacity (R22), and the slots' table, pairs and attempt counts (R27, R33). -/
structure Ac.Sound (a : Ac) : Prop where
  queue : a.queue.length ≤ 32
  slots : Table.wf {} a.slots = true
  slot : ∀ b, (Table.get {} a.slots b).attempt ≤ 3 ∧ (Table.get {} a.slots b).pair ≤ 1

/-- The insertion queues' capacity (R167) and the treatment tables. -/
structure Htp.Sound (h : Htp) : Prop where
  up : h.up.insertion.length ≤ 16
  down : h.down.insertion.length ≤ 16
  treatment : Table.wf {} h.treatment = true
  stateMap : Table.wf none h.stateMap = true

/-- The held-order buffer's and the waiting list's capacity (R170, R175). -/
structure Cg.Sound (g : Cg) : Prop where
  held : g.held.length ≤ 8
  waiting : g.waiting.length ≤ 8

/-- A sound state: every collection within the capacity the manual gives it, the registers named above within their ranges, every table in
its canonical form, and the summary record telling the sweep's state and pass count as the sweep has them (R155, R180). -/
structure State.Sound (s : State) : Prop where
  core : s.core.Sound
  rs : s.rs.Sound
  ms : s.ms.Sound
  ac : s.ac.Sound
  htp : s.htp.Sound
  cg : s.cg.Sound
  running : s.core.oh.sweepRunning = s.rs.running
  passCount : s.core.oh.passCount = s.rs.passCount

/-! ### Moments -/

/-- No grant walk is owed and no departure waits to be told: the AC's own marks inside a command are clear. -/
def State.settled (s : State) : Prop := s.ac.walkDue = false ∧ s.ac.departed = false

/-- The current conditions show the shelves, the sets, the slots and the ticket table as they are (R180). -/
structure State.ConditionsShown (s : State) : Prop where
  shelf : s.core.oh.current.shelfSilent = s.core.anyShelfSilent
  testSet : s.core.oh.current.testSetSilent = s.core.anySetSilent
  bus : s.core.oh.current.busFaulted = s.anyFaulted
  table : s.core.oh.current.ticketsFull = decide (256 ≤ s.core.tc.tickets.length)

/-- The reset input is released, nothing is owed, no ORDER is latched, the part is READY and the current conditions are up to date. -/
structure State.Quiet (s : State) : Prop where
  live : s.resetInput = false
  settled : s.settled
  latch : s.htp.latch = none
  ready : s.core.oh.ready = true
  conditions : s.ConditionsShown

/-- A quiet moment at which the OH is ready to take an order (R178). -/
structure State.Takes (s : State) : Prop where
  quiet : s.Quiet
  ohReady : s.ohReady = true

/-! ### What a claim shows of a frame -/

/-- The ANSWER frame to the order command i (R178, R199): station 0, the part's station, the kind, then the order code, the reference,
the result and the data. -/
def State.answerFrame (s : State) (i : Instr) (result : Answer) (data : Octets) : OwnFrame :=
  { octets := highwayFrame 0 s.core.oh.station kindAnswer ((encodeOrder i).take 2 ++ [byte result.code] ++ data) }

/-- The state with one frame more at the end of the UP insertion queue and nothing else changed. -/
def State.withUpFrame (s : State) (f : OwnFrame) : State :=
  { s with htp := { s.htp with up := { s.htp.up with insertion := s.htp.up.insertion ++ [f] } } }

/-- The state with one frame more at the end of the DOWN insertion queue and nothing else changed. -/
def State.withDownFrame (s : State) (f : OwnFrame) : State :=
  { s with htp := { s.htp with down := { s.htp.down with insertion := s.htp.down.insertion ++ [f] } } }

/-- An ACCESS order made ready now: placed when the DOWN queue holds fewer than 16 frames, and otherwise waiting (R28, R167). -/
def State.madeReady (s : State) (op : AccessOp) : Transaction :=
  if s.htp.down.insertion.length < 16 then .placed op none else .waiting op

/-- The ACCESS_CONFIRM of a shelf for an operation on a bus, with DONE or CONTACT_FAULT (R28, R199). -/
def State.confirmFrame (s : State) (shelf : Nat) (op : AccessOp) (bus : Nat) (fault : Bool) : Octets :=
  highwayFrame s.core.oh.station (shelf + 1) kindAccessConfirm [byte op.code, byte bus, if fault then 1 else 0]

/-- A quiet moment at which an ACCESS_CONFIRM can come: the DOWN port hunts, and the station is one that straps or parameters give. -/
structure State.Hears (s : State) : Prop where
  quiet : s.Quiet
  hunting : s.receiver .down = .hunting
  station : 65 ≤ s.core.oh.station ∧ s.core.oh.station ≤ 126

/-- The outstanding order of an owner fails with this command (R28, R29): its confirm timer has run out, or a CONTACT_FAULT comes. -/
def State.fails (s : State) (o : AccessOwner) (op : AccessOp) (shelf bus : Nat) (i : Instr) : Prop :=
  (i = .confirmTimeout o ∧ ∃ due, s.order o = .placed op (some due) ∧ due ≤ s.core.timeMs)
    ∨ (i = .frameEnd .down (s.confirmFrame shelf op bus true) none ∧ s.Hears ∧ ∃ due, s.order o = .placed op due)

/-- A quiet moment at which frame f, a good call-path order for line l and for another station, ends at the UP port (R162, R164). -/
structure State.CallOrder (s : State) (f : Octets) (l : Nat) (seize : Bool) : Prop where
  quiet : s.Quiet
  hunting : s.receiver .up = .hunting
  whole : frameOctets f = f
  good : goodFrame f = true
  other : (f.getD 0 0).toNat ≠ s.core.oh.station
  kind : (f.getD 2 0).toNat < 240
  treatment : (s.htp.entry (f.getD 2 0).toNat).treatment = if seize then .callSeize else .callFree
  line : lineAt (framePayload f) (s.htp.entry (f.getD 2 0).toNat).lineOffset = some l

/-- The RESULT of a request that ends at the AC's word (R88): no step results, class GOOD. -/
def Request.result (r : Request) (bus : Option Nat) (outcome : RunOutcome) : Result :=
  { token := r.token.getD 0, position := r.position.getD 0, line := r.line, bus := bus, cls := r.cls, programme := r.programme,
    outcome := outcome, fault := none, steps := [] }

/-- A line whose access can end with nothing to offer (R11, R16, R18): no LOCKOUT retest waits, no re-offer is owed, and the hit of a
deferred report stays below the threshold. -/
structure State.LineRests (s : State) (l : Nat) : Prop where
  lockout : (s.line l).lockoutStart = none
  reOffer : (s.line l).reOffer = false
  hits : (s.line l).hits + 1 < s.core.oh.params.hitsThreshold
  delay : 0 < s.core.oh.params.lockoutDelay

/-- No ticket wants a retest. -/
def State.noRetests (s : State) : Prop := ∀ k ∈ s.core.tc.tickets, k.retest = none

/-- The record at position n is refused with this answer, and every record before it is taken. -/
def refusedAt {α β : Type} (judge : α → Judged β) (records : List α) (n : Nat) (a : Answer) : Prop :=
  (∃ r, records[n]? = some r ∧ judge r = .error a) ∧ ∀ m < n, ∀ r, records[m]? = some r → ∃ v, judge r = .ok v

/-! ### How a run ends (R81, R82, R105–R108) -/

/-- The value of the last result on a channel that is not VOID (R108). -/
def valueOn (results : List StepResult) (c : Channel) : Option Int :=
  ((results.filter fun y => decide (y.channel = c) && !y.quals.isVoid).getLast?).map (·.value)

/-- A line's trend after a ROUTINE run (R108). -/
def trendAfter (was : Option Nat) (shift : Nat) (results : List StepResult) : Option Nat :=
  match valueOn results .irTg, valueOn results .irRg with
  | some tg, some rg =>
    let m := min 65535 ((min tg rg).toNat / 1000)
    match was with
    | none => some m
    | some w => some (if w ≤ m then w + (m - w) / 2 ^ shift else w - (w - m) / 2 ^ shift)
  | _, _ => was

/-- A channel after a run: FAIL or GOOD when it was checked, else as it was (R105). -/
def verdictAfter (results : List StepResult) (c : Channel) (was : Verdict) : Verdict :=
  if ∃ y ∈ results, y.channel = c ∧ y.verdict = .fail then .fail
  else if ∃ y ∈ results, y.channel = c ∧ y.verdict = .good then .good
  else was

/-- The six channels after a run (R105). -/
def Channels.after (was : Channels) (results : List StepResult) : Channels :=
  { fv := verdictAfter results .fv was.fv
    irTg := verdictAfter results .irTg was.irTg
    irRg := verdictAfter results .irRg was.irRg
    irTr := verdictAfter results .irTr was.irTr
    loop := verdictAfter results .loop was.loop
    cap := verdictAfter results .cap was.cap }

/-- A failing result of a programme's step, with the fault class of that step. -/
def Ms.failsWith (m : Ms) (programme : Nat) (y : StepResult) (f : FaultClass) : Prop :=
  y.verdict = .fail ∧ ∃ p st, m.programme programme = some p ∧ m.stepOf p y.step = some st ∧ st.faultClass = f

/-- The class of a run (R106): that of the failing step of the highest severity, the earliest among equals; GOOD, here `none`, when no
step failed. -/
def Ms.runClassIs (m : Ms) (programme : Nat) (results : List StepResult) (fault : Option FaultClass) : Prop :=
  ∀ f, fault = some f ↔ ∃ before y behind, results = before ++ y :: behind ∧ m.failsWith programme y f
    ∧ (∀ z ∈ before, ∀ g, m.failsWith programme z g → g.severity < f.severity)
    ∧ ∀ z ∈ behind, ∀ g, m.failsWith programme z g → g.severity ≤ f.severity

/-- The outcome of a run that ends by itself (R73, R81). -/
def Ms.outcomeOf (m : Ms) (programme : Nat) (results : List StepResult) : RunOutcome :=
  if m.programme programme = none ∨ ∃ y ∈ results, y.quals.isVoid = true then .incomplete else .complete

/-- Steps 2 to 4 of R82 lead from s to t, for a run of request r on bus b that ends by itself with these results: the line's channels and
trend are moved (R105, R108), the TC is handed the run and DEGRADING beside it (R109, R116), and the RESULT is made (R88). `c` stands for
the records as the TC meets them. -/
def State.runClosed (s t : State) (b : Nat) (r : Request) (programme : Nat) (results : List StepResult) : Prop :=
  ∃ (fault : Option FaultClass) (c : Core), s.ms.runClassIs programme results fault
    ∧ (let p := s.core.oh.params
       let trend := if r.cls = .routine then trendAfter (s.line r.line).trend p.trendShift results else (s.line r.line).trend
       let degrading := decide (r.cls = .routine ∧ (valueOn results .irTg).isSome = true ∧ (valueOn results .irRg).isSome = true
          ∧ p.degradeLevel ≠ 0 ∧ fault = none ∧ trend.any (fun v => decide (v < p.degradeLevel)) = true)
       let handed := c.handOver r (s.ms.outcomeOf programme results) fault results degrading
       c.tc = s.core.tc ∧ c.gm = s.core.gm ∧ c.oh = s.core.oh ∧ c.timeMs = s.core.timeMs
       ∧ (∀ l, c.line l = if l = r.line then { s.line l with channels := (s.line l).channels.after results, trend := trend } else s.line l)
       ∧ t.core.tc = handed.tc ∧ t.core.gm = handed.gm ∧ ∀ l, t.line l = handed.line l)
    ∧ t.ms.results =
        (if (r.cls = .desk ∨ (r.cls = .routine ∧ s.core.oh.params.reportRoutine = true)) ∧ s.ms.results.length < 64 then
          s.ms.results ++ [{ token := r.token.getD 0, position := r.position.getD 0, line := r.line, bus := some b, cls := r.cls,
                             programme := some programme, outcome := s.ms.outcomeOf programme results, fault := fault, steps := results }]
        else s.ms.results)

/-- Step 5 of R82 for the last run of an access: a KEEP access stays as it is with no run, any other is released with cause RUN_END. -/
def State.accessEnds (s t : State) (b : Nat) (r : Request) : Prop :=
  t.run b = none ∧ t.pendingRun b = none
    ∧ if r.keep then t.slot b = s.slot b
      else (t.slot b).state = .releasing ∧ (t.slot b).cause = some .runEnd ∧ (t.slot b).attempt = 1 ∧ (t.slot b).holdDue = none
        ∧ (t.slot b).order = s.madeReady .release ∧ (t.slot b).request = some r ∧ (t.slot b).pair = (s.slot b).pair

/-- The run a slot holds as it enters APPLY of step k of this kind with these results: its counts, accumulators and retry mark are fresh
(R76, R77). -/
def Run.entering (x : Run) (k : Nat) (kind : Kind) (results : List StepResult) (opener : Bool) : Run :=
  { x with
    step := k
    ramp := if kind = .cap then .up else .none
    phase := .apply
    retryUsed := false
    lost := 0
    taken := 0
    settleEnd := none
    working := {}
    held := none
    results := results
    opener := opener }

/-- The result of a VOID step: value 0, verdict NONE, one qualifier (R72). -/
def voidAs (step : Nat) (st : Step) (quals : Quals) : StepResult :=
  { step := step, channel := channelOf st.kind st.pair, value := 0, quals := quals, verdict := .unset }

/-- The steps of a programme between numbers k and j cannot be run on bus b (R76). -/
def State.stepsVoid (s : State) (b : Nat) (p : Programme) (k j : Nat) : Prop :=
  ∀ i, k < i → i < j → ∃ st, s.ms.stepOf p i = some st ∧ s.stepVoid b st = true

/-- The results of the steps between numbers k and j, passed over VOID_RANGE (R76). -/
def Ms.passedOver (m : Ms) (p : Programme) (k j : Nat) : List StepResult :=
  (List.range (j - k - 1)).filterMap fun i => (m.stepOf p (k + 1 + i)).map fun st => voidAs (k + 1 + i) st { voidRange := true }

/-- A run on bus b ends by itself with these results (R75, R81, R82). With no run pending it is closed, the set, if READY, is sent SOURCE
OFF and STREAM off, and the access ends. A pending run starts at once, on the channels as the run has closed them: the first step that can
be run enters APPLY, and with none it is closed in its turn and the access ends. -/
def State.runEnds (s t : State) (b : Nat) (r : Request) (programme : Nat) (results : List StepResult) : Prop :=
  t.ac.queue = s.ac.queue ∧ (∀ k, k ≠ b → t.slot k = s.slot k)
    ∧ (s.pendingRun b = none → s.runClosed t b r programme results ∧ s.accessEnds t b r
        ∧ ((s.testSet b).state = .ready → (t.testSet b).stream = false
            ∧ (t.testSet b).sending.map (·.msg) = (s.testSet b).sending.map (·.msg)
                ++ [.source (((s.testSet b).tag + 1) % 16) .tg .off 0 0 .low .dc, .stream false]))
    ∧ ∀ q p, s.pendingRun b = some q → s.ms.programme q = some p → (s.testSet b).state = .ready →
        ∀ j, 0 < j → s.stepsVoid b p 0 j →
          (∀ st, j ≤ p.count → s.ms.stepOf p j = some st → s.stepVoid b st = false →
            s.runClosed t b r programme results ∧ t.pendingRun b = none ∧ t.slot b = s.slot b
            ∧ t.run b = some
                (({ programme := q, start := (t.line r.line).channels } : Run).entering j st.kind (s.ms.passedOver p 0 j) true))
          ∧ (j = p.count + 1 → ∃ u, s.runClosed u b r programme results ∧ u.runClosed t b r q (s.ms.passedOver p 0 j)
            ∧ s.accessEnds t b r)

/-- What follows the result of step x.step of a run, or its start where x.step is 0 (R76, R80, R81): the steps that cannot be run are
recorded VOID_RANGE, the first that can enters APPLY, and with none left the run ends by itself. -/
def State.stepsFollow (s t : State) (b : Nat) (r : Request) (x : Run) (p : Programme) (results : List StepResult) : Prop :=
  ∀ j, x.step < j → s.stepsVoid b p x.step j →
    (∀ st, j ≤ p.count → s.ms.stepOf p j = some st → s.stepVoid b st = false →
        t.run b = some (x.entering j st.kind (results ++ s.ms.passedOver p x.step j) (!(s.testSet b).stream))
        ∧ (t.testSet b).tag = ((s.testSet b).tag + 1) % 16 ∧ (t.testSet b).stream = true ∧ t.ms.results = s.ms.results
        ∧ t.core.lines = s.core.lines ∧ t.core.tc = s.core.tc ∧ t.ac.queue = s.ac.queue ∧ (∀ k, t.slot k = s.slot k)
        ∧ t.pendingRun b = s.pendingRun b)
    ∧ (j = p.count + 1 → s.runEnds t b r x.programme (results ++ s.ms.passedOver p x.step j))

/-- A sample with the step's tag is taken into the acquisition of run x, which is then x' (R78, R79): the run is in ACQUIRE already, its
settle end is reached, or the sample ends the APPLY of a step with no settle time. -/
def State.acquires (s : State) (x x' : Run) (st : Step) : Prop :=
  let begun := fun y : Run => { y with phase := if y.ramp = .down then .acquireDown else .acquire }
  ((x.phase = .acquire ∨ x.phase = .acquireDown) ∧ x' = x)
    ∨ (x.phase = .settle ∧ (∃ due, x.settleEnd = some due ∧ due ≤ s.core.timeMs) ∧ x' = begun x)
    ∨ (x.phase = .apply ∧ st.settle = 0 ∧ x' = begun { x with settleEnd := some s.core.timeMs })

/-! ### What reaches the Ticket Controller -/

/-- The values a ticket takes from a run (R117). -/
def valuesFrom (results : List StepResult) : List LastValue :=
  let failing := results.filter fun y => decide (y.verdict = .fail)
  ((if failing = [] then results.filter fun y => !y.quals.isVoid else failing).take 4).map fun y =>
    { channel := y.channel, value := y.value, quals := y.quals }

/-- A CONFIRM or VERIFY retest is matched with ticket t (R116), taken as matched only while it is outstanding: the model's choice (log 18).
R116 also matches a retest that its own pre-empted return has made due when idle. -/
def Core.matchedWith (c : Core) (r : Request) (reason : Reason) (t : Ticket) : Prop :=
  r.cls = .retest ∧ r.reason = some reason ∧ r.ticketRef = some t.number ∧ c.ticket t.number = some t ∧ t.kind = .line
    ∧ t.subject = r.line ∧ ∃ w, t.retest = some w ∧ w.reason = reason ∧ w.due = .outstanding

/-- A run, or the DEGRADING report beside it, brings a direct failure of class cls (R109, R116, R119). Which retest is unmatched follows the
model's choice of log 18. -/
def Core.direct (c : Core) (r : Request) (outcome : RunOutcome) (fault : Option FaultClass) (degrading : Bool) (cls : FaultClass) :
    Prop :=
  (degrading = false ∧ fault = some cls ∧ r.cls = .desk ∧ r.ticketFlag = true)
    ∨ (degrading = false ∧ fault = some cls ∧ r.cls = .retest ∧ (r.reason = some .hits ∨ r.reason = some .lockout))
    ∨ (degrading = false ∧ fault = some cls ∧ r.cls = .retest ∧ ∃ reason, (reason = .confirm ∨ reason = .verify)
        ∧ r.reason = some reason ∧ ∀ t, ¬c.matchedWith r reason t)
    ∨ (degrading = false ∧ fault = none ∧ outcome = .complete ∧ r.cls = .retest ∧ r.reason = some .lockout ∧ cls = .permanentLoop)
    ∨ (degrading = true ∧ fault = none ∧ r.cls = .routine ∧ cls = .degrading)

/-- No group of the line's cable stands or is one ticket short of forming (R136, R139). -/
def Core.farFromGroup (c : Core) (l : Nat) : Prop :=
  ∀ key, key / 2 = (c.line l).group → c.groupTicket key = none ∧ (c.qualifying key).length + 1 < c.oh.params.groupThreshold

/-- Ticket n is t after this, and every other ticket stands; its notice has fallen due if `due` (R129). -/
def Core.ticketBecomes (c d : Core) (n : Nat) (t : Ticket) (due : Bool) : Prop :=
  d.ticket n = some { t with noticePending := t.noticePending || due }
    ∧ d.tc.notices = (if due && !t.noticePending then c.tc.notices ++ [n] else c.tc.notices)
    ∧ ∀ m, m ≠ n → d.ticket m = c.ticket m

/-! ### Groups of a cable (R137–R143) -/

/-- Ticket u, created or leaving PROVISIONAL, is adopted by the standing group ticket g (R139): it joins a verification under way, and the
group's notice falls due only where its severity rises. -/
def Core.adopted (c d : Core) (u g : Ticket) : Prop :=
  let rises := decide (g.severity < u.severity)
  d.ticket u.number = some { u with
      parent := some g.number
      state := if g.state = .verifying then .verifying else .opened
      retest := if g.state = .verifying then some { reason := .verify, attempts := 0, due := .dueAt c.now } else none }
    ∧ d.ticket g.number = some { g with
      childCount := g.childCount + 1
      occurrences := min 255 (g.occurrences + 1)
      lastSeen := c.now
      severity := max g.severity u.severity
      noticePending := g.noticePending || rises }
    ∧ d.tc.notices = (if rises && !g.noticePending then c.tc.notices ++ [g.number] else c.tc.notices)
    ∧ ∀ m, m ≠ u.number → m ≠ g.number → d.ticket m = c.ticket m

/-- A group ticket with one child less: with none left it is CLOSING, and wants no retest (R141, R143). -/
def Ticket.childLess (g : Ticket) : Ticket :=
  if g.childCount ≤ 1 then { g with childCount := 0, state := .closing, retest := none } else { g with childCount := g.childCount - 1 }

/-- Child u is released by group ticket g (R141), which has first been shown this severity (R140; 0 is none): the group's notice falls due
when its severity rises or its last child goes, and then the child's own when it is OPEN or ACKNOWLEDGED (their order: log 56). -/
def Core.released (c d : Core) (u g : Ticket) (shown : Nat) : Prop :=
  let told := decide (g.childCount ≤ 1 ∨ g.severity < shown)
  let stands := decide (u.state = .opened ∨ u.state = .acknowledged)
  d.ticket u.number = some { u with parent := none, noticePending := u.noticePending || stands }
    ∧ d.ticket g.number = some { g.childLess with severity := max g.severity shown, noticePending := g.noticePending || told }
    ∧ d.tc.notices = c.tc.notices ++ (if told && !g.noticePending then [g.number] else [])
        ++ (if stands && !u.noticePending then [u.number] else [])
    ∧ ∀ m, m ≠ u.number → m ≠ g.number → d.ticket m = c.ticket m

/-- The tickets of this list become the children of group ticket g, which is told here but for its notice and child count (R137, R138): a
child's notice that waited is not sent, the group's waits, GROUP_FORMED is latched, and every other ticket stands. -/
def Core.gathered (c d : Core) (g : Ticket) (members : List Ticket) : Prop :=
  d.ticket g.number = some { g with noticePending := true, childCount := members.length }
    ∧ (∀ m ∈ members, d.ticket m.number = some { m with parent := some g.number, noticePending := false })
    ∧ d.tc.notices = c.tc.notices.filter (fun n => decide (n ∉ members.map (·.number))) ++ (if g.noticePending then [] else [g.number])
    ∧ d.oh.latch.groupFormed = true
    ∧ ∀ n, n ≠ g.number → n ∉ members.map (·.number) → d.ticket n = c.ticket n

/-! ### The sweep's cursor (R147, R148, R151, R152) -/

/-- A pass ends between s and t, the lines standing before its end as `line` gives them (R148). -/
def State.passEnds (s t : State) (line : Nat → LineRec) : Prop :=
  ∃ k, k ≤ 15 ∧ (s.rs.range k).enabled = true ∧ (∀ j, j < k → (s.rs.range j).enabled = false)
    ∧ t.rs = { s.rs with
        passCount := (s.rs.passCount + 1) % 65536
        cursorRange := k
        cursorLine := (s.rs.range k).first }
    ∧ t.core.oh = { s.core.oh with passCount := (s.rs.passCount + 1) % 65536 } ∧ ∀ l, t.line l = { line l with skipped := false }

/-- The cursor leaves its range between s and t (R147): for the first line of the next enabled range above it, and past the last for the
next pass. -/
def State.rangeLeft (s t : State) (line : Nat → LineRec) : Prop :=
  (∃ k, s.rs.cursorRange < k ∧ k ≤ 15 ∧ (s.rs.range k).enabled = true
      ∧ (∀ j, s.rs.cursorRange < j → j < k → (s.rs.range j).enabled = false)
      ∧ t.rs = { s.rs with cursorRange := k, cursorLine := (s.rs.range k).first } ∧ t.core.oh = s.core.oh ∧ ∀ l, t.line l = line l)
    ∨ ((∀ k, s.rs.cursorRange < k → k ≤ 15 → (s.rs.range k).enabled = false) ∧ s.passEnds t line)

/-- The cursor moves to the position after the one it is at (R147, R148). -/
def State.cursorMoves (s t : State) (line : Nat → LineRec) : Prop :=
  let last := (s.rs.range s.rs.cursorRange).last
  (s.rs.cursorLine < last ∧ t.rs = { s.rs with cursorLine := s.rs.cursorLine + 1 } ∧ t.core.oh = s.core.oh ∧ ∀ l, t.line l = line l)
    ∨ (last ≤ s.rs.cursorLine ∧ s.rangeLeft t line)

/-- Nothing but the sweep, the lines and the OH's record differs. -/
def State.sweepOnly (s t : State) : Prop :=
  ({ t with rs := s.rs, core := { t.core with lines := s.core.lines, oh := s.core.oh } } : State) = s

/-- A scan passes over the position at the cursor (R152): a line that only tests 5 and 6 bar is marked SKIPPED. -/
def State.passesOver (s t : State) : Prop :=
  let l := s.rs.cursorLine
  (s.passedOver l = true ∨ s.busyLine l = true) ∧ s.sweepOnly t
    ∧ s.cursorMoves t fun k => if k = l then { s.line l with skipped := (s.line l).skipped || !s.passedOver l } else s.line k

/-- The cursor is settled against the ranges (R147). -/
def State.cursorSettles (s t : State) : Prop :=
  let g := s.rs.range s.rs.cursorRange
  let n := s.rs.cursorLine
  s.sweepOnly t
    ∧ ((g.enabled = true ∧ n ≤ g.last ∧ t.rs = { s.rs with cursorLine := max g.first n } ∧ t.core.oh = s.core.oh
          ∧ ∀ l, t.line l = s.line l)
      ∨ ((g.enabled = false ∨ g.last < n) ∧ s.rangeLeft t s.line))

end Sys2Proof.Machine
end

