-- ==== Sys2Proof/WellFormed.lean ====
section
/-! DEFINITION. The commands that can come: an ORDER fits its frame and carries as many records as its table allows, and a frame that
ends has octets and is no longer than a frame can be. The meanings answer every other term too. -/

namespace Sys2Proof

/-- As many LOAD records as the record count can say, at least one (R182). -/
def recordCountOk (n : Nat) : Bool := decide (1 ≤ n) && decide (n ≤ 255)

/-- The checks on a command, each one named by the rule it comes from. -/
def Instr.wellFormed (i : Instr) : Bool :=
  decide ((encodeOrder i).length ≤ 120) &&
  match i with
  | .frameEnd _ octets _ => decide (octets ≠ []) && decide (octets.length ≤ 125)
  | .loadLine _ _ rs => decide (1 ≤ rs.length) && decide (rs.length ≤ 24)
  | .loadShelf _ rs => recordCountOk rs.length
  | .loadTreatment _ rs => recordCountOk rs.length
  | .loadStatemap _ rs => recordCountOk rs.length
  | .loadProgramme _ rs => recordCountOk rs.length
  | .loadStep _ rs => recordCountOk rs.length
  | .loadLimit _ rs => recordCountOk rs.length
  | .loadSweeprange _ rs => recordCountOk rs.length
  | .resetAssert | .powerOn .. | .configImageRead .. | .storeReadTimeout | .portFree .. | .loadParameters .. | .read ..
  | .test .. | .run .. | .release .. | .cancelStep .. | .cancelRun .. | .ack .. | .clear .. | .sweepStart .. | .sweepStop ..
  | .sweepRate .. | .summary .. | .testsetEnable .. | .testsetDisable .. | .save .. | .restart .. | .saveBlockAck
  | .saveAckTimeout | .saveAnswerPlace | .attentionPlace | .resultPlace | .ticketNoticePlace | .guardNoticePlace
  | .accessOrderPlace .. | .confirmTimeout .. | .shelfProbeTimer .. | .holdExpiry .. | .waitExpiry ..
  | .linkFrameLeaves .. | .identityReceived .. | .sampleReceived .. | .identifyAnswerTimeout .. | .silenceProbeTimer ..
  | .silenceProbeTimeout .. | .firstTagWaitExpiry .. | .sampleTimeout .. | .settleEnd .. | .lockoutDelayExpiry ..
  | .retestDue .. | .pacingEvent | .timeBaseTick | .markedOctetReceived .. => true

/-- The commands that are ORDERs, by their order code (R203). -/
def Instr.isOrder (i : Instr) : Bool := decide (encodeOrder i ≠ [])

end Sys2Proof
end

