-- ==== Sys2Proof/Certificates/Slice0/Obligations.lean ====
section
/-! DEFINITION. The statements for the provers. Each docstring names the rules the statement comes from; what rests on a choice of the
model says so and names its log entry. -/

open Sys2Proof Sys2Proof.Machine

/-! ### The whole part -/

/-- The queue of commands. The command at the front is executed with the queue's rest; on an empty queue the part idles, which is the
model's choice (log 2). -/
def Obligations.FrontCommandIsExecuted : Prop :=
  (∀ (c : Instr) (rest : List Instr) (s : State), s.pending = c :: rest → step s = exec c { s with pending := rest })
    ∧ ∀ s : State, s.pending = [] → step s = .next s

/-- Every command is answered with a next state, and none touches the queue of commands that wait: the manual gives every command an
effect in every state, and the part never stops (log 29). -/
def Obligations.EveryCommandIsAnswered : Prop :=
  ∀ (c : Instr) (s : State), ∃ t, exec c s = .next t ∧ t.pending = s.pending

/-- The part after reset is sound, and the AC owes nothing. -/
def Obligations.ResetStateIsSound : Prop := State.reset.Sound ∧ State.reset.settled

/-- Every step keeps a sound state sound. It keeps the capacity of the access queue (R22), of a programme and a run's result list (R68, R72),
of the RESULT list (R89), of the ticket table and a ticket's last values (R111, R117), of the notice list, which holds each ticket of notice
pending once (R129), of the insertion queues (R167), and of the held orders and the GUARD waiting list (R170, R175); the range of the ticket
numbers and of a ticket's counters (R112, R114, R123), of the sets' tags, sample indices, failure counts and identify attempts (R50, R58,
R60), of the shelves' pairs and failure counts (R8, R29), of the slots' pairs and attempt counts (R27, R33), of a run's step and lost count
(R72), of the sweep's registers (R148–R150) and of the token counter (R184); the open counts as the numbers of counted tickets (R131); the
canonical form of every table; and the summary record's word of the sweep's state and pass count (R155). -/
def Obligations.StepKeepsSound : Prop :=
  ∀ s t : State, s.Sound → step s = .next t → t.Sound

/-- Each walk is carried out whole (R26), and the TC offers its due retests after every departure (R24, R122): no command leaves a walk or
an offer owing to the next. -/
def Obligations.NothingIsOwedBetweenCommands : Prop :=
  ∀ s t : State, s.settled → step s = .next t → t.settled

/-- Every order that fits its frame is read back from its own payload, with every operand (R199, R201, R203). -/
def Obligations.OrdersDecodeToThemselves : Prop :=
  ∀ i : Instr, i.isOrder = true → i.wellFormed = true → decodeOrder (encodeOrder i) = some i

/-- The power-on values that the manual gives, block by block: the line records (R2–R8), the shelf records (R9), the queue, the slots and the
quota in force (R48), the test sets (R51), the programmes, steps, limit sets, runs and RESULTs (R68–R74, R89), the tickets, the notices and
their counter (R114, R132), the group records (R145), the sweep and its ranges (R146, R156), the receivers, the tables, the pass buffers and
the insertion queues of the ports (R157, R165–R168), the held orders and the GUARD waiting list (R170, R175), the parameters (R179), the
summary (R180) and the token counter (R184). Then POWER_ON: everything at those values, the straps read (R179, R196). That a FREE slot's
pair is 0 is the model's choice (log 27). -/
def Obligations.PowerOnPutsPowerOnValues : Prop :=
  let z := State.reset
  (∀ l, z.line l =
      { group := 127, routineEnabled := false, programme := none, callState := .unknown, hits := 0, hitsStart := none,
        lockoutStart := none, deferred := none, reOffer := false, access := .none,
        channels := { fv := .unset, irTg := .unset, irRg := .unset, irTr := .unset, loop := .unset, cap := .unset }, trend := none,
        ticket := none, unticketed := false, skipped := false })
    ∧ (∀ n, z.shelf n =
      { fitted := false, state := .unfitted, freePairs := 2, failures := 0, ticket := none, order := .idle, probeDue := none })
    ∧ (∀ b, z.slot b = { state := .free, request := none, attempt := 0, cause := none, heldAt := none, order := .idle, pair := 0 }
        ∧ z.run b = none ∧ z.pendingRun b = none)
    ∧ z.ac.queue = [] ∧ z.ac.quotaInForce = 4
    ∧ (∀ n, z.testSet n =
      { state := .probing, type := none, offeredKinds := none, offeredRates := none, agreedKinds := none, agreedRate := none, tag := 0,
        range := .low, stream := false, expected := 0, failures := 0, ticket := none, attempt := 0, samplesSeen := false, sending := [] })
    ∧ (∀ n, z.ms.programme n = none ∧ z.ms.step n = none
        ∧ z.ms.limit n = { unit := .millivolt, low := none, high := none, hysteresis := 0 })
    ∧ z.ms.results = [] ∧ z.core.tc.tickets = [] ∧ z.core.tc.notices = [] ∧ z.core.tc.counter = 1
    ∧ (∀ key, Table.get [] z.core.gm.members key = [])
    ∧ (∀ n, z.rs.range n = { first := 0, last := 8191, enabled := false })
    ∧ z.rs.running = false ∧ z.rs.increment = 0 ∧ z.rs.pendingIncrement = none ∧ z.rs.accumulator = 0 ∧ z.rs.passCount = 0
    ∧ z.rs.cursorRange = 0 ∧ z.rs.cursorLine = 0
    ∧ (∀ n, z.htp.entry n = { treatment := .pass, lineOffset := 0, stateOffset := 0 } ∧ z.htp.mapEntry n = none)
    ∧ z.htp.upReceiver = .hunting ∧ z.htp.downReceiver = .hunting ∧ z.htp.latch = none
    ∧ (∀ port, z.outPort port = { pass := [], insertion := [], strict := false, lastInserted := false, sending := none })
    ∧ z.cg.held = [] ∧ z.cg.waiting = []
    ∧ z.core.oh.params =
        { station := none
          hitsThreshold := 12
          hitsWindow := 60
          lockoutDelay := 15
          lockoutProgramme := 0
          defaultProgramme := 0
          holdLimit := 20
          routineQuota := 4
          maximumRate := .r1000
          enabledKinds := { dcv := true, acv := true, resIns := true, resLoop := true, cap := true }
          reportRoutine := false
          trendShift := 2
          degradeLevel := 0
          confirmDelay := 20
          groupThreshold := 6
          groupWindow := 600 }
    ∧ z.core.oh.count1 = 0 ∧ z.core.oh.count2 = 0 ∧ z.core.oh.count3 = 0 ∧ (∀ f, z.core.oh.latch.has f = false)
    ∧ (∀ f, z.core.oh.current.has f = false) ∧ z.core.oh.sweepRunning = false ∧ z.core.oh.passCount = 0 ∧ z.core.oh.ready = false
    ∧ z.core.oh.attentionSent = false ∧ z.core.oh.waiting = [] ∧ z.core.oh.tokenCounter = 1 ∧ z.core.timeMs = 0
    ∧ ∀ (straps : BitVec 6) (s : State), exec (.powerOn straps) s = .next
        { z with
          pending := s.pending
          straps := straps
          core := { z.core with
            oh := { z.core.oh with station := if straps.toNat = 0 ∨ straps.toNat = 63 then 100 else 64 + straps.toNat } }
          csi := { z.csi with stored := s.csi.stored } }

/-- RESET_ASSERT asserts the reset input, and from then on the part neither receives nor transmits (R157). That every other command but
POWER_ON has no effect meanwhile is the model's choice (log 21). -/
def Obligations.ResetHoldsThePartStill : Prop :=
  (∀ s : State, exec .resetAssert s = .next { s with resetInput := true })
    ∧ ∀ (c : Instr) (s : State), s.resetInput = true → (∀ straps, c ≠ .powerOn straps) → exec c s = .next s

/-! ### Start-up and the store -/

/-- An image that is not valid, or a store that has not answered within 50 ms: the defaults stand, the line, shelf, treatment, measurement
and sweep records among them, CONFIG_DEFAULTED is latched, and start-up goes on with the enumeration of all four links (R195, R196). That
the 50 ms run from the release of reset, and that the part keeps a mark of a store that a save left without its signature, are the model's
choices (log 10). -/
def Obligations.InvalidImageLeavesDefaults : Prop :=
  ∀ s : State, s.resetInput = false → s.settled → s.htp.latch = none → s.csi.imageAwaited = true →
    let defaulted := fun (t : State) => t.core.oh.latch.configDefaulted = true ∧ t.csi.imageAwaited = false
      ∧ t.core.oh.params = s.core.oh.params ∧ t.core.oh.station = s.core.oh.station ∧ t.core.lines = s.core.lines
      ∧ (∀ n, (t.shelf n).fitted = (s.shelf n).fitted) ∧ t.ms = s.ms ∧ t.htp.treatment = s.htp.treatment
      ∧ t.htp.stateMap = s.htp.stateMap ∧ t.rs = s.rs ∧ t.ac.quotaInForce = s.ac.quotaInForce
      ∧ ∀ n ∈ slotNumbers, (t.testSet n).state = .probing ∧ (t.testSet n).attempt = 1
    (∀ octets, s.storeReadable = false ∨ s.loadImage octets = none →
      ∃ t, exec (.configImageRead octets) s = .next t ∧ defaulted t)
    ∧ (50 ≤ s.core.timeMs → ∃ t, exec .storeReadTimeout s = .next t ∧ defaulted t)

/-- A valid image: what its sections put stands afterwards, the sweep's cursor stands at the first line of range 0, every fitted shelf and
every link is probed (R156, R195, R196). The octets an image is read from begin with the signature and the length, and its CRC is true.
That sections may be missing, repeated or in any order is the model's choice (log 24), and so is what of the store the part keeps (log
10). -/
def Obligations.ValidImageIsApplied : Prop :=
  (∀ (s u : State) (octets : Octets), s.resetInput = false → s.settled → s.htp.latch = none → s.csi.imageAwaited = true →
    s.storeReadable = true → s.loadImage octets = some u →
      ∃ t, exec (.configImageRead octets) s = .next t ∧ t.csi.imageAwaited = false ∧ t.core.oh.params = u.core.oh.params
        ∧ t.core.oh.station = u.core.oh.station ∧ t.core.lines = u.core.lines ∧ (∀ n, (t.shelf n).fitted = (u.shelf n).fitted)
        ∧ t.ms = u.ms ∧ t.htp.treatment = u.htp.treatment ∧ t.htp.stateMap = u.htp.stateMap ∧ t.rs = u.rs
        ∧ t.ac.quotaInForce = u.ac.quotaInForce ∧ t.rs.cursorRange = 0 ∧ t.rs.cursorLine = (t.rs.range 0).first
        ∧ (∀ n, (u.shelf n).fitted = true → (t.shelf n).state = .probing)
        ∧ ∀ n ∈ slotNumbers, (t.testSet n).state = .probing ∧ (t.testSet n).attempt = 1)
  ∧ ∀ octets body : Octets, imageBody octets = some body →
      ∃ rest, octets = [0x5C] ++ octets2 (BitVec.ofNat 16 body.length) ++ body
        ++ octets2 (crc16 ([0x5C] ++ octets2 (BitVec.ofNat 16 body.length) ++ body)) ++ rest

/-- SAVE writes the image block by block (R193): the first block clears the signature, each acknowledgement brings the next block, the last
one ends the save with ACCEPTED, and an acknowledgement that does not come within 50 ms ends it with STORE_FAILED; a second SAVE meanwhile
is answered BUSY. The blocks between the first and the last two spell the length and the records in the order of R195. By the model's
choices the 50 ms of an acknowledgement count from the command that begins its block, where R193 counts them from the block's end (log 11),
and the image is cut into one first block, 955 blocks of length and records and two more (log 10). -/
def Obligations.SaveWritesBlockByBlock : Prop :=
  (∀ (ref : Byte) (s : State), s.Takes → s.csi.saving = none → exec (.save ref) s = .next
    { s with csi := { s.csi with
        stored := .invalid
        saving := some { ref := ref, block := 0, octets := [0x00], ackDue := s.core.timeMs + 50 } } })
  ∧ (∀ (ref : Byte) (s : State), s.Takes → s.csi.saving.isSome = true →
      exec (.save ref) s = .next (s.withUpFrame (s.answerFrame (.save ref) .busy [])))
  ∧ (∀ (v : Saving) (s : State), s.Quiet → s.csi.saving = some v → v.block < 957 → exec .saveBlockAck s = .next
    { s with csi := { s.csi with
        saving := some { ref := v.ref, block := v.block + 1, octets := s.saveBlock (v.block + 1), ackDue := s.core.timeMs + 50 } } })
  ∧ (∀ (v : Saving) (s : State), s.Quiet → s.csi.saving = some v → v.block = 957 → exec .saveBlockAck s = .next
    { s with
      csi := { s.csi with stored := .saved, saving := none }
      core := { s.core with oh := { s.core.oh with waiting := s.core.oh.waiting ++ [.saveAnswer v.ref .accepted] } } })
  ∧ (∀ (v : Saving) (s : State), s.Quiet → s.csi.saving = some v → v.ackDue ≤ s.core.timeMs → exec .saveAckTimeout s = .next
    { s with
      csi := { s.csi with saving := none }
      core := { s.core with oh := { s.core.oh with waiting := s.core.oh.waiting ++ [.saveAnswer v.ref .storeFailed] } } })
  ∧ ∀ s : State, s.imageTables.length = 30543
      ∧ (List.range 955).flatMap (fun k => s.saveBlock (k + 1)) = octets2 (BitVec.ofNat 16 30543) ++ s.imageTables
      ∧ s.saveBlock 956 = octets2 (crc16 ([0x5C] ++ octets2 (BitVec.ofNat 16 30543) ++ s.imageTables)) ∧ s.saveBlock 957 = [0x5C]

/-! ### The highway -/

/-- A frame that ends at a port whose receiver was not collecting another is forwarded as it was received when it is defective, or when it
is a good frame for another station whose treatment is PASS, its kind one of the part's own, its treatment one of the other direction, or
its line or state one that cannot be made out; a good frame for another station of treatment DROP is discarded (R158, R161, R162). It takes
its place in the opposite pass buffer, and the strict mark is set when that comes to hold 3 or more (R166, R168). -/
def Obligations.FramesPassOrDrop : Prop :=
  ∀ (port : Port) (f : Octets) (mark : Option Byte) (s : State), s.Quiet → s.receiver port = .hunting → f ≠ [] → frameOctets f = f →
    let other := goodFrame f = true ∧ (f.getD 0 0).toNat ≠ s.core.oh.station
    let kind := (f.getD 2 0).toNat
    let treatment := (s.htp.entry kind).treatment
    let receiver : Receiver := match mark with
      | none => .hunting
      | some m => .receiving [m]
    (goodFrame f = false ∨ (other ∧ (240 ≤ kind ∨ treatment = .pass ∨ (port = .up ∧ treatment = .lineState)
          ∨ (port = .down ∧ (treatment = .callSeize ∨ treatment = .callFree))
          ∨ (port = .down ∧ treatment = .lineState ∧ s.htp.report (s.htp.entry kind) (framePayload f) = none)
          ∨ (port = .up ∧ (treatment = .callSeize ∨ treatment = .callFree)
              ∧ lineAt (framePayload f) (s.htp.entry kind).lineOffset = none))) →
      exec (.frameEnd port f mark) s = .next (match port with
        | .up => { s with htp := { s.htp with
            upReceiver := receiver
            down := { s.htp.down with
              pass := s.htp.down.pass ++ [f], strict := s.htp.down.strict || decide (2 ≤ s.htp.down.pass.length) } } }
        | .down => { s with htp := { s.htp with
            downReceiver := receiver
            up := { s.htp.up with
              pass := s.htp.up.pass ++ [f], strict := s.htp.up.strict || decide (2 ≤ s.htp.up.pass.length) } } }))
    ∧ (other → kind < 240 → treatment = .drop →
      exec (.frameEnd port f mark) s = .next (match port with
        | .up => { s with htp := { s.htp with upReceiver := receiver } }
        | .down => { s with htp := { s.htp with downReceiver := receiver } }))

/-- The order latch holds one ORDER (R160): an ORDER for the part enters the empty latch; with the latch full it is answered BUSY when the UP
queue has a free place, and is gone when it has none. An ORDER that the latch holds and that spells a command is taken by that command as
if the latch were empty, once the OH is ready (R178); that the command stands for the latched ORDER is the model's choice (log 3). -/
def Obligations.LatchTakesOneOrder : Prop :=
  (∀ (f : Octets) (s : State), s.Quiet → s.receiver .up = .hunting → frameOctets f = f → goodFrame f = true →
    (f.getD 0 0).toNat = s.core.oh.station → f.getD 2 0 = kindOrder → (decodeOrder (framePayload f)).isSome = true →
      exec (.frameEnd .up f none) s = .next { s with htp := { s.htp with latch := some f } })
  ∧ (∀ (f held : Octets) (s : State), s.resetInput = false → s.settled → s.core.oh.ready = true → s.ConditionsShown →
    s.htp.latch = some held → (decodeOrder (framePayload held)).isSome = true → s.receiver .up = .hunting → frameOctets f = f →
    goodFrame f = true → (f.getD 0 0).toNat = s.core.oh.station → f.getD 2 0 = kindOrder →
      (14 ≤ s.htp.up.insertion.length → exec (.frameEnd .up f none) s = .next s)
      ∧ ∀ code ref args, framePayload f = code :: ref :: args → s.htp.up.insertion.length < 14 →
          exec (.frameEnd .up f none) s = .next
            (s.withUpFrame { octets := highwayFrame 0 s.core.oh.station kindAnswer [code, ref, byte Answer.busy.code] }))
  ∧ ∀ (i : Instr) (f : Octets) (s : State), i.isOrder = true → s.resetInput = false → s.htp.latch = some f →
      framePayload f = encodeOrder i → s.ohReady = true → exec i s = exec i { s with htp := { s.htp with latch := none } }

/-- While the part is NOT_READY every order taken is answered NOT_READY and has no effect (R178). -/
def Obligations.OrdersAreAnsweredNotReady : Prop :=
  ∀ (i : Instr) (s : State), i.isOrder = true → s.resetInput = false → s.settled → s.htp.latch = none → s.ohReady = true →
    s.ConditionsShown → s.core.oh.ready = false → (s.csi.imageAwaited = true ∨ s.core.startSettled = false) →
      exec i s = .next (s.withUpFrame (s.answerFrame i .notReady []))

/-- A line-state report that passes UP (R10, R12, R161, R163): the frame is forwarded; a report for a line in a live access is deferred, and
any other becomes the line's call state. A report of the line's own call state does nothing more. A change is a hit (R13): it restarts a
window that is absent or older than the hits window, and otherwise adds 1. At the threshold the HITS retest is offered once and the count
goes to 0 in a window from now, with no re-offer owed (R14). A change to LOCKOUT begins an episode, one from it ends it (R15). An owed
re-offer is made at a change to IDLE with the access NONE (R18). The offer is told with no ticket wanting a retest and every fitting slot
taken: accepted, the request waits in the queue; refused, it is dropped. -/
def Obligations.LineStateFrameIsTaken : Prop :=
  ∀ (f : Octets) (l : Nat) (st : CallState) (s : State), s.Quiet → s.receiver .down = .hunting → frameOctets f = f →
    goodFrame f = true → (f.getD 0 0).toNat ≠ s.core.oh.station → (f.getD 2 0).toNat < 240 →
    (s.htp.entry (f.getD 2 0).toNat).treatment = .lineState →
    s.htp.report (s.htp.entry (f.getD 2 0).toNat) (framePayload f) = some (l, st) →
      ∃ t, exec (.frameEnd .down f none) s = .next t ∧ t.htp.up.pass = s.htp.up.pass ++ [f]
        ∧ ((∃ b, (s.line l).access = .inAccess b ∧ s.slotLive b = true) →
            (t.line l).deferred = some st ∧ (t.line l).callState = (s.line l).callState)
        ∧ ((∀ b, (s.line l).access = .inAccess b → s.slotLive b = false) → (t.line l).callState = st
            ∧ (st = (s.line l).callState → t.core.lines = s.core.lines ∧ t.ac = s.ac ∧ t.core.tc = s.core.tc)
            ∧ (st ≠ (s.line l).callState →
              let params := s.core.oh.params
              let fresh : Prop := ∀ start, (s.line l).hitsStart = some start → start + params.hitsWindow < s.now
              let counted := fun (h : Nat) (w : Option Nat) =>
                (h < params.hitsThreshold → (t.line l).hits = h ∧ (t.line l).hitsStart = w
                  ∧ (t.line l).reOffer = ((s.line l).reOffer && !decide (st = .idle ∧ (s.line l).access = .none)))
                ∧ (params.hitsThreshold ≤ h → (t.line l).hits = 0 ∧ (t.line l).hitsStart = some s.now ∧ (t.line l).reOffer = false)
                ∧ (s.noRetests → (∀ b ∈ slotNumbers, ¬((s.slot b).state = .free ∧ (s.testSet b).state = .ready)) →
                    let refused := s.refusal (s.retestRequest l (s.routineProgramme l) .hits none)
                    let owed : Prop := params.hitsThreshold ≤ h
                      ∨ (st = .idle ∧ (s.line l).reOffer = true ∧ (s.line l).access = .none)
                    (owed → refused = none → (t.line l).access = .queued ∧ t.ac.queue.length = s.ac.queue.length + 1
                        ∧ ∃ q ∈ t.ac.queue, q.cls = .retest ∧ q.line = l ∧ q.reason = some .hits ∧ q.wait = 300
                            ∧ q.programme = some ((s.line l).programme.getD params.defaultProgramme))
                    ∧ (¬(owed ∧ refused = none) → t.ac = s.ac ∧ (t.line l).access = (s.line l).access) ∧ t.core.tc = s.core.tc)
              (fresh → counted 1 (some s.now)) ∧ (¬fresh → counted ((s.line l).hits + 1) (s.line l).hitsStart)
              ∧ (t.line l).lockoutStart = (if st = .lockout then some s.now
                  else if (s.line l).callState = .lockout then none else (s.line l).lockoutStart)))

/-- A marked octet begins a frame; the frame it cuts short is defective and goes on its way as it is (R157, R158). A character is a start bit
of 0, the marker, the octet most significant bit first and a stop bit of 1, and the characters of a frame, the first alone marked, are read
back from its bits, however much idle fill follows (R197). The commands carry the octets of characters (log 46). -/
def Obligations.MarkedOctetBeginsAFrame : Prop :=
  (∀ (m : Byte) (s : State), s.Quiet →
    (s.htp.upReceiver = .hunting →
      exec (.markedOctetReceived .up m) s = .next { s with htp := { s.htp with upReceiver := .receiving [m] } })
    ∧ (s.htp.downReceiver = .hunting →
      exec (.markedOctetReceived .down m) s = .next { s with htp := { s.htp with downReceiver := .receiving [m] } })
    ∧ (∀ c, s.htp.upReceiver = .receiving c → c ≠ [] → goodFrame c = false →
      exec (.markedOctetReceived .up m) s = .next { s with htp := { s.htp with
        upReceiver := .receiving [m]
        down := { s.htp.down with
          pass := s.htp.down.pass ++ [c], strict := s.htp.down.strict || decide (2 ≤ s.htp.down.pass.length) } } })
    ∧ ∀ c, s.htp.downReceiver = .receiving c → c ≠ [] → goodFrame c = false →
      exec (.markedOctetReceived .down m) s = .next { s with htp := { s.htp with
        downReceiver := .receiving [m]
        up := { s.htp.up with
          pass := s.htp.up.pass ++ [c], strict := s.htp.up.strict || decide (2 ≤ s.htp.up.pass.length) } } })
  ∧ (∀ (marker : Bool) (octet : Byte), (Character.mk marker octet).bits =
      [false, marker, octet.getLsbD 7, octet.getLsbD 6, octet.getLsbD 5, octet.getLsbD 4, octet.getLsbD 3, octet.getLsbD 2,
        octet.getLsbD 1, octet.getLsbD 0, true])
  ∧ ∀ (first : Byte) (rest : Octets) (n : Nat),
      lineCharacters 0 (frameBits (first :: rest) ++ idleFill n) = ⟨true, first⟩ :: rest.map fun octet => ⟨false, octet⟩

/-- The arbiter's choice as a port becomes free (R168). The frame that was being sent has gone: a passing one leaves the pass buffer, and
the strict mark clears when that is then empty. With the strict mark set the head of the pass buffer goes; else the oldest inserted frame,
if the last sent was PASSING or no frame passes; else the head of the pass buffer; else none. The other port and the blocks stand as they
were, but for the confirm timer of 250 ms that an ACCESS order starts as it leaves (R28). That the timer starts at the end of the order's
frame, where this command stands, is the model's reading (log 13). -/
def Obligations.ArbiterChoosesTheNextFrame : Prop :=
  ∀ (port : Port) (s : State), s.Quiet → ∃ t, exec (.portFree port) s = .next t
    ∧ (let was := s.outPort port
       let pass := if was.sending = some .passing then was.pass.drop 1 else was.pass
       let strict := if was.sending = some .passing then was.strict && decide (2 ≤ was.pass.length) else was.strict
       t.outPort port =
        (if strict = true ∧ pass ≠ [] then
          { pass := pass, insertion := was.insertion, strict := strict, lastInserted := false, sending := some .passing }
        else match was.insertion with
          | f :: rest =>
            if was.lastInserted = false ∨ pass = [] then
              { pass := pass, insertion := rest, strict := strict, lastInserted := true, sending := some (.inserted f) }
            else { pass := pass, insertion := was.insertion, strict := strict, lastInserted := false, sending := some .passing }
          | [] =>
            if pass ≠ [] then { pass := pass, insertion := [], strict := strict, lastInserted := false, sending := some .passing }
            else { pass := pass, insertion := [], strict := strict, lastInserted := was.lastInserted, sending := none }))
    ∧ (match port with
        | .up => t.htp.down = s.htp.down
        | .down => t.htp.up = s.htp.up)
    ∧ (∀ f o op, (s.outPort port).sending = some (.inserted f) → f.owner = some o → s.order o = .placed op none →
        t.order o = .placed op (some (s.core.timeMs + 250)))
    ∧ (∀ f o op, (s.outPort port).sending = some (.inserted f) → f.owner = some o → s.order o = .placed op none →
        Table.wf {} s.core.shelves = true →
        ({ t with htp := s.htp } : State) = s.setOrder o (.placed op (some (s.core.timeMs + 250))))
    ∧ ((∀ f, (s.outPort port).sending = some (.inserted f) → ∀ o op, f.owner = some o → s.order o ≠ .placed op none) →
        ({ t with htp := s.htp } : State) = s)

/-! ### LOAD and READ -/

/-- LOAD PARAMETERS (R179): a record whose station is 0 or 65–126, whose two programmes are 0–31 and whose report-routine octet is 0 or 1 is
clamped field by field and becomes the record, and the station follows it; the ANSWER carries the old station. Any other record is refused
BAD_ARG with position 0 and changes nothing (R182). The codes 0 and 1 of report routine are the model's choice (log 52). What a change sets
off: a raised quota is in force at once, even below the ROUTINE count of the moment (R23; the model's reading, log 38); a lowered one removes
the queued ROUTINE requests that stand last, their lines SKIPPED and with access NONE, and the quota in force becomes the greater of the new
value and the remaining count. With a changed lockout delay each line with a lockout start has the conditions of R16 examined (R19): where
they hold, the start is absent and, with room in the queue, the LOCKOUT retest is queued with the new lockout programme. With changed kinds
each set that has offered kinds has its agreed kinds recomputed and keeps its rate; a READY FULL set whose agreed kinds change is sent AGREE,
a READY set's change begins a grant walk, and no run is interrupted (R56). -/
def Obligations.ParametersAreLoaded : Prop :=
  ∀ (ref : Byte) (r : ParametersArg) (s : State), s.Takes → s.csi.saving = none →
    let ok := (r.station = 0 ∨ (65 ≤ r.station.toNat ∧ r.station.toNat ≤ 126)) ∧ r.lockoutProgramme.toNat ≤ 31
      ∧ r.defaultProgramme.toNat ≤ 31 ∧ r.reportRoutine.toNat ≤ 1
    (ok → ∃ t, exec (.loadParameters ref r) s = .next t
      ∧ t.core.oh.params =
        { station := if r.station = 0 then none else some r.station.toNat
          hitsThreshold := max 4 (min 64 r.hitsThreshold.toNat)
          hitsWindow := max 10 (min 300 r.hitsWindow.toNat)
          lockoutDelay := max 5 (min 120 r.lockoutDelay.toNat)
          lockoutProgramme := r.lockoutProgramme.toNat
          defaultProgramme := r.defaultProgramme.toNat
          holdLimit := max 5 (min 60 r.holdLimit.toNat)
          routineQuota := max 1 (min 8 r.routineQuota.toNat)
          maximumRate := if 1000 ≤ r.maximumRate.toNat then .r1000 else if 500 ≤ r.maximumRate.toNat then .r500 else .r250
          enabledKinds :=
            { dcv := r.enabledKinds.getLsbD 0, acv := r.enabledKinds.getLsbD 1, resIns := r.enabledKinds.getLsbD 2,
              resLoop := r.enabledKinds.getLsbD 3, cap := r.enabledKinds.getLsbD 4 }
          reportRoutine := decide (r.reportRoutine = 1)
          trendShift := min 7 r.trendShift.toNat
          degradeLevel := r.degradeLevel.toNat
          confirmDelay := max 5 (min 120 r.confirmDelay.toNat)
          groupThreshold := max 2 (min 32 r.groupThreshold.toNat)
          groupWindow := max 60 (min 3600 r.groupWindow.toNat) }
      ∧ t.core.oh.station = (if r.station = 0 then (if s.straps.toNat = 0 ∨ s.straps.toNat = 63 then 100 else 64 + s.straps.toNat)
          else r.station.toNat)
      ∧ t.htp.up.insertion = s.htp.up.insertion ++ [s.answerFrame (.loadParameters ref r) .accepted []]
      ∧ t.ms.programmes = s.ms.programmes ∧ t.ms.steps = s.ms.steps ∧ t.ms.limits = s.ms.limits ∧ t.rs = s.rs ∧ t.csi = s.csi
      ∧ t.htp.treatment = s.htp.treatment ∧ t.htp.stateMap = s.htp.stateMap
      ∧ (let was := s.core.oh.params
         let new := t.core.oh.params
         let routine := s.ac.queue.filter fun q => decide (q.cls = .routine)
         let removed := min routine.length (s.routineCount - new.routineQuota)
         let due := fun l => ∃ start, (s.line l).lockoutStart = some start ∧ (s.line l).callState = .lockout
           ∧ start + new.lockoutDelay ≤ s.now ∧ (s.line l).access = .none
         let unfit := ∀ b ∈ slotNumbers, ¬((s.slot b).state = .free ∧ (s.testSet b).state = .ready)
         let agrees := fun n => (s.testSet n).offeredKinds.map fun k => k.inter new.enabledKinds
         let reagreed := fun n => was.enabledKinds ≠ new.enabledKinds ∧ (s.testSet n).offeredKinds ≠ none
           ∧ (s.testSet n).agreedKinds ≠ agrees n
         (was.routineQuota = new.routineQuota → t.ac.quotaInForce = s.ac.quotaInForce)
         ∧ (was.routineQuota < new.routineQuota → t.ac.quotaInForce = new.routineQuota)
         ∧ (new.routineQuota < was.routineQuota → t.ac.quotaInForce = max new.routineQuota (s.routineCount - removed)
            ∧ (s.noRetests → unfit → was.lockoutDelay = new.lockoutDelay → s.ac.queue.Nodup → (∀ l, (s.line l).lockoutStart = none) →
                t.ac.slots = s.ac.slots
                ∧ t.ac.queue.filter (fun q => decide (q.cls = .routine)) = routine.take (routine.length - removed)
                ∧ t.ac.queue.filter (fun q => decide (q.cls ≠ .routine)) = s.ac.queue.filter (fun q => decide (q.cls ≠ .routine))
                ∧ ∀ l, t.line l = if ∃ q ∈ routine.drop (routine.length - removed), q.line = l
                    then { s.line l with access := .none, skipped := true } else s.line l))
         ∧ (was.lockoutDelay = new.lockoutDelay → was.routineQuota ≤ new.routineQuota → ∀ l,
              (t.line l).lockoutStart = (s.line l).lockoutStart)
         ∧ (was.lockoutDelay ≠ new.lockoutDelay → was.routineQuota ≤ new.routineQuota → s.noRetests → Table.wf {} s.core.lines = true →
              (∀ q ∈ s.ac.queue, (s.line q.line).access ≠ .none) →
              (∀ l, (due l → (t.line l).lockoutStart = none) ∧ (¬due l → (t.line l).lockoutStart = (s.line l).lockoutStart))
              ∧ (unfit → s.ac.queue.length + (s.core.lines.countP fun e => e.2.lockoutStart.isSome) ≤ 32 → ∀ l, due l →
                  (s.shelf (shelfOf l)).state ≠ .unfitted → (s.shelf (shelfOf l)).state ≠ .silent →
                    (t.line l).access = .queued ∧ ∃ q ∈ t.ac.queue, q.cls = .retest ∧ q.line = l ∧ q.reason = some .lockout
                      ∧ q.programme = some new.lockoutProgramme ∧ q.wait = 300))
         ∧ (∀ b, t.run b = s.run b) ∧ t.ms.results = s.ms.results
         ∧ (∀ n ∈ slotNumbers, (¬reagreed n → t.testSet n = s.testSet n)
            ∧ (reagreed n → ∀ rate, (s.testSet n).agreedRate = some rate →
                t.testSet n = { s.testSet n with
                  agreedKinds := agrees n
                  sending := (s.testSet n).sending ++ if (s.testSet n).state = .ready ∧ (s.testSet n).type = some .full
                    then [{ msg := .agree rate ((agrees n).getD {}), timed := false }] else [] }))
         ∧ (∀ q b, was.lockoutDelay = new.lockoutDelay → was.routineQuota ≤ new.routineQuota → s.noRetests → s.ac.queue = [q] →
              s.grantable q = true → (∃ n ∈ slotNumbers, reagreed n ∧ (s.testSet n).state = .ready) → b ∈ slotNumbers →
              (∀ k ∈ slotNumbers, k ≤ b → (k = b ↔ (s.slot k).state = .free ∧ (s.testSet k).state = .ready
                ∧ ∃ kinds, (t.testSet k).agreedKinds = some kinds ∧ kinds.contains q.kinds = true)) →
                (t.slot b).state = .seizing ∧ (t.slot b).request = some { q with waitDue := none } ∧ t.ac.queue = [])))
    ∧ (¬ok → exec (.loadParameters ref r) s = .next (s.withUpFrame (s.answerFrame (.loadParameters ref r) .badArg [0])))

/-- LOAD LINE (R2, R182): 1 to 24 records, with groups 0–127, routine-enabled 0 or 1 and routine programmes 0–31 or DEFAULT, for lines
within 0–8191, replace the configuration part of their lines and of no other. The codes 0 and 1 of routine-enabled are the model's choice
(log 52). -/
def Obligations.LinesAreLoaded : Prop :=
  ∀ (ref : Byte) (first : BitVec 16) (records : List LineArg) (s : State), s.Takes → s.csi.saving = none → 1 ≤ records.length →
    records.length ≤ 24 → first.toNat + records.length ≤ 8192 →
    (∀ r ∈ records, r.group.toNat ≤ 127 ∧ r.routineEnabled.toNat ≤ 1 ∧ (r.programme.toNat ≤ 31 ∨ r.programme = 0xFF)) →
      ∃ t, exec (.loadLine ref first records) s = .next t
        ∧ (∀ k r, records[k]? = some r →
            (t.line (first.toNat + k)).group = r.group.toNat
            ∧ (t.line (first.toNat + k)).routineEnabled = decide (r.routineEnabled = 1)
            ∧ (t.line (first.toNat + k)).programme = (if r.programme = 0xFF then none else some r.programme.toNat))
        ∧ (∀ l, (l < first.toNat ∨ first.toNat + records.length ≤ l) →
            (t.line l).group = (s.line l).group ∧ (t.line l).routineEnabled = (s.line l).routineEnabled
            ∧ (t.line l).programme = (s.line l).programme)
        ∧ (∀ l, (t.line l).callState = (s.line l).callState ∧ (t.line l).access = (s.line l).access
            ∧ (t.line l).channels = (s.line l).channels ∧ (t.line l).trend = (s.line l).trend)
        ∧ t.htp.up.insertion = s.htp.up.insertion ++ [s.answerFrame (.loadLine ref first records) .accepted []]
        ∧ t.ms = s.ms ∧ t.ac = s.ac ∧ t.rs = s.rs ∧ t.cg = s.cg ∧ t.csi = s.csi

/-- LOAD SHELF (R9, R34, R37): a shelf newly fitted goes PROBING with its first RELEASE_ALL made ready, a fitted shelf no longer fitted is
retired to UNFITTED with two free pairs, and a shelf whose fitted field stands as asked is left alone. Retirement ends the queued requests
for the shelf's lines and takes every slot off it: their lines are NONE, their runs gone, their held orders are in the DOWN pass buffer, and
the RESULTs SHELF_SILENT of DESK requests are made; with no other request to grant, the slots are FREE. With no access of the shelf's in
progress, its SHELF ticket and the BUS tickets of its FAULTED slots are CLOSING (R128). By the model's reading a SEIZING slot's RESULT
carries its bus (log 41), and the codes 0 and 1 of fitted are its choice (log 52). That no request of the shelf's lines is queued after,
and that a slot's line stays NONE, rests on its choice that the shelf is UNFITTED before those lines make their offers (log 59). -/
def Obligations.ShelfIsProbedOrRetired : Prop :=
  ∀ (ref : Byte) (r : ShelfArg) (s : State), s.Takes → s.csi.saving = none → r.shelf.toNat ≤ 63 →
    (r.fitted = 1 → (s.shelf r.shelf.toNat).fitted = false →
      ∃ t, exec (.loadShelf ref [r]) s = .next t ∧ (t.shelf r.shelf.toNat).fitted = true
        ∧ (t.shelf r.shelf.toNat).state = .probing ∧ (t.shelf r.shelf.toNat).failures = 0
        ∧ (t.shelf r.shelf.toNat).order = (if s.downFree then .placed .releaseAll none else .waiting .releaseAll)
        ∧ t.htp.up.insertion = s.htp.up.insertion ++ [s.answerFrame (.loadShelf ref [r]) .accepted []]
        ∧ t.ms = s.ms ∧ t.ac = s.ac ∧ t.core.lines = s.core.lines ∧ t.rs = s.rs ∧ t.cg = s.cg)
    ∧ (r.fitted = 0 → (s.shelf r.shelf.toNat).fitted = true →
      ∃ t, exec (.loadShelf ref [r]) s = .next t ∧ (t.shelf r.shelf.toNat).fitted = false
        ∧ (t.shelf r.shelf.toNat).state = .unfitted ∧ (t.shelf r.shelf.toNat).freePairs = 2
        ∧ (t.shelf r.shelf.toNat).failures = 0 ∧ (t.shelf r.shelf.toNat).order = .idle
        ∧ t.htp.up.insertion = s.htp.up.insertion ++ [s.answerFrame (.loadShelf ref [r]) .accepted []]
        ∧ (let n := r.shelf.toNat
           let on := fun b : Nat => (s.slot b).state ≠ .free ∧ (s.slot b).line.map shelfOf = some n
           (∀ q ∈ t.ac.queue, shelfOf q.line ≠ n) ∧ (∀ q ∈ s.ac.queue, shelfOf q.line = n → (t.line q.line).access = .none)
           ∧ (∀ b ∈ slotNumbers, on b → ∀ l, (s.slot b).line = some l → (t.line l).access = .none)
           ∧ (∀ b ∈ slotNumbers, on b → (s.slot b).state.live = true → t.run b = none ∧ t.pendingRun b = none)
           ∧ (s.noRetests → (∀ q ∈ s.ac.queue, shelfOf q.line = n) → ∀ b ∈ slotNumbers, on b →
                (t.slot b).state = .free ∧ (t.slot b).request = none ∧ (t.slot b).order = .idle)
           ∧ (∀ h ∈ s.cg.held, (∃ b ∈ slotNumbers, on b ∧ (s.slot b).line = some h.line) →
                h.frame ∈ t.htp.down.pass ∧ ∀ k ∈ t.cg.held, k.line ≠ h.line)
           ∧ (s.Sound → s.ms.results.length ≤ 28 →
                (∀ q ∈ s.ac.queue, shelfOf q.line = n → q.cls = .desk → q.result none .shelfSilent ∈ t.ms.results)
                ∧ ∀ b ∈ slotNumbers, ∀ q, on b → ((s.slot b).state = .seizing ∨ (s.slot b).state = .held) → s.run b = none →
                    (s.slot b).ended = false → (s.slot b).request = some q → q.cls = .desk →
                      q.result (some b) .shelfSilent ∈ t.ms.results)
           ∧ (s.Sound → s.noRetests → (∀ q ∈ s.ac.queue, shelfOf q.line ≠ n) →
                (∀ b ∈ slotNumbers, on b → (s.slot b).state = .faulted) →
                (∀ m k, (s.shelf n).ticket = some m → s.core.ticket m = some k → k.kind = .shelf → k.parent = none →
                  k.state.standing = true → t.core.ticket m = some { k with state := .closing, noticePending := true }
                    ∧ m ∈ t.core.tc.notices)
                ∧ ∀ b ∈ slotNumbers, on b → ∀ k, s.core.tc.tickets.find? (fun u => decide (u.kind = .bus ∧ u.subject = b)) = some k →
                    k.parent = none → k.state.standing = true →
                      t.core.ticket k.number = some { k with state := .closing, noticePending := true }
                        ∧ k.number ∈ t.core.tc.notices)))
    ∧ (r.fitted.toNat ≤ 1 → decide (r.fitted = 1) = (s.shelf r.shelf.toNat).fitted → Table.wf {} s.core.shelves = true →
      exec (.loadShelf ref [r]) s = .next (s.withUpFrame (s.answerFrame (.loadShelf ref [r]) .accepted [])))

/-- LOAD TREATMENT, LOAD STATEMAP and LOAD SWEEPRANGE (R146, R165, R182): good records replace their entries, the later of two for one
entry standing, and nothing else changes but for the ANSWER. The codes 0 and 1 of a range's enabled are the model's choice (log 52). -/
def Obligations.TreatmentsStatesAndRangesAreLoaded : Prop :=
  (∀ (ref : Byte) (records : List TreatmentArg) (s : State), s.Takes → s.csi.saving = none → records ≠ [] →
    (∀ r ∈ records, r.treatment.toNat ≤ 4 ∧ r.lineOffset.toNat ≤ 118 ∧ r.stateOffset.toNat ≤ 119) →
      ∃ t, exec (.loadTreatment ref records) s = .next t
        ∧ (∀ k, match records.reverse.find? (fun r => decide (r.kind.toNat = k)) with
            | some r => (t.htp.entry k).treatment.code = r.treatment.toNat ∧ (t.htp.entry k).lineOffset = r.lineOffset.toNat
                ∧ (t.htp.entry k).stateOffset = r.stateOffset.toNat
            | none => t.htp.entry k = s.htp.entry k)
        ∧ ({ t with htp := { t.htp with treatment := s.htp.treatment } } : State)
            = s.withUpFrame (s.answerFrame (.loadTreatment ref records) .accepted []))
  ∧ (∀ (ref : Byte) (records : List StatemapArg) (s : State), s.Takes → s.csi.saving = none → records ≠ [] →
    (∀ r ∈ records, r.index.toNat ≤ 15 ∧ ((1 ≤ r.callState.toNat ∧ r.callState.toNat ≤ 5) ∨ r.callState.toNat = 15)) →
      ∃ t, exec (.loadStatemap ref records) s = .next t
        ∧ (∀ k, match records.reverse.find? (fun r => decide (r.index.toNat = k)) with
            | some r => (t.htp.mapEntry k).map (·.code) = (if r.callState.toNat = 15 then none else some r.callState.toNat)
            | none => t.htp.mapEntry k = s.htp.mapEntry k)
        ∧ ({ t with htp := { t.htp with stateMap := s.htp.stateMap } } : State)
            = s.withUpFrame (s.answerFrame (.loadStatemap ref records) .accepted []))
  ∧ ∀ (ref : Byte) (records : List SweepRangeArg) (s : State), s.Takes → s.csi.saving = none → records ≠ [] →
    (∀ r ∈ records, r.range.toNat ≤ 15 ∧ r.first.toNat ≤ r.last.toNat ∧ r.last.toNat ≤ 8191 ∧ r.enabled.toNat ≤ 1) →
      ∃ t, exec (.loadSweeprange ref records) s = .next t
        ∧ (∀ k, t.rs.range k = match records.reverse.find? (fun r => decide (r.range.toNat = k)) with
            | some r => { first := r.first.toNat, last := r.last.toNat, enabled := decide (r.enabled = 1) }
            | none => s.rs.range k)
        ∧ ({ t with rs := { t.rs with ranges := s.rs.ranges } } : State)
            = s.withUpFrame (s.answerFrame (.loadSweeprange ref records) .accepted [])

/-- LOAD STEP, LOAD PROGRAMME and LOAD LIMIT of one record (R68–R71): a step that no run or pending run uses is clamped and stands in its
record, or empties it when no programme names it, whatever the other fields of that record, which are not read: the model's choice (log
58). A programme of loaded steps that no run uses stands in its own; a limit set with its limits in order stands in its own. The entries
of other numbers, and everything else but the ANSWER, are unchanged. -/
def Obligations.MeasurementTablesAreLoaded : Prop :=
  (∀ (ref : Byte) (r : StepArg) (s : State), s.Takes → s.csi.saving = none → s.stepInUse r.step.toNat = false →
    r.kind.toNat ≤ 4 → r.leadPair.toNat ≤ 2 → (r.limitSet.toNat ≤ 63 ∨ r.limitSet = 0xFF) →
    (1 ≤ r.faultClass.toNat ∧ r.faultClass.toNat ≤ 8) → r.onFail.toNat ≤ 1 →
      ∃ t, exec (.loadStep ref [r]) s = .next t
        ∧ (∃ st, t.ms.step r.step.toNat = some st ∧ st.kind.code = r.kind.toNat ∧ st.pair.code = r.leadPair.toNat
            ∧ st.level = max (-150000) (min 150000 r.level.toInt) ∧ st.slope = max 1 (min 100 r.slope.toNat)
            ∧ st.settle = min 2000 r.settle.toNat ∧ st.samples = max 1 (min 256 r.sampleCount.toNat)
            ∧ st.limitSet = (if r.limitSet = 0xFF then none else some r.limitSet.toNat) ∧ st.faultClass.code = r.faultClass.toNat
            ∧ (st.onFail = .finish ↔ r.onFail = 1))
        ∧ (∀ k, k ≠ r.step.toNat → t.ms.step k = s.ms.step k)
        ∧ ({ t with ms := { t.ms with steps := s.ms.steps } } : State)
            = s.withUpFrame (s.answerFrame (.loadStep ref [r]) .accepted []))
  ∧ (∀ (ref : Byte) (r : StepArg) (s : State), s.Takes → s.csi.saving = none → s.stepInUse r.step.toNat = false → r.kind = 0xFF →
    s.ms.stepNamed r.step.toNat = false →
      ∃ t, exec (.loadStep ref [r]) s = .next t ∧ t.ms.step r.step.toNat = none
        ∧ (∀ k, k ≠ r.step.toNat → t.ms.step k = s.ms.step k)
        ∧ ({ t with ms := { t.ms with steps := s.ms.steps } } : State)
            = s.withUpFrame (s.answerFrame (.loadStep ref [r]) .accepted []))
  ∧ (∀ (ref : Byte) (r : ProgrammeArg) (s : State), s.Takes → s.csi.saving = none → r.programme.toNat ≤ 31 →
    r.programme.toNat ∉ s.programmesInUse →
    (∀ k, k < min 12 r.stepCount.toNat → r.firstStep.toNat + k ≤ 255 ∧ (s.ms.step (r.firstStep.toNat + k)).isSome = true) →
      ∃ t, exec (.loadProgramme ref [r]) s = .next t
        ∧ t.ms.programme r.programme.toNat = (if r.stepCount = 0 then none
            else some { first := r.firstStep.toNat, count := min 12 r.stepCount.toNat })
        ∧ (∀ k, k ≠ r.programme.toNat → t.ms.programme k = s.ms.programme k)
        ∧ ({ t with ms := { t.ms with programmes := s.ms.programmes } } : State)
            = s.withUpFrame (s.answerFrame (.loadProgramme ref [r]) .accepted []))
  ∧ ∀ (ref : Byte) (r : LimitArg) (s : State), s.Takes → s.csi.saving = none → r.limitSet.toNat ≤ 63 → r.unit.toNat ≤ 2 →
    (r.low = 0xFFFFFFFF ∨ r.high = 0xFFFFFFFF ∨ min 999999999 r.low.toNat ≤ min 999999999 r.high.toNat) →
      ∃ t, exec (.loadLimit ref [r]) s = .next t
        ∧ (t.ms.limit r.limitSet.toNat).unit.code = r.unit.toNat
        ∧ (t.ms.limit r.limitSet.toNat).low = (if r.low = 0xFFFFFFFF then none else some (min 999999999 r.low.toNat))
        ∧ (t.ms.limit r.limitSet.toNat).high = (if r.high = 0xFFFFFFFF then none else some (min 999999999 r.high.toNat))
        ∧ (t.ms.limit r.limitSet.toNat).hysteresis = min 50 r.hysteresis.toNat
        ∧ (∀ k, k ≠ r.limitSet.toNat → t.ms.limit k = s.ms.limit k)
        ∧ ({ t with ms := { t.ms with limits := s.ms.limits } } : State)
            = s.withUpFrame (s.answerFrame (.loadLimit ref [r]) .accepted [])

/-- LOAD is all or nothing (R182): when a record is refused none is applied, and the ANSWER carries the refusal of the first refused record
and its position. A step or a programme that a run uses is refused IN_USE (R71). While a save is under way LOAD is answered BUSY. That a
LINE record for a line beyond 8191 is refused BAD_ARG at its own position is the model's choice (log 19). -/
def Obligations.LoadIsAllOrNothing : Prop :=
  ∀ (ref : Byte) (n : Nat) (a : Answer) (s : State), s.Takes →
    (s.csi.saving = none →
      (∀ first records, records.length ≤ 24 → refusedAt judgeNumberedLine (numberedLines first records) n a →
        exec (.loadLine ref first records) s = .next (s.withUpFrame (s.answerFrame (.loadLine ref first records) a [byte n])))
      ∧ (∀ records, refusedAt judgeShelf records n a →
        exec (.loadShelf ref records) s = .next (s.withUpFrame (s.answerFrame (.loadShelf ref records) a [byte n])))
      ∧ (∀ records, refusedAt judgeTreatment records n a →
        exec (.loadTreatment ref records) s = .next (s.withUpFrame (s.answerFrame (.loadTreatment ref records) a [byte n])))
      ∧ (∀ records, refusedAt judgeStatemap records n a →
        exec (.loadStatemap ref records) s = .next (s.withUpFrame (s.answerFrame (.loadStatemap ref records) a [byte n])))
      ∧ (∀ records, refusedAt s.judgeProgramme records n a →
        exec (.loadProgramme ref records) s = .next (s.withUpFrame (s.answerFrame (.loadProgramme ref records) a [byte n])))
      ∧ (∀ records, refusedAt s.judgeStep records n a →
        exec (.loadStep ref records) s = .next (s.withUpFrame (s.answerFrame (.loadStep ref records) a [byte n])))
      ∧ (∀ records, refusedAt judgeLimit records n a →
        exec (.loadLimit ref records) s = .next (s.withUpFrame (s.answerFrame (.loadLimit ref records) a [byte n])))
      ∧ (∀ records, refusedAt judgeSweepRange records n a →
        exec (.loadSweeprange ref records) s = .next (s.withUpFrame (s.answerFrame (.loadSweeprange ref records) a [byte n])))
      ∧ (∀ r : StepArg, s.stepInUse r.step.toNat = true → s.judgeStep r = .error .inUse)
      ∧ (∀ r : ProgrammeArg, r.programme.toNat ≤ 31 → r.programme.toNat ∈ s.programmesInUse → s.judgeProgramme r = .error .inUse))
    ∧ (s.csi.saving.isSome = true →
      (∀ r, exec (.loadParameters ref r) s = .next (s.withUpFrame (s.answerFrame (.loadParameters ref r) .busy [])))
      ∧ (∀ first records, 1 ≤ records.length → records.length ≤ 24 →
        exec (.loadLine ref first records) s = .next (s.withUpFrame (s.answerFrame (.loadLine ref first records) .busy [])))
      ∧ (∀ records, records ≠ [] →
        exec (.loadShelf ref records) s = .next (s.withUpFrame (s.answerFrame (.loadShelf ref records) .busy [])))
      ∧ (∀ records, records ≠ [] →
        exec (.loadTreatment ref records) s = .next (s.withUpFrame (s.answerFrame (.loadTreatment ref records) .busy [])))
      ∧ (∀ records, records ≠ [] →
        exec (.loadStatemap ref records) s = .next (s.withUpFrame (s.answerFrame (.loadStatemap ref records) .busy [])))
      ∧ (∀ records, records ≠ [] →
        exec (.loadProgramme ref records) s = .next (s.withUpFrame (s.answerFrame (.loadProgramme ref records) .busy [])))
      ∧ (∀ records, records ≠ [] →
        exec (.loadStep ref records) s = .next (s.withUpFrame (s.answerFrame (.loadStep ref records) .busy [])))
      ∧ (∀ records, records ≠ [] →
        exec (.loadLimit ref records) s = .next (s.withUpFrame (s.answerFrame (.loadLimit ref records) .busy [])))
      ∧ ∀ records, records ≠ [] →
        exec (.loadSweeprange ref records) s = .next (s.withUpFrame (s.answerFrame (.loadSweeprange ref records) .busy [])))

/-- READ changes nothing but for its ANSWER, which carries the records, or BAD_ARG for an index outside its table (R183). The octets of
every table are spelled: the table's code, the number of records, and the records as R201 lays them out, and for TICKET as R199 does. The
order of a SLOT record's fields is the list's (log 9), which shows of a run's results their number (log 43), and a TICKET shows no notice
pending (log 45); that table code 14 and record count 1 go before it is the model's choice (log 57). The yes/no fields are 1 for yes and 0
for no (log 52). Octets that no rule states are any (log 8): the fields of an empty STEP or PROGRAMME record, the desk position of a
request that has none, and what an absent retest and a due condition of no time show. -/
def Obligations.ReadTellsTheRecords : Prop :=
  let two := fun n : Nat => octets2 (BitVec.ofNat 16 n)
  let four := fun n : Nat => octets4 (BitVec.ofNat 32 n)
  let on := fun b : Bool => if b then (1 : Byte) else 0
  let bit := fun (weight : Nat) (b : Bool) => if b then weight else 0
  let opt := fun (absent : Nat) (v : Option Nat) => byte (v.getD absent)
  let kinds := fun k : KindSet =>
    byte (bit 1 k.dcv + bit 2 k.acv + bit 4 k.resIns + bit 8 k.resLoop + bit 16 k.cap)
  let rates := fun r : RateSet => byte (bit 1 r.r1000 + bit 2 r.r500 + bit 4 r.r250)
  let quals := fun q : Quals => byte (bit 1 q.openCircuit + bit 2 q.reverse + bit 4 q.overrange + bit 8 q.voidLoss + bit 16 q.voidRange
    + bit 32 q.voidSkipped)
  let request := fun (r : Request) (position : Byte) => ([byte r.cls.code] : Octets) ++ two r.line
    ++ [opt 0xFF r.programme, kinds r.kinds, opt 0 r.token, position, byte (bit 1 r.force + bit 2 r.keep + bit 4 r.ticketFlag)]
    ++ two r.hold ++ two r.wait ++ four r.entry ++ [opt 0xFF (r.reason.map (·.code))] ++ two (r.ticketRef.getD 0)
  (∀ (ref : Byte) (table : ReadTable) (index : BitVec 16) (count : Byte) (s : State), s.Takes →
    exec (.read ref table index count) s = .next (s.withUpFrame (match s.readData table index.toNat count.toNat with
      | some data => s.answerFrame (.read ref table index count) .accepted data
      | none => s.answerFrame (.read ref table index count) .badArg [])))
  ∧ (∀ (s : State) (table : ReadTable) (last index count : Nat), (table, last) ∈
      [(ReadTable.line, 8191), (.linestatus, 8191), (.shelf, 63), (.treatment, 255), (.statemap, 15), (.programme, 31), (.step, 255),
        (.limit, 63), (.sweeprange, 15), (.slot, 3), (.queue, 31), (.testset, 3)] →
      ((s.readData table index count).isSome = true ↔ index ≤ last))
  ∧ (∀ (s : State) (index count : Nat), (s.readData .ticket index count).isSome = true ↔ ∃ t ∈ s.core.tc.tickets, t.number = index)
  ∧ ∀ (s : State) (index count : Nat),
    let p := s.core.oh.params
    s.readData .parameters index count = some (([1, 1, opt 0 p.station, byte p.hitsThreshold] : Octets) ++ two p.hitsWindow
        ++ [byte p.lockoutDelay, byte p.lockoutProgramme, byte p.defaultProgramme, byte p.holdLimit, byte p.routineQuota]
        ++ two p.maximumRate.perSecond ++ [kinds p.enabledKinds, on p.reportRoutine, byte p.trendShift] ++ two p.degradeLevel
        ++ [byte p.confirmDelay, byte p.groupThreshold] ++ two p.groupWindow)
    ∧ (index ≤ 8191 → let n := min (max 1 (min 24 count)) (8192 - index)
        s.readData .line index count = some (([2, byte n] : Octets) ++ two index ++ (List.range n).flatMap fun k =>
          [byte (s.line (index + k)).group, on (s.line (index + k)).routineEnabled, opt 0xFF (s.line (index + k)).programme]))
    ∧ (index ≤ 63 → s.readData .shelf index count = some [3, 1, byte index, on (s.shelf index).fitted])
    ∧ (index ≤ 255 → s.readData .treatment index count = some [4, 1, byte index, byte (s.htp.entry index).treatment.code,
        byte (s.htp.entry index).lineOffset, byte (s.htp.entry index).stateOffset])
    ∧ (index ≤ 15 → s.readData .statemap index count = some [5, 1, byte index, opt 15 ((s.htp.mapEntry index).map (·.code))])
    ∧ (index ≤ 31 → ∀ g, s.ms.programme index = some g →
        s.readData .programme index count = some [6, 1, byte index, byte g.first, byte g.count])
    ∧ (index ≤ 31 → s.ms.programme index = none → ∃ x, s.readData .programme index count = some [6, 1, byte index, x, 0])
    ∧ (index ≤ 255 → ∀ st, s.ms.step index = some st →
        s.readData .step index count = some (([7, 1, byte index, byte st.kind.code, byte st.pair.code] : Octets)
          ++ octets4 (BitVec.ofInt 32 st.level) ++ [byte st.slope] ++ two st.settle ++ two st.samples
          ++ [opt 0xFF st.limitSet, byte st.faultClass.code, byte st.onFail.code]))
    ∧ (index ≤ 255 → s.ms.step index = none →
        ∃ x, x.length = 13 ∧ s.readData .step index count = some (([7, 1, byte index, 0xFF] : Octets) ++ x))
    ∧ (index ≤ 63 → s.readData .limit index count = some (([8, 1, byte index, byte (s.ms.limit index).unit.code] : Octets)
          ++ four ((s.ms.limit index).low.getD 0xFFFFFFFF) ++ four ((s.ms.limit index).high.getD 0xFFFFFFFF)
          ++ [byte (s.ms.limit index).hysteresis]))
    ∧ (index ≤ 15 → s.readData .sweeprange index count = some (([9, 1, byte index] : Octets) ++ two (s.rs.range index).first
          ++ two (s.rs.range index).last ++ [on (s.rs.range index).enabled]))
    ∧ (index ≤ 8191 → let n := min (max 1 (min 8 count)) (8192 - index)
        s.readData .linestatus index count = some (([10, byte n] : Octets) ++ two index ++ (List.range n).flatMap fun k =>
          let r := s.line (index + k)
          let v := r.channels
          ([byte r.callState.code, byte r.access.code, match r.access with
              | .inAccess b => byte b
              | .none | .queued => 0xFF,
            byte v.fv.code, byte v.irTg.code, byte v.irRg.code, byte v.irTr.code, byte v.loop.code, byte v.cap.code] : Octets)
            ++ two (r.trend.getD 0) ++ two (r.ticket.getD 0)
            ++ [byte (bit 1 r.trend.isSome + bit 2 r.ticket.isSome + bit 4 r.unticketed + bit 8 r.skipped)]))
    ∧ (index ≤ 3 → ∃ position, (∀ r q, (s.slot index).request = some r → r.position = some q → position = byte q)
        ∧ let r := s.slot index
          s.readData .slot index count = some (([11, 1, byte index, byte r.state.code, byte r.pair, byte r.attempt,
              opt 0xFF (r.cause.map (·.code))] : Octets) ++ four (r.heldAt.getD 0)
            ++ [byte (bit 1 r.request.isSome + bit 2 r.heldAt.isSome + bit 4 (s.run index).isSome
                + bit 8 ((s.run index).any (·.retryUsed)))]
            ++ (match r.request with
              | some q => request q position
              | none => List.replicate 19 0)
            ++ (match s.run index with
              | some x => [byte x.programme, byte x.step, byte x.ramp.code, byte x.phase.code] ++ two x.lost ++ two x.taken
                  ++ [byte x.results.length]
              | none => List.replicate 9 0)
            ++ [opt 0xFF (s.pendingRun index)]))
    ∧ (index ≤ 31 → ∃ position : Nat → Byte,
        (∀ k r q, s.ac.queue[k]? = some r → r.position = some q → position k = byte q)
        ∧ let shown := (s.ac.queue.zipIdx.drop index).take (max 1 (min 6 count))
          s.readData .queue index count =
            some (([12, byte shown.length] : Octets) ++ shown.flatMap fun r => request r.1 (position r.2)))
    ∧ (index ≤ 3 → let t := s.testSet index
        s.readData .testset index count = some (([13, 1, byte index, byte t.state.code, opt 0xFF (t.type.map (·.code)),
            (t.offeredKinds.map kinds).getD 0, (t.offeredRates.map rates).getD 0, (t.agreedKinds.map kinds).getD 0,
            opt 0 (t.agreedRate.map (·.code)), byte t.tag, byte t.range.code, on t.stream, byte t.expected, byte t.failures] : Octets)
          ++ two (t.ticket.getD 0) ++ [byte (bit 1 t.offeredKinds.isSome + bit 2 t.agreedKinds.isSome)]))
    ∧ ∀ t, s.core.ticket index = some t → ∃ retest : Octets, retest.length = 7
        ∧ (t.retest = none → retest.head? = some 0xFF)
        ∧ (∀ w, t.retest = some w → retest.take 3 = [byte w.reason.code, byte w.attempts, byte w.due.code]
          ∧ ∀ due, w.due = .dueAt due → retest.drop 3 = four due)
        ∧ s.readData .ticket index count = some (([14, 1] : Octets) ++ two t.number ++ [byte t.kind.code] ++ two t.subject
            ++ [byte t.cls.code, byte t.severity, byte t.state.code] ++ four t.firstSeen ++ four t.lastSeen
            ++ [byte t.occurrences, byte t.reopened, byte (bit 1 t.unconfirmed)] ++ two (t.parent.getD 0)
            ++ (if t.kind = .group then
                let children := s.core.tc.tickets.filter fun u => decide (u.parent = some t.number)
                ([0] : Octets) ++ two t.childCount ++ [byte (min 16 children.length)]
                  ++ (children.take 16).flatMap fun u => two u.number
              else ([byte t.lastValues.length] : Octets) ++ t.lastValues.flatMap fun v =>
                [byte v.channel.code] ++ octets4 (BitVec.ofInt 32 v.value) ++ [quals v.quals])
            ++ retest)

/-! ### The desk's orders -/

/-- TEST accepted with every fitting slot taken (R21, R22, R24, R184): the request waits behind those of its class, its line is QUEUED, the
ANSWER carries the token given, and the token counter moves past it. A TEST whose line, desk position, programme or KEEP flag R184 does not
take is answered BAD_ARG, and one that the AC refuses (R22) with the AC's refusal; a refused TEST changes nothing else. -/
def Obligations.TestIsQueued : Prop :=
  ∀ (ref position : Byte) (line : BitVec 16) (programme flags : Byte) (hold wait : BitVec 16) (s : State), s.Takes →
    let i := Instr.test ref position line programme flags hold wait
    let token := s.freeToken 255 s.core.oh.tokenCounter
    let r := s.deskRequest position line programme flags hold wait token
    (s.testArgsOk position line programme flags = true → s.refusal r = none →
      (∀ b ∈ slotNumbers, ¬((s.slot b).state = .free ∧ (s.testSet b).state = .ready)) →
      ∃ t before behind, exec i s = .next t ∧ s.ac.queue = before ++ behind
        ∧ t.ac.queue = before ++ { r with entry := s.now, waitDue := some (s.core.timeMs + 1000 * r.wait) } :: behind
        ∧ (∀ q ∈ before, q.cls = .desk) ∧ (∀ q, behind.head? = some q → q.cls ≠ .desk)
        ∧ r.cls = .desk ∧ r.line = line.toNat ∧ r.token = some token ∧ r.position = some position.toNat
        ∧ r.programme = (if programme = 0xFF then none else some programme.toNat)
        ∧ r.force = flags.getLsbD 0 ∧ r.keep = flags.getLsbD 1 ∧ r.ticketFlag = flags.getLsbD 2
        ∧ r.hold = (if hold = 0 then 300 else min 900 hold.toNat) ∧ r.wait = (if wait = 0 then 60 else min 600 wait.toNat)
        ∧ t.ac.slots = s.ac.slots ∧ (∀ l, t.line l = if l = line.toNat then { s.line l with access := .queued } else s.line l)
        ∧ t.core.oh.tokenCounter = (if token < 255 then token + 1 else 1)
        ∧ t.htp.up.insertion = s.htp.up.insertion ++ [s.answerFrame i .accepted [byte token]]
        ∧ t.htp.down = s.htp.down ∧ t.ms = s.ms ∧ t.rs = s.rs ∧ t.cg = s.cg ∧ t.core.tc = s.core.tc ∧ t.core.shelves = s.core.shelves)
    ∧ (s.testArgsOk position line programme flags = true ↔ line.toNat ≤ 8191 ∧ position.toNat ≤ 7
        ∧ (programme ≠ 0xFF → programme.toNat ≤ 31 ∧ s.ms.programme programme.toNat ≠ none) ∧ (programme = 0xFF → flags.getLsbD 1 = true))
    ∧ (s.testArgsOk position line programme flags = false → exec i s = .next (s.withUpFrame (s.answerFrame i .badArg [])))
    ∧ ∀ a, s.testArgsOk position line programme flags = true → s.refusal r = some a →
        exec i s = .next (s.withUpFrame (s.answerFrame i a []))

/-- TEST accepted with no other request waiting and a slot that fits (R25–R27): the lowest fitting slot seizes the line on the pair that is
free, with the ACCESS order OPERATE made ready. -/
def Obligations.TestIsGranted : Prop :=
  ∀ (ref position : Byte) (line : BitVec 16) (programme flags : Byte) (hold wait : BitVec 16) (b : Nat) (s : State), s.Takes →
    let i := Instr.test ref position line programme flags hold wait
    let token := s.freeToken 255 s.core.oh.tokenCounter
    let r := s.deskRequest position line programme flags hold wait token
    s.testArgsOk position line programme flags = true → s.refusal r = none → s.ac.queue = [] → s.grantable r = true →
    slotNumbers.find? (fun k => s.fitting r k) = some b →
      ∃ t, exec i s = .next t ∧ (t.slot b).state = .seizing
        ∧ (t.slot b).request = some { r with entry := s.now, waitDue := none }
        ∧ (t.slot b).pair = (if ∃ k ∈ slotNumbers, (s.slot k).onShelf (shelfOf line.toNat) = true ∧ (s.slot k).pair = 0 then 1 else 0)
        ∧ (t.slot b).attempt = 1 ∧ (t.slot b).cause = none ∧ (t.slot b).heldAt = none
        ∧ (t.slot b).order = (if s.downFree then .placed .operate none else .waiting .operate)
        ∧ (t.line line.toNat).access = .inAccess b
        ∧ t.htp.up.insertion = s.htp.up.insertion ++ [s.answerFrame i .accepted [byte token]]
        ∧ t.ms.runs = s.ms.runs ∧ t.rs = s.rs ∧ t.cg = s.cg

/-- The five tests of an offered request, in their order (R22), and what acceptance does: the request enters the queue at this moment with
its wait timer started, its line becomes QUEUED, and the grant walk that is then owed is made at once. That the first test also comes first
for a line IN_ACCESS on a FAULTED slot of a SILENT shelf, of which R5 says DUPLICATE, is the model's choice between the two (log 60). -/
def Obligations.OfferedRequestIsJudgedInOrder : Prop :=
  ∀ (r : Request) (s : State),
    s.offerCore r =
      (let shelf := (s.shelf (shelfOf r.line)).state
       let offering := fun n => ((s.testSet n).state = .probing ∨ (s.testSet n).state = .ready ∨ (s.testSet n).state = .silent)
         ∧ ∃ k, (s.testSet n).agreedKinds = some k ∧ k.contains r.kinds = true
       if shelf = .unfitted ∨ shelf = .silent then (s, some .shelfSilent)
       else if (s.line r.line).access ≠ .none then (s, some .duplicate)
       else if r.cls = .desk ∧ ¬(offering 0 ∨ offering 1 ∨ offering 2 ∨ offering 3) then (s, some .noTestSet)
       else if r.cls = .routine ∧ s.ac.quotaInForce ≤ s.routineCount then (s, some .queueFull)
       else if 32 ≤ s.ac.queue.length then (s, some .queueFull)
       else (s.enterQueue r, none))
    ∧ (s.enterQueue r).ac.walkDue = true ∧ (s.enterQueue r).ac.slots = s.ac.slots
    ∧ (s.enterQueue r).ac.queue.length = s.ac.queue.length + 1
    ∧ { r with entry := s.now, waitDue := some (s.core.timeMs + 1000 * r.wait) } ∈ (s.enterQueue r).ac.queue
    ∧ (∀ l, (s.enterQueue r).line l = if l = r.line then { s.line l with access := .queued } else s.line l)
    ∧ (s.refusal r = none → s.offer r = ((s.enterQueue r).settle, none))
    ∧ ∀ a, s.refusal r = some a → s.offer r = (s, some a)

/-- RUN (R74): the five tests in their order; an order that passes waits in the pending-run slot of a running access, and on an idle one the
run starts at once: its first step that can be run enters APPLY (R73, R76, R77), and with none the run ends at once (R81, R82). -/
def Obligations.RunIsJudgedAndTaken : Prop :=
  ∀ (ref token programme : Byte) (s : State), s.Takes →
    let i := Instr.run ref token programme
    (∀ a, s.judgeRun token.toNat programme.toNat = .error a → exec i s = .next (s.withUpFrame (s.answerFrame i a [])))
    ∧ (s.tokenLive token.toNat = false → s.judgeRun token.toNat programme.toNat = .error .unknownToken)
    ∧ (s.tokenLive token.toNat = true → (31 < programme.toNat ∨ s.ms.programme programme.toNat = none) →
        s.judgeRun token.toNat programme.toNat = .error .badArg)
    ∧ (s.tokenLive token.toNat = true → programme.toNat ≤ 31 → s.ms.programme programme.toNat ≠ none →
        (s.deskSlot token.toNat = none → s.judgeRun token.toNat programme.toNat = .error .busy)
        ∧ ∀ b, s.deskSlot token.toNat = some b →
          let able := (s.testSet b).state = .ready
            ∧ ∃ k, (s.testSet b).agreedKinds = some k ∧ k.contains (s.ms.requiredKinds (some programme.toNat)) = true
          ((s.slot b).state ≠ .held → s.judgeRun token.toNat programme.toNat = .error .busy)
          ∧ ((s.slot b).state = .held → ¬able → s.judgeRun token.toNat programme.toNat = .error .noTestSet)
          ∧ ((s.slot b).state = .held → able → (s.run b).isSome = true → (s.pendingRun b).isSome = true →
              s.judgeRun token.toNat programme.toNat = .error .busy)
          ∧ ((s.slot b).state = .held → able → (s.run b = none ∨ s.pendingRun b = none) →
              s.judgeRun token.toNat programme.toNat = .ok b))
    ∧ (∀ b, s.judgeRun token.toNat programme.toNat = .ok b → (s.run b).isSome = true →
        ∃ t, exec i s = .next t ∧ t.pendingRun b = some programme.toNat ∧ (∀ k, k ≠ b → t.pendingRun k = s.pendingRun k)
          ∧ ({ t with ms := { t.ms with pendingRuns := s.ms.pendingRuns } } : State) = s.withUpFrame (s.answerFrame i .accepted []))
    ∧ (∀ b p st r, s.judgeRun token.toNat programme.toNat = .ok b → s.run b = none → s.ms.programme programme.toNat = some p →
        1 ≤ p.count → s.ms.step p.first = some st → s.stepVoid b st = false → (s.slot b).request = some r →
        ∃ t, exec i s = .next t ∧ t.htp.up.insertion = s.htp.up.insertion ++ [s.answerFrame i .accepted []]
          ∧ t.run b = some
            { programme := programme.toNat
              step := 1
              ramp := if st.kind = .cap then .up else .none
              phase := .apply
              start := (s.line r.line).channels
              opener := !(s.testSet b).stream }
          ∧ t.ac = s.ac ∧ t.core.lines = s.core.lines ∧ t.core.tc = s.core.tc ∧ t.rs = s.rs ∧ t.ms.results = s.ms.results)
    ∧ ∀ b p r, s.judgeRun token.toNat programme.toNat = .ok b → s.run b = none → s.ms.programme programme.toNat = some p →
        (s.slot b).request = some r →
        ∃ t, exec i s = .next t ∧ t.htp.up.insertion = s.htp.up.insertion ++ [s.answerFrame i .accepted []]
          ∧ s.stepsFollow t b r { programme := programme.toNat, step := 0, start := (s.line r.line).channels } p []

/-- RELEASE and CANCEL of scope RUN on a HELD access (R44, R45, R85): ACCEPTED, the run and the pending run are gone, and the slot is
RELEASING with its cause. On a SEIZING access whose OPERATE is sent, the slot is marked and the request has its ending, a slot marked
already keeping its first mark (log 30); with the OPERATE unsent, the slot goes FREE with its cause. CANCEL makes the RESULT, with the
slot's bus (log 41). On a RELEASING access nothing changes. On a queued request (R44, R45): it leaves the queue, CANCEL making its RESULT.
With no live request: UNKNOWN_TOKEN. -/
def Obligations.ReleaseAndCancelEndTheAccess : Prop :=
  ∀ (ref token : Byte) (s : State), s.Takes →
    (∀ b, s.deskSlot token.toNat = some b → (s.slot b).state = .held →
      (∃ t, exec (.release ref token) s = .next t ∧ (t.slot b).state = .releasing ∧ (t.slot b).cause = some .deskRelease
        ∧ (t.slot b).attempt = 1 ∧ t.run b = none ∧ t.pendingRun b = none
        ∧ t.htp.up.insertion = s.htp.up.insertion ++ [s.answerFrame (.release ref token) .accepted []]
        ∧ ∀ k, k ≠ b → t.slot k = s.slot k)
      ∧ ∃ t, exec (.cancelRun ref token) s = .next t ∧ (t.slot b).state = .releasing ∧ (t.slot b).cause = some .cancelled
        ∧ (t.slot b).attempt = 1 ∧ t.run b = none ∧ t.pendingRun b = none
        ∧ t.htp.up.insertion = s.htp.up.insertion ++ [s.answerFrame (.cancelRun ref token) .accepted []]
        ∧ ∀ k, k ≠ b → t.slot k = s.slot k)
    ∧ (∀ b, s.deskSlot token.toNat = some b → (s.slot b).state = .releasing →
        exec (.release ref token) s = .next (s.withUpFrame (s.answerFrame (.release ref token) .accepted []))
        ∧ exec (.cancelRun ref token) s = .next (s.withUpFrame (s.answerFrame (.cancelRun ref token) .accepted [])))
    ∧ (∀ b r, s.deskSlot token.toNat = some b → (s.slot b).state = .seizing → (s.slot b).request = some r →
        let cancelled := fun t : State => (s.ms.results.length < 64 → (s.slot b).ended = false →
            t.ms = { s.ms with results := s.ms.results ++ [r.result (some b) .cancelled] })
          ∧ ((s.slot b).ended = true → t.ms = s.ms)
        ((∀ op, (s.slot b).order ≠ .waiting op) →
          let marked := fun (t : State) (cause : Cause) =>
            t.slot b = { s.slot b with ended := true, mark := some ((s.slot b).mark.getD cause) }
              ∧ (∀ k, k ≠ b → t.slot k = s.slot k) ∧ t.ac.queue = s.ac.queue ∧ t.core = s.core ∧ t.htp.down = s.htp.down ∧ t.cg = s.cg
          (∃ t, exec (.release ref token) s = .next t ∧ marked t .deskRelease ∧ t.ms = s.ms
            ∧ t.htp.up.insertion = s.htp.up.insertion ++ [s.answerFrame (.release ref token) .accepted []])
          ∧ ∃ t, exec (.cancelRun ref token) s = .next t ∧ marked t .cancelled ∧ cancelled t
            ∧ t.htp.up.insertion = s.htp.up.insertion ++ [s.answerFrame (.cancelRun ref token) .accepted []])
        ∧ ∀ op, (s.slot b).order = .waiting op → s.ac.queue = [] → s.noRetests → s.LineRests r.line →
          let freed := fun (t : State) (cause : Cause) =>
            (t.slot b).state = .free ∧ (t.slot b).cause = some cause ∧ (t.slot b).request = none ∧ (t.slot b).order = .idle
              ∧ (∀ k, k ≠ b → t.slot k = s.slot k) ∧ (t.line r.line).access = .none
              ∧ (t.shelf (shelfOf r.line)).freePairs = min 2 ((s.shelf (shelfOf r.line)).freePairs + 1)
              ∧ t.htp.down.insertion.map (·.octets) = s.htp.down.insertion.map (·.octets)
          (∃ t, exec (.release ref token) s = .next t ∧ freed t .deskRelease ∧ t.ms = s.ms
            ∧ t.htp.up.insertion = s.htp.up.insertion ++ [s.answerFrame (.release ref token) .accepted []])
          ∧ ∃ t, exec (.cancelRun ref token) s = .next t ∧ freed t .cancelled ∧ cancelled t
            ∧ t.htp.up.insertion = s.htp.up.insertion ++ [s.answerFrame (.cancelRun ref token) .accepted []])
    ∧ (∀ r, s.deskSlot token.toNat = none → s.deskQueued token.toNat = some r → s.core.tc.tickets = [] →
        (s.line r.line).lockoutStart = none →
      (∃ t, exec (.release ref token) s = .next t ∧ t.ac.queue = s.ac.queue.erase r ∧ (t.line r.line).access = .none
        ∧ t.ms = s.ms ∧ t.ac.slots = s.ac.slots
        ∧ t.htp.up.insertion = s.htp.up.insertion ++ [s.answerFrame (.release ref token) .accepted []])
      ∧ ∃ t, exec (.cancelRun ref token) s = .next t ∧ t.ac.queue = s.ac.queue.erase r ∧ (t.line r.line).access = .none
        ∧ t.ac.slots = s.ac.slots
        ∧ (s.ms.results.length < 64 → t.ms = { s.ms with results := s.ms.results ++
            [{ token := r.token.getD 0, position := r.position.getD 0, line := r.line, bus := none, cls := .desk,
               programme := r.programme, outcome := .cancelled, fault := none, steps := [] }] })
        ∧ t.htp.up.insertion = s.htp.up.insertion ++ [s.answerFrame (.cancelRun ref token) .accepted []])
    ∧ (s.tokenLive token.toNat = false →
      exec (.release ref token) s = .next (s.withUpFrame (s.answerFrame (.release ref token) .unknownToken []))
      ∧ exec (.cancelRun ref token) s = .next (s.withUpFrame (s.answerFrame (.cancelRun ref token) .unknownToken [])))

/-- CANCEL of scope STEP (R85): on a HELD access with a step under way, the step is recorded VOID_SKIPPED with value 0 and verdict NONE,
and the next one that can be run enters APPLY (R76); with none left the run ends by itself, INCOMPLETE (R81, R82). A live request with no
run is answered BAD_ARG, and a token of none UNKNOWN_TOKEN. -/
def Obligations.CancelStepSkipsTheStep : Prop :=
  ∀ (ref token : Byte) (s : State), s.Takes →
    let i := Instr.cancelStep ref token
    (∀ b x p st next, s.deskSlot token.toNat = some b → (s.slot b).state = .held → s.stepUnderWay b = some (x, p, st) →
      x.step < p.count → s.ms.stepOf p (x.step + 1) = some next → s.stepVoid b next = false →
        ∃ t, exec i s = .next t ∧ t.htp.up.insertion = s.htp.up.insertion ++ [s.answerFrame i .accepted []]
          ∧ t.run b = some { x with
              step := x.step + 1
              ramp := if next.kind = .cap then .up else .none
              phase := .apply
              retryUsed := false
              lost := 0
              taken := 0
              settleEnd := none
              working := {}
              held := none
              results := x.results ++ [{ step := x.step, channel := channelOf st.kind st.pair, value := 0,
                                         quals := { voidSkipped := true }, verdict := .unset }]
              opener := !(s.testSet b).stream }
          ∧ t.pendingRun b = s.pendingRun b ∧ t.ac = s.ac ∧ t.core.lines = s.core.lines ∧ t.core.tc = s.core.tc
          ∧ t.ms.results = s.ms.results)
    ∧ (∀ b x p st r, s.deskSlot token.toNat = some b → (s.slot b).state = .held → s.stepUnderWay b = some (x, p, st) →
        (s.slot b).request = some r →
        ∃ t, exec i s = .next t ∧ t.htp.up.insertion = s.htp.up.insertion ++ [s.answerFrame i .accepted []]
          ∧ s.stepsFollow t b r x p (x.results ++ [voidAs x.step st { voidSkipped := true }]))
    ∧ (s.tokenLive token.toNat = true → (∀ b, s.deskSlot token.toNat = some b → (s.slot b).state ≠ .held ∨ s.run b = none) →
        exec i s = .next (s.withUpFrame (s.answerFrame i .badArg [])))
    ∧ (s.tokenLive token.toNat = false → exec i s = .next (s.withUpFrame (s.answerFrame i .unknownToken [])))

/-- ACK (R124, R140, R142): an OPEN ticket that stands alone becomes ACKNOWLEDGED and keeps its place in the counts, and every other
ticket stands, a group's children among them; one that is ACKNOWLEDGED, VERIFYING or CLOSING stays as it is; a PROVISIONAL one, and a
number no ticket holds, are refused BAD_ARG, and a child IN_GROUP. -/
def Obligations.TicketIsAcknowledged : Prop :=
  ∀ (ref : Byte) (number : BitVec 16) (s : State), s.Takes →
    let i := Instr.ack ref number
    (s.core.ticket number.toNat = none → exec i s = .next (s.withUpFrame (s.answerFrame i .badArg [])))
    ∧ ∀ t, s.core.ticket number.toNat = some t →
      (t.parent.isSome = true → exec i s = .next (s.withUpFrame (s.answerFrame i .inGroup [])))
      ∧ (t.parent = none → t.state = .provisional → exec i s = .next (s.withUpFrame (s.answerFrame i .badArg [])))
      ∧ (t.parent = none → (t.state = .acknowledged ∨ t.state = .verifying ∨ t.state = .closing) →
          exec i s = .next (s.withUpFrame (s.answerFrame i .accepted [])))
      ∧ (t.parent = none → t.state = .opened → ∃ u, exec i s = .next u
          ∧ u.core.ticket number.toNat = some { t with state := .acknowledged } ∧ u.core.tc.notices = s.core.tc.notices
          ∧ (∀ m, m ≠ number.toNat → u.core.ticket m = s.core.ticket m) ∧ u.core.tc.tickets.length = s.core.tc.tickets.length
          ∧ u.core.tc.counter = s.core.tc.counter ∧ u.htp.down = s.htp.down ∧ u.core.shelves = s.core.shelves
          ∧ u.core.sets = s.core.sets
          ∧ u.core.oh = s.core.oh ∧ u.core.lines = s.core.lines
          ∧ u.htp.up.insertion = s.htp.up.insertion ++ [s.answerFrame i .accepted []]
          ∧ u.ac = s.ac ∧ u.ms = s.ms ∧ u.rs = s.rs ∧ u.cg = s.cg)

/-- CLEAR (R125, R128, R142): a LINE ticket OPEN or ACKNOWLEDGED goes to VERIFYING, and its VERIFY retest is offered at once: accepted, it is
outstanding and its line QUEUED. One of class DEGRADING takes its line's trend with it (R110). A GROUP ticket goes to VERIFYING with its
OPEN and ACKNOWLEDGED children, with no notice; the children's VERIFY retests are offered, and with room for all and every line able to take
one, all are outstanding. On a SHELF ticket the shelf is probed with a RELEASE_ALL; on a BUS ticket of a FAULTED slot a RELEASE is made on a
SERVING shelf and a RELEASE_ALL on a SILENT one, and nothing on a PROBING one (R38); on a TEST_SET ticket a SILENT set is probed, an ABSENT
one enumerated, and a PROBING or DISABLED one left alone (R65). A number no ticket holds is refused BAD_ARG and a child IN_GROUP, and so is
a PROVISIONAL ticket BAD_ARG; a VERIFYING or CLOSING one is answered ACCEPTED with no effect (of a DEGRADING one: log 44). -/
def Obligations.ClearSendsToVerification : Prop :=
  ∀ (ref : Byte) (number : BitVec 16) (s : State), s.Takes →
    let i := Instr.clear ref number
    (s.core.ticket number.toNat = none → exec i s = .next (s.withUpFrame (s.answerFrame i .badArg [])))
    ∧ ∀ t, s.core.ticket number.toNat = some t →
      (t.parent.isSome = true → exec i s = .next (s.withUpFrame (s.answerFrame i .inGroup [])))
      ∧ (t.parent = none → t.state = .provisional → exec i s = .next (s.withUpFrame (s.answerFrame i .badArg [])))
      ∧ (t.parent = none → (t.state = .verifying ∨ t.state = .closing) →
          exec i s = .next (s.withUpFrame (s.answerFrame i .accepted [])))
      ∧ (t.parent = none → t.state.standing = true → t.kind = .line →
          s.refusal (s.retestRequest t.subject (s.routineProgramme t.subject) .verify (some number.toNat)) = none →
          (∀ b ∈ slotNumbers, ¬((s.slot b).state = .free ∧ (s.testSet b).state = .ready)) → ∃ u, exec i s = .next u
            ∧ u.core.ticket number.toNat =
                some { t with state := .verifying, retest := some { reason := .verify, due := .outstanding } }
            ∧ (u.line t.subject).access = .queued ∧ u.ac.queue.length = s.ac.queue.length + 1
            ∧ (u.line t.subject).trend = (if t.cls = .fault .degrading then none else (s.line t.subject).trend)
            ∧ (∃ q ∈ u.ac.queue, q.cls = .retest ∧ q.line = t.subject ∧ q.reason = some .verify
                ∧ q.ticketRef = some number.toNat ∧ q.wait = 300)
            ∧ u.htp.up.insertion = s.htp.up.insertion ++ [s.answerFrame i .accepted []] ∧ u.ac.slots = s.ac.slots ∧ u.ms = s.ms)
      ∧ (t.parent = none → t.state.standing = true → t.kind = .shelf → t.subject < 64 → (s.shelf t.subject).order = .idle →
          ∃ u, exec i s = .next u
            ∧ (u.shelf t.subject).order = (if s.downFree then .placed .releaseAll none else .waiting .releaseAll)
            ∧ ((s.shelf t.subject).state = .silent → (u.shelf t.subject).probeDue = some (s.core.timeMs + 10000))
            ∧ u.core.tc = s.core.tc ∧ u.htp.up.insertion = s.htp.up.insertion ++ [s.answerFrame i .accepted []]
            ∧ u.ac = s.ac ∧ u.ms = s.ms ∧ u.core.lines = s.core.lines)
      ∧ (t.parent = none → t.state.standing = true → t.kind = .bus → t.subject < 4 → (s.slot t.subject).state = .faulted →
          ∀ l, (s.slot t.subject).line = some l → l < 8192 → ∃ u, exec i s = .next u
            ∧ u.core.tc = s.core.tc ∧ u.htp.up.insertion = s.htp.up.insertion ++ [s.answerFrame i .accepted []]
            ∧ u.ms = s.ms ∧ u.core.lines = s.core.lines ∧ u.ac.queue = s.ac.queue
            ∧ (∀ k, k ≠ t.subject → u.slot k = s.slot k)
            ∧ ((s.shelf (shelfOf l)).state = .serving → (s.slot t.subject).order = .idle →
                u.slot t.subject = { s.slot t.subject with order := s.madeReady .release } ∧ u.core.shelves = s.core.shelves)
            ∧ ((s.shelf (shelfOf l)).state = .silent → (s.shelf (shelfOf l)).order = .idle →
                u.slot t.subject = s.slot t.subject ∧ (u.shelf (shelfOf l)).order = s.madeReady .releaseAll
                ∧ (u.shelf (shelfOf l)).probeDue = some (s.core.timeMs + 10000))
            ∧ ((s.shelf (shelfOf l)).state = .probing → u.slot t.subject = s.slot t.subject ∧ u.core = s.core ∧ u.htp.down = s.htp.down))
      ∧ (t.parent = none → t.state.standing = true → t.kind = .testSet → t.subject < 4 → ∃ u, exec i s = .next u
            ∧ u.core.tc = s.core.tc ∧ u.htp.up.insertion = s.htp.up.insertion ++ [s.answerFrame i .accepted []]
            ∧ u.ms = s.ms ∧ u.core.lines = s.core.lines ∧ u.ac = s.ac ∧ (∀ k, k ≠ t.subject → u.testSet k = s.testSet k)
            ∧ (let was := s.testSet t.subject
               let is := u.testSet t.subject
               let sent := was.sending.map (·.msg) ++ [.stream true, .identify]
               (was.state = .silent → was.attempt = 0 → is.state = .silent ∧ is.attempt = 1 ∧ is.stream = true
                  ∧ is.probeDue = some (s.core.timeMs + 5000) ∧ is.sending.map (·.msg) = sent)
               ∧ (was.state = .absent → is.state = .probing ∧ is.attempt = 1 ∧ is.stream = true ∧ is.sending.map (·.msg) = sent)
               ∧ (((was.state = .silent ∧ was.attempt ≠ 0) ∨ was.state = .probing ∨ was.state = .disabled) → is = was)))
      ∧ (t.parent = none → t.state.standing = true → t.kind = .group → (s.core.tc.tickets.map (·.number)).Nodup →
          (∀ b ∈ slotNumbers, ¬((s.slot b).state = .free ∧ (s.testSet b).state = .ready)) → ∃ u, exec i s = .next u
            ∧ u.core.ticket number.toNat =
                some { t with state := .verifying, retest := some { reason := .verify, due := .outstanding } }
            ∧ u.core.tc.notices = s.core.tc.notices ∧ u.ac.slots = s.ac.slots ∧ u.ms = s.ms
            ∧ u.htp.up.insertion = s.htp.up.insertion ++ [s.answerFrame i .accepted []]
            ∧ (let going := s.core.tc.tickets.filter fun k => decide (k.parent = some number.toNat) && k.state.standing
               (∀ k ∈ s.core.tc.tickets, k.number ≠ number.toNat → k ∉ going → u.core.ticket k.number = some k)
               ∧ (∀ k ∈ going, ∃ w, w.reason = .verify
                    ∧ u.core.ticket k.number = some { k with state := .verifying, retest := some w })
               ∧ ((∀ k ∈ going, k.kind = .line ∧ (s.line k.subject).access = .none
                      ∧ ((s.shelf (shelfOf k.subject)).state = .serving ∨ (s.shelf (shelfOf k.subject)).state = .probing)) →
                  (going.map (·.subject)).Nodup → s.ac.queue.length + going.length ≤ 32 →
                    u.ac.queue.length = s.ac.queue.length + going.length
                    ∧ ∀ k ∈ going, (u.line k.subject).access = .queued
                      ∧ u.core.ticket k.number =
                          some { k with state := .verifying, retest := some { reason := .verify, due := .outstanding } })))

/-- SWEEP of action START and STOP (R155): the sweep state alone changes, the OH is told, and the ANSWER carries the sweep as it stands after
the order. SWEEP of action RATE (R150): with no increment in force the value becomes the increment at once, and otherwise it is pending. -/
def Obligations.SweepOrdersAreTaken : Prop :=
  ∀ (ref : Byte) (s : State), s.Takes →
    let answered := fun (i : Instr) (r : Rs) => s.answerFrame i .accepted
      (([(if r.running then 1 else 0) + (if r.pendingIncrement.isSome then 128 else 0), byte r.cursorRange] : Octets)
        ++ octets2 (BitVec.ofNat 16 r.cursorLine) ++ octets2 (BitVec.ofNat 16 r.increment)
        ++ octets2 (BitVec.ofNat 16 (r.pendingIncrement.getD 0)) ++ octets2 (BitVec.ofNat 16 r.passCount))
    let swept := fun (r : Rs) => { s with
      rs := r
      core := { s.core with oh := { s.core.oh with sweepRunning := r.running } } }
    exec (.sweepStart ref) s = .next
        ((swept { s.rs with running := true }).withUpFrame (answered (.sweepStart ref) { s.rs with running := true }))
    ∧ exec (.sweepStop ref) s = .next
        ((swept { s.rs with running := false }).withUpFrame (answered (.sweepStop ref) { s.rs with running := false }))
    ∧ ∀ increment : BitVec 16,
      let r := if s.rs.increment = 0 then { s.rs with increment := increment.toNat, pendingIncrement := none }
        else { s.rs with pendingIncrement := some increment.toNat }
      exec (.sweepRate ref increment) s = .next (({ s with rs := r } : State).withUpFrame (answered (.sweepRate ref increment) r))

/-- SUMMARY (R191): the ANSWER carries the three counts, the latch, the current conditions, the sweep state, the pass count and the
readiness as they stand; then the latch holds the current conditions alone and the attention-sent mark is clear. -/
def Obligations.SummaryTellsAndRelatches : Prop :=
  ∀ (ref : Byte) (s : State), s.Takes →
    exec (.summary ref) s = .next
      (({ s with core := { s.core with oh := { s.core.oh with latch := s.core.oh.current, attentionSent := false } } } : State).withUpFrame
        (s.answerFrame (.summary ref) .accepted
          (octets2 (BitVec.ofNat 16 s.core.oh.count1) ++ octets2 (BitVec.ofNat 16 s.core.oh.count2)
            ++ octets2 (BitVec.ofNat 16 s.core.oh.count3)
            ++ [byte s.core.oh.latch.code, byte s.core.oh.current.code, if s.core.oh.sweepRunning then 1 else 0]
            ++ octets2 (BitVec.ofNat 16 s.core.oh.passCount) ++ [if s.core.oh.ready then 1 else 0])))

/-- TESTSET (R66, R67, R192): DISABLE puts a set into DISABLED with SOURCE OFF and STREAM off sent; ENABLE begins the enumeration of a set
DISABLED, ABSENT or SILENT and leaves a READY or PROBING one alone; a set outside 0–3 is refused BAD_ARG. -/
def Obligations.TestSetsAreEnabledAndDisabled : Prop :=
  ∀ (ref set : Byte) (s : State), s.Takes →
    (3 < set.toNat →
      exec (.testsetEnable ref set) s = .next (s.withUpFrame (s.answerFrame (.testsetEnable ref set) .badArg []))
      ∧ exec (.testsetDisable ref set) s = .next (s.withUpFrame (s.answerFrame (.testsetDisable ref set) .badArg [])))
    ∧ (set.toNat ≤ 3 →
      (((s.testSet set.toNat).state = .ready ∨ (s.testSet set.toNat).state = .probing) →
        exec (.testsetEnable ref set) s = .next (s.withUpFrame (s.answerFrame (.testsetEnable ref set) .accepted [])))
      ∧ (((s.testSet set.toNat).state = .disabled ∨ (s.testSet set.toNat).state = .absent ∨ (s.testSet set.toNat).state = .silent) →
        ∃ t, exec (.testsetEnable ref set) s = .next t ∧ (t.testSet set.toNat).state = .probing ∧ (t.testSet set.toNat).attempt = 1
          ∧ (t.testSet set.toNat).failures = 0 ∧ (t.testSet set.toNat).stream = true
          ∧ (t.testSet set.toNat).sending.map (·.msg) = (s.testSet set.toNat).sending.map (·.msg) ++ [.stream true, .identify]
          ∧ (∀ k, k ≠ set.toNat → t.testSet k = s.testSet k) ∧ t.ac = s.ac ∧ t.ms = s.ms ∧ t.core.lines = s.core.lines
          ∧ t.htp.up.insertion = s.htp.up.insertion ++ [s.answerFrame (.testsetEnable ref set) .accepted []])
      ∧ ((s.testSet set.toNat).state = .disabled →
        exec (.testsetDisable ref set) s = .next (s.withUpFrame (s.answerFrame (.testsetDisable ref set) .accepted [])))
      ∧ ((s.testSet set.toNat).state ≠ .disabled →
        ∃ t, exec (.testsetDisable ref set) s = .next t ∧ (t.testSet set.toNat).state = .disabled
          ∧ (t.testSet set.toNat).stream = false
          ∧ ((s.slot set.toNat).state = .held → (s.testSet set.toNat).state = .ready →
              (t.slot set.toNat).state = .releasing ∧ (t.slot set.toNat).cause = some .equipment ∧ t.run set.toNat = none)
          ∧ ((s.slot set.toNat).state ≠ .held ∨ (s.testSet set.toNat).state ≠ .ready →
              t.ac = s.ac ∧ t.ms = s.ms ∧ t.core.lines = s.core.lines ∧ (∀ k, k ≠ set.toNat → t.testSet k = s.testSet k)
              ∧ ∃ tag, (t.testSet set.toNat).sending.map (·.msg) = (s.testSet set.toNat).sending.map (·.msg)
                  ++ [.source tag .tg .off 0 0 .low .dc, .stream false])
          ∧ t.htp.up.insertion = s.htp.up.insertion ++ [s.answerFrame (.testsetDisable ref set) .accepted []]))

/-- RESTART (R194). Answered ACCEPTED first; the held orders have gone down (R177), the runs and the pending runs are dropped (R86),
PROVISIONAL tickets are discarded (R132), the sweep is STOPPED with its accumulator 0 (R156), and every line's watch fields are at their
power-on values (R4). Every fitted shelf is PROBING with count 0, its free pairs 2 less its FAULTED slots, and its RELEASE_ALL made ready; a
FAULTED slot keeps its request and pair, and the quota in force is the parameter's (R49). That a FAULTED slot's RELEASE which waits for a
place is withdrawn, so that the slot has no order, is the model's choice (log 37). A READY set is sent SOURCE OFF and STREAM off and stays
READY, and the step timers of every set stop (R51). Every RESULT that joins the list is of a DESK request, CANCELLED with no step results;
with room they stand by slot and then by queue, the model's choice (log 17). By the model's readings a request of a live slot that has had
its ending makes none (log 30), and the RESULT of a SEIZING slot's request carries the slot's bus (log 41). The configuration, the
readiness, the UP side, the latch of orders and the GUARD waiting list are kept. With no retest wanted, by which the TC could offer one
afresh (log 17), the queue is empty, every live slot is FREE and its line NONE, as is the line of every queued request, the other tickets
stand, and the latch holds the current conditions. -/
def Obligations.RestartClearsTheWork : Prop :=
  ∀ (ref : Byte) (s : State), s.Takes → s.Sound → ∃ t, exec (.restart ref) s = .next t
    ∧ t.htp.up.insertion = s.htp.up.insertion ++ [s.answerFrame (.restart ref) .accepted []] ∧ t.htp.up.pass = s.htp.up.pass
    ∧ t.htp.down.pass = s.htp.down.pass ++ s.cg.held.map (·.frame) ∧ t.cg = { s.cg with held := [] }
    ∧ (∀ b, t.run b = none ∧ t.pendingRun b = none)
    ∧ (∀ u ∈ t.core.tc.tickets, u.state ≠ .provisional)
    ∧ t.rs = { s.rs with running := false, accumulator := 0, eventDue := false } ∧ t.core.oh.sweepRunning = false
    ∧ (∀ l, (t.line l).hits = 0 ∧ (t.line l).hitsStart = none ∧ (t.line l).lockoutStart = none ∧ (t.line l).deferred = none
        ∧ (t.line l).reOffer = false ∧ (t.line l).callState = (s.line l).callState ∧ (t.line l).group = (s.line l).group
        ∧ (t.line l).routineEnabled = (s.line l).routineEnabled ∧ (t.line l).programme = (s.line l).programme
        ∧ (t.line l).channels = (s.line l).channels ∧ (t.line l).trend = (s.line l).trend)
    ∧ (∀ n, (t.shelf n).fitted = (s.shelf n).fitted)
    ∧ (∀ n, n ≤ 63 → (s.shelf n).fitted = true → (t.shelf n).state = .probing ∧ (t.shelf n).failures = 0
        ∧ (t.shelf n).freePairs = 2 - (slotNumbers.filter fun b =>
            decide ((s.slot b).state = .faulted) && decide ((s.slot b).line.map shelfOf = some n)).length
        ∧ ((t.shelf n).order = .placed .releaseAll none ∨ (t.shelf n).order = .waiting .releaseAll))
    ∧ (∀ b ∈ slotNumbers, (s.slot b).state = .faulted → t.slot b = { s.slot b with order := .idle })
    ∧ t.ac.quotaInForce = s.core.oh.params.routineQuota
    ∧ (∀ n ∈ slotNumbers, (t.testSet n).state = (s.testSet n).state ∧ (t.testSet n).firstTagDue = none
        ∧ (t.testSet n).sampleDue = none
        ∧ ((s.testSet n).state = .ready → (t.testSet n).stream = false ∧ (t.testSet n).tag = ((s.testSet n).tag + 1) % 16
            ∧ (t.testSet n).sending.map (·.msg) = (s.testSet n).sending.map (·.msg)
                ++ [.source (((s.testSet n).tag + 1) % 16) .tg .off 0 0 .low .dc, .stream false])
        ∧ ((s.testSet n).state ≠ .ready → (t.testSet n).stream = (s.testSet n).stream ∧ (t.testSet n).tag = (s.testSet n).tag
            ∧ (t.testSet n).sending.map (·.msg) = (s.testSet n).sending.map (·.msg)))
    ∧ (let ended := slotNumbers.flatMap (fun b => ((s.slot b).request.filter fun r =>
            decide ((s.slot b).state = .seizing ∨ (s.slot b).state = .held ∨ (s.slot b).state = .releasing)
              && !(s.slot b).ended && decide (r.cls = .desk)).toList.map fun r => r.result (some b) .cancelled)
          ++ (s.ac.queue.filter fun r => decide (r.cls = .desk)).map fun r => r.result none .cancelled
       t.ms.results = s.ms.results ++ ended.take (64 - s.ms.results.length))
    ∧ t.core.oh.params = s.core.oh.params ∧ t.core.oh.ready = true ∧ t.core.oh.passCount = s.core.oh.passCount
    ∧ t.ms.programmes = s.ms.programmes ∧ t.ms.steps = s.ms.steps ∧ t.ms.limits = s.ms.limits
    ∧ t.htp.treatment = s.htp.treatment ∧ t.htp.stateMap = s.htp.stateMap ∧ t.htp.latch = none ∧ t.csi = s.csi
    ∧ (s.noRetests → t.ac.queue = [] ∧ t.core.oh.latch = t.core.oh.current
        ∧ t.core.tc.tickets = s.core.tc.tickets.filter (fun k => decide (k.state ≠ .provisional))
        ∧ (∀ b ∈ slotNumbers, ((s.slot b).state = .seizing ∨ (s.slot b).state = .held ∨ (s.slot b).state = .releasing) →
            (t.slot b).state = .free ∧ (t.slot b).request = none ∧ (t.slot b).order = .idle
            ∧ ∀ l, (s.slot b).line = some l → (t.line l).access = .none)
        ∧ (∀ r ∈ s.ac.queue, (t.line r.line).access = .none)
        ∧ ∀ l, (∀ b ∈ slotNumbers, (s.slot b).line = some l → (s.slot b).state = .free ∨ (s.slot b).state = .faulted) →
            (∀ r ∈ s.ac.queue, r.line ≠ l) → (t.line l).access = (s.line l).access)

/-! ### Placings -/

/-- A frame of the OH's own, a RESULT and a GUARD notice go into the UP insertion queue from the front of their lists, when the queue has a
free place for them (R89, R167, R175, R178, R181): below 14 frames, and below 16 for a GUARD notice. With no place nothing happens. -/
def Obligations.WaitingFramesArePlaced : Prop :=
  (∀ (ref : Byte) (result : Answer) (rest : List OhFrame) (s : State), s.Quiet → s.core.oh.waiting = .saveAnswer ref result :: rest →
    exec .saveAnswerPlace s = .next (if s.htp.up.insertion.length < 14 then
      ({ s with core := { s.core with oh := { s.core.oh with waiting := rest } } } : State).withUpFrame
        { octets := highwayFrame 0 s.core.oh.station kindAnswer [12, ref, byte result.code] } else s))
  ∧ (∀ (rest : List OhFrame) (s : State), s.Quiet → s.core.oh.waiting = .attention :: rest →
    exec .attentionPlace s = .next (if s.htp.up.insertion.length < 14 then
      ({ s with core := { s.core with oh := { s.core.oh with waiting := rest } } } : State).withUpFrame
        { octets := highwayFrame 0 s.core.oh.station kindAttention
            ([byte s.core.oh.latch.code, byte s.core.oh.current.code] ++ octets2 (BitVec.ofNat 16 s.core.oh.count1)
              ++ octets2 (BitVec.ofNat 16 s.core.oh.count2) ++ octets2 (BitVec.ofNat 16 s.core.oh.count3)) } else s))
  ∧ (∀ (r : Result) (rest : List Result) (s : State), s.Quiet → s.ms.results = r :: rest →
    exec .resultPlace s = .next (if s.htp.up.insertion.length < 14 then
      ({ s with ms := { s.ms with results := rest } } : State).withUpFrame
        { octets := highwayFrame 0 s.core.oh.station kindResult (resultPayload r) } else s))
  ∧ ∀ (g : GuardNotice) (rest : List GuardNotice) (s : State), s.Quiet → s.cg.waiting = g :: rest →
    exec .guardNoticePlace s = .next (if s.htp.up.insertion.length < 16 then
      ({ s with cg := { s.cg with waiting := rest } } : State).withUpFrame
        { octets := highwayFrame 0 s.core.oh.station kindGuard (guardPayload g) } else s)

/-- The first notice becomes a TICKET frame with the ticket's fields as they stand, and leaves the list with notice pending cleared; a
CLOSING ticket then leaves the table, and the line, shelf or test-set record that names it ceases to (R130). -/
def Obligations.TicketNoticeIsPlaced : Prop :=
  ∀ (n : Nat) (rest : List Nat) (t : Ticket) (s : State), s.Quiet → s.core.tc.notices = n :: rest → s.core.ticket n = some t →
    s.htp.up.insertion.length < 14 →
      ∃ u, exec .ticketNoticePlace s = .next u
        ∧ u.htp.up.insertion = s.htp.up.insertion ++
            [{ octets := highwayFrame 0 s.core.oh.station kindTicket (ticketPayload t ((s.core.children n).map (·.number))) }]
        ∧ (t.state ≠ .closing → u.core.tc.notices = rest ∧ u.core.ticket n = some { t with noticePending := false }
            ∧ u.core.tc.tickets.length = s.core.tc.tickets.length)
        ∧ (t.state = .closing → u.core.ticket n = none ∧ u.core.tc.notices = rest.filter (fun m => decide (m ≠ n))
            ∧ u.core.tc.tickets = s.core.tc.tickets.filter (fun v => decide (v.number ≠ n))
            ∧ (t.kind = .line → (s.line t.subject).ticket = some n → u.line t.subject = { s.line t.subject with ticket := none })
            ∧ (t.kind = .shelf → (s.shelf t.subject).ticket = some n → u.shelf t.subject = { s.shelf t.subject with ticket := none })
            ∧ (t.kind = .testSet → (s.testSet t.subject).ticket = some n →
                u.testSet t.subject = { s.testSet t.subject with ticket := none }))
        ∧ (∀ l, (s.line l).ticket ≠ some n → u.line l = s.line l) ∧ (∀ k, (s.shelf k).ticket ≠ some n → u.shelf k = s.shelf k)
        ∧ (∀ k, (s.testSet k).ticket ≠ some n → u.testSet k = s.testSet k)
        ∧ u.ac = s.ac ∧ u.ms = s.ms ∧ u.rs = s.rs ∧ u.cg = s.cg ∧ u.htp.down = s.htp.down

/-- ACCESS orders and shelf probes (R28, R36). A waiting ACCESS order goes into the DOWN queue when that has a place. The probe timer of a
SILENT shelf makes a RELEASE_ALL ready, unless one is under way, and falls due again 10 s later. -/
def Obligations.AccessOrdersAreMade : Prop :=
  (∀ (o : AccessOwner) (op : AccessOp) (s : State), s.Quiet → s.order o = .waiting op →
    (16 ≤ s.htp.down.insertion.length → exec (.accessOrderPlace o) s = .next s)
    ∧ (s.htp.down.insertion.length < 16 → ∃ t, exec (.accessOrderPlace o) s = .next t ∧ t.order o = .placed op none
        ∧ t.htp.down.insertion = s.htp.down.insertion ++ [s.accessFrame o op] ∧ t.htp.up = s.htp.up
        ∧ (∀ p, p ≠ o → t.order p = s.order p) ∧ t.core.lines = s.core.lines ∧ t.core.tc = s.core.tc ∧ t.ms = s.ms ∧ t.rs = s.rs
        ∧ t.ac.queue = s.ac.queue))
  ∧ (∀ (b : Fin 4) (l : Nat) (s : State), (s.slot b.val).line = some l →
      (s.accessFrame (.slot b) .operate).octets = highwayFrame (l / 128 + 1) s.core.oh.station kindAccess
        ([byte AccessOp.operate.code] ++ octets2 (BitVec.ofNat 16 l) ++ [byte b.val, byte (s.slot b.val).pair]))
  ∧ ∀ (n : Fin 64) (due : Nat) (s : State), s.Quiet → (s.shelf n.val).state = .silent → (s.shelf n.val).probeDue = some due →
    due ≤ s.core.timeMs → ∃ t, exec (.shelfProbeTimer n) s = .next t
      ∧ (t.shelf n.val).probeDue = some (due + 10000) ∧ (t.shelf n.val).state = .silent
      ∧ (t.shelf n.val).order = (if (s.shelf n.val).order = .idle then
          (if s.htp.down.insertion.length < 16 then .placed .releaseAll none else .waiting .releaseAll) else (s.shelf n.val).order)
      ∧ (∀ k, k ≠ n.val → t.shelf k = s.shelf k) ∧ t.ac = s.ac ∧ t.core.lines = s.core.lines ∧ t.core.tc = s.core.tc ∧ t.ms = s.ms
      ∧ t.rs = s.rs ∧ t.htp.up = s.htp.up

/-! ### Test access -/

/-- The endings of relay transactions (R28, R29); an order fails when its confirm timer runs out or CONTACT_FAULT comes.
A failed RELEASE: before the third attempt the slot tries again, at the third it goes FAULTED (R33).
A RELEASE with DONE (R32): the slot is FREE, its pair back and its line NONE, the deferred report is the call state, the line's held orders go
down in their order, and a ROUTINE access brings a quota in force above the parameter down by 1 (R23).
A failed OPERATE (R31): the slot releases with cause ACCESS_FAILED, or the cause it was marked with; an unmarked DESK request has its RESULT,
and that it carries the slot's bus, the slot being SEIZING, is the model's reading (log 41).
A RELEASE_ALL with DONE (R34, R36): the shelf is SERVING with 2 pairs and count 0, its FAULTED slots are FREE and their lines NONE, and its
standing ticket is CLOSING.
A failed RELEASE_ALL: counted, and made again below the third of a PROBING shelf (R34); a SILENT shelf stays as it is (R36).
The third failure of a shelf (R35), by a RELEASE_ALL, or by the OPERATE or RELEASE of a slot of a SERVING shelf: it is SILENT with its
10 s probe timer running and SHELF_SILENT shown, no request for its lines is queued, its live slots are FAULTED and keep request and pair,
their runs gone, with cause EQUIPMENT, but for the slot whose third RELEASE has failed, which keeps its cause (R33); a DESK request not yet
ended has its RESULT SHELF_SILENT, with the slot's bus; and a shelf that has no ticket, no slot and no queued request has one OPEN. -/
def Obligations.FailedReleaseIsRepeated : Prop :=
  (∀ (b : Fin 4) (l : Nat) (i : Instr) (s : State), s.Quiet → (s.slot b.val).state = .releasing → (s.slot b.val).line = some l → l < 8192 →
    s.fails (.slot b) .release (shelfOf l) b.val i →
      ((s.slot b.val).attempt < 3 → (s.shelf (shelfOf l)).failures ≤ 1 → ∃ t, exec i s = .next t
        ∧ (t.slot b.val).state = .releasing ∧ (t.slot b.val).attempt = (s.slot b.val).attempt + 1
        ∧ (t.slot b.val).order = s.madeReady .release
        ∧ (t.shelf (shelfOf l)).failures = (s.shelf (shelfOf l)).failures + 1 ∧ (∀ k, k ≠ b.val → t.slot k = s.slot k)
        ∧ t.core.lines = s.core.lines ∧ t.ms = s.ms ∧ t.ac.queue = s.ac.queue ∧ t.core.tc = s.core.tc)
      ∧ (3 ≤ (s.slot b.val).attempt → ∃ t, exec i s = .next t ∧ (t.slot b.val).state = .faulted
        ∧ (t.slot b.val).request = (s.slot b.val).request ∧ (t.slot b.val).pair = (s.slot b.val).pair))
  ∧ (∀ (b : Fin 4) (r : Request) (due : Option Nat) (s : State), s.Hears → (s.slot b.val).state = .releasing →
    (s.slot b.val).request = some r → r.line < 8192 → (s.slot b.val).order = .placed .release due → s.ac.queue = [] → s.noRetests →
    s.LineRests r.line →
      ∃ t, exec (.frameEnd .down (s.confirmFrame (shelfOf r.line) .release b.val false) none) s = .next t
        ∧ (t.slot b.val).state = .free ∧ (t.slot b.val).request = none ∧ (t.slot b.val).order = .idle
        ∧ (t.slot b.val).cause = (s.slot b.val).cause ∧ (t.slot b.val).attempt = (s.slot b.val).attempt
        ∧ (∀ k, k ≠ b.val → t.slot k = s.slot k)
        ∧ (t.line r.line).access = .none ∧ (t.line r.line).deferred = none
        ∧ (t.line r.line).callState = (s.line r.line).deferred.getD (s.line r.line).callState
        ∧ (∀ k, k ≠ r.line → t.line k = s.line k)
        ∧ (t.shelf (shelfOf r.line)).failures = 0
        ∧ (t.shelf (shelfOf r.line)).freePairs = min 2 ((s.shelf (shelfOf r.line)).freePairs + 1)
        ∧ t.cg = { s.cg with held := s.cg.held.filter fun h => decide (h.line ≠ r.line) }
        ∧ t.htp.down.pass = s.htp.down.pass ++ (s.cg.held.filter fun h => decide (h.line = r.line)).map (·.frame)
        ∧ t.ac.quotaInForce = (if r.cls = .routine ∧ s.core.oh.params.routineQuota < s.ac.quotaInForce then s.ac.quotaInForce - 1
            else s.ac.quotaInForce)
        ∧ t.ac.queue = [] ∧ t.ms = s.ms ∧ t.core.tc = s.core.tc ∧ t.rs = s.rs ∧ t.htp.up = s.htp.up)
  ∧ (∀ (b : Fin 4) (r : Request) (i : Instr) (s : State), s.Quiet → (s.slot b.val).state = .seizing → (s.slot b.val).request = some r →
    r.line < 8192 → (s.shelf (shelfOf r.line)).failures ≤ 1 → s.fails (.slot b) .operate (shelfOf r.line) b.val i →
      ∃ t, exec i s = .next t ∧ (t.slot b.val).state = .releasing ∧ (t.slot b.val).attempt = 1
        ∧ (t.slot b.val).cause = some ((s.slot b.val).mark.getD .accessFailed) ∧ (t.slot b.val).order = s.madeReady .release
        ∧ (t.slot b.val).request = some r ∧ (t.slot b.val).pair = (s.slot b.val).pair
        ∧ (t.shelf (shelfOf r.line)).failures = (s.shelf (shelfOf r.line)).failures + 1
        ∧ (∀ k, k ≠ b.val → t.slot k = s.slot k) ∧ t.ac.queue = s.ac.queue
        ∧ ((s.slot b.val).mark.isSome = true → t.ms = s.ms ∧ t.core.tc = s.core.tc ∧ t.core.lines = s.core.lines)
        ∧ ((s.slot b.val).mark = none → (s.slot b.val).ended = false → r.cls = .desk → s.ms.results.length < 64 →
            t.ms = { s.ms with results := s.ms.results ++ [r.result (some b.val) .accessFailed] } ∧ t.core.tc = s.core.tc))
  ∧ (∀ (n : Fin 64) (due : Option Nat) (s : State), s.Hears → s.Sound → (s.shelf n.val).order = .placed .releaseAll due →
    s.ac.queue = [] → s.noRetests →
    (∀ b ∈ slotNumbers, ∀ l, (s.slot b).state = .faulted → (s.slot b).line = some l → s.LineRests l) →
      ∃ t, exec (.frameEnd .down (s.confirmFrame n.val .releaseAll 0 false) none) s = .next t
        ∧ (t.shelf n.val).state = .serving ∧ (t.shelf n.val).failures = 0 ∧ (t.shelf n.val).freePairs = 2
        ∧ (t.shelf n.val).probeDue = none ∧ (t.shelf n.val).order = .idle ∧ (t.shelf n.val).fitted = (s.shelf n.val).fitted
        ∧ (∀ b ∈ slotNumbers, (s.slot b).state = .faulted → (s.slot b).line.map shelfOf = some n.val →
            (t.slot b).state = .free ∧ (t.slot b).request = none
            ∧ ∀ l, (s.slot b).line = some l → (t.line l).access = .none)
        ∧ (∀ b ∈ slotNumbers, ¬((s.slot b).state = .faulted ∧ (s.slot b).line.map shelfOf = some n.val) → t.slot b = s.slot b)
        ∧ (∀ m k, (s.shelf n.val).ticket = some m → s.core.ticket m = some k → k.kind = .shelf → k.parent = none →
            k.state.standing = true → t.core.ticket m = some { k with state := .closing, noticePending := true } ∧ m ∈ t.core.tc.notices)
        ∧ t.ac.queue = [] ∧ t.ms = s.ms ∧ t.rs = s.rs ∧ t.htp.up = s.htp.up)
  ∧ (∀ (n : Fin 64) (i : Instr) (s : State), s.Quiet → s.fails (.shelf n) .releaseAll n.val 0 i →
      ((s.shelf n.val).state = .probing → (s.shelf n.val).failures ≤ 1 → ∃ t, exec i s = .next t
        ∧ (t.shelf n.val).state = .probing ∧ (t.shelf n.val).failures = (s.shelf n.val).failures + 1
        ∧ (t.shelf n.val).order = s.madeReady .releaseAll
        ∧ t.ac = s.ac ∧ t.core.tc = s.core.tc ∧ t.core.lines = s.core.lines ∧ t.ms = s.ms)
      ∧ ((s.shelf n.val).state = .silent → ∃ t, exec i s = .next t
        ∧ t.shelf n.val = { s.shelf n.val with failures := min 3 ((s.shelf n.val).failures + 1), order := .idle }
        ∧ t.ac = s.ac ∧ t.core.tc = s.core.tc ∧ t.core.lines = s.core.lines ∧ t.ms = s.ms))
  ∧ ∀ (n : Fin 64) (i : Instr) (s : State), s.Quiet → s.Sound → 2 ≤ (s.shelf n.val).failures →
    ((s.shelf n.val).state = .probing ∨ (s.shelf n.val).state = .serving) →
    let third := fun b : Nat => (s.slot b).state = .releasing ∧ 3 ≤ (s.slot b).attempt ∧ ∃ o : Fin 4, o.val = b
      ∧ s.fails (.slot o) .release n.val b i
    (s.fails (.shelf n) .releaseAll n.val 0 i
      ∨ ∃ (b : Fin 4) (l : Nat) (op : AccessOp), (s.slot b.val).line = some l ∧ l < 8192 ∧ shelfOf l = n.val
          ∧ s.fails (.slot b) op n.val b.val i
          ∧ (((s.slot b.val).state = .seizing ∧ op = .operate) ∨ ((s.slot b.val).state = .releasing ∧ op = .release))) →
    ∃ t, exec i s = .next t
      ∧ (t.shelf n.val).state = .silent ∧ (t.shelf n.val).failures = 3 ∧ (t.shelf n.val).probeDue = some (s.core.timeMs + 10000)
      ∧ t.core.oh.current.shelfSilent = true
      ∧ (s.fails (.shelf n) .releaseAll n.val 0 i → (t.shelf n.val).order = .idle)
      ∧ (∀ r ∈ t.ac.queue, shelfOf r.line ≠ n.val)
      ∧ (∀ b ∈ slotNumbers, ((s.slot b).state = .seizing ∨ (s.slot b).state = .held ∨ (s.slot b).state = .releasing) →
          (s.slot b).line.map shelfOf = some n.val →
            (t.slot b).state = .faulted ∧ (t.slot b).order = .idle
            ∧ (third b → (t.slot b).cause = (s.slot b).cause) ∧ (¬third b → (t.slot b).cause = some .equipment)
            ∧ (t.slot b).request = (s.slot b).request ∧ (t.slot b).pair = (s.slot b).pair
            ∧ (¬third b → t.run b = none ∧ t.pendingRun b = none)
            ∧ (s.ms.results.length ≤ 28 → ((s.slot b).state = .seizing ∨ (s.slot b).state = .held) → s.run b = none →
                (s.slot b).ended = false → ∀ q, (s.slot b).request = some q → q.cls = .desk →
                  q.result (some b) .shelfSilent ∈ t.ms.results))
      ∧ ((s.shelf n.val).ticket = none → s.core.tc.tickets.length < 256 → (∀ r ∈ s.ac.queue, shelfOf r.line ≠ n.val) →
          (∀ b ∈ slotNumbers, (s.slot b).line.map shelfOf ≠ some n.val) →
            ∃ k ∈ t.core.tc.tickets, (t.shelf n.val).ticket = some k.number ∧ k.kind = .shelf ∧ k.subject = n.val
              ∧ k.cls = .fault .shelfSilent ∧ k.severity = 3 ∧ k.state = .opened ∧ k.noticePending = true
              ∧ t.core.tc.notices = s.core.tc.notices ++ [k.number] ∧ t.ac = s.ac)

/-- The hold limit of a HELD slot runs out (R39): the run and the pending run are gone, the slot is RELEASING with cause HOLD_EXPIRED, and a
DESK request that had no run ends ABORTED_HOLD. -/
def Obligations.HoldLimitReleasesTheSlot : Prop :=
  ∀ (b : Fin 4) (due : Nat) (s : State), s.Quiet → (s.slot b.val).state = .held → (s.slot b.val).holdDue = some due →
    due ≤ s.core.timeMs → ∃ t, exec (.holdExpiry b) s = .next t
      ∧ (t.slot b.val).state = .releasing ∧ (t.slot b.val).cause = some .holdExpired ∧ (t.slot b.val).attempt = 1
      ∧ (t.slot b.val).holdDue = none ∧ t.run b.val = none ∧ t.pendingRun b.val = none
      ∧ (t.slot b.val).order = (if s.htp.down.insertion.length < 16 then .placed .release none else .waiting .release)
      ∧ (∀ k, k ≠ b.val → t.slot k = s.slot k) ∧ t.ac.queue = s.ac.queue
      ∧ ∀ r, s.run b.val = none → (s.slot b.val).ended = false → (s.slot b.val).request = some r → r.cls = .desk →
          s.ms.results.length < 64 → t.ms.results = s.ms.results ++
            [{ token := r.token.getD 0, position := r.position.getD 0, line := r.line, bus := some b.val, cls := .desk,
               programme := r.programme, outcome := .abortedHold, fault := none, steps := [] }]

/-- The wait limit of a queued request runs out (R40, R41): it leaves the queue and its line becomes NONE; a DESK request has its RESULT
WAIT_EXPIRED and a ROUTINE request's line is marked SKIPPED (R154). -/
def Obligations.WaitLimitEndsTheRequest : Prop :=
  ∀ (l : Fin 8192) (r : Request) (due : Nat) (s : State), s.Quiet → s.ac.queue.find? (fun q => decide (q.line = l.val)) = some r →
    r.waitDue = some due → due ≤ s.core.timeMs → s.core.tc.tickets = [] → (s.line l.val).lockoutStart = none → r.reason = none →
      ∃ t, exec (.waitExpiry l) s = .next t ∧ t.ac.queue = s.ac.queue.erase r ∧ t.ac.slots = s.ac.slots
        ∧ (t.line l.val).access = .none ∧ (∀ k, k ≠ l.val → t.line k = s.line k)
        ∧ (r.cls = .routine → (t.line l.val).skipped = true ∧ t.ms = s.ms)
        ∧ (r.cls = .desk → s.ms.results.length < 64 → t.ms = { s.ms with results := s.ms.results ++
            [{ token := r.token.getD 0, position := r.position.getD 0, line := l.val, bus := none, cls := .desk,
               programme := r.programme, outcome := .waitExpired, fault := none, steps := [] }] })
        ∧ t.rs = s.rs ∧ t.htp = s.htp ∧ t.cg = s.cg

/-- An OPERATE confirmed DONE (R28–R30): the slot is HELD from now with its hold timer running for the request's hold limit, and the shelf's
failure count is 0. A KEEP access without a programme waits in HELD for a RUN; a request with a programme has its run started, its first
step that can be run in APPLY under a fresh tag (R73, R76, R77), and a run of no such step or of an empty programme ends at once
(R81, R82); a slot marked for release or pre-emption releases with the cause of its mark, and no run starts
(R44–R46); with its set not READY the request ends EQUIPMENT and the slot releases with that cause. A CONTACT_FAULT is a failure that the
shelf counts: the slot releases with cause ACCESS_FAILED, or that of its mark (R31). -/
def Obligations.ConfirmedOperateHolds : Prop :=
  ∀ (b : Fin 4) (r : Request) (due : Option Nat) (s : State), s.Hears → (s.slot b.val).state = .seizing →
    (s.slot b.val).request = some r → r.line < 8192 → (s.slot b.val).order = .placed .operate due →
      let done := exec (.frameEnd .down (s.confirmFrame (shelfOf r.line) .operate b.val false) none) s
      let held := fun (t : State) => (t.slot b.val).state = .held ∧ (t.slot b.val).heldAt = some s.now
        ∧ (t.slot b.val).holdDue = some (s.core.timeMs + 1000 * r.hold) ∧ (t.slot b.val).order = .idle
      let kept := fun (t : State) => (t.slot b.val).request = some r ∧ (t.slot b.val).pair = (s.slot b.val).pair
        ∧ (∀ k, k ≠ b.val → t.slot k = s.slot k) ∧ t.ac.queue = s.ac.queue ∧ t.htp.up = s.htp.up
      let releasing := fun (t : State) (cause : Cause) => (t.slot b.val).state = .releasing ∧ (t.slot b.val).cause = some cause
        ∧ (t.slot b.val).attempt = 1 ∧ (t.slot b.val).holdDue = none ∧ (t.slot b.val).order = s.madeReady .release
      ((s.slot b.val).mark = none → (s.testSet b.val).state = .ready → r.programme = none → ∃ t, done = .next t ∧ held t ∧ kept t
          ∧ (t.shelf (shelfOf r.line)).failures = 0 ∧ t.ms = s.ms ∧ t.core.lines = s.core.lines)
      ∧ (∀ p g st, (s.slot b.val).mark = none → (s.testSet b.val).state = .ready → r.programme = some p →
          s.ms.programme p = some g → 1 ≤ g.count → s.ms.step g.first = some st → s.stepVoid b.val st = false →
          ∃ t, done = .next t ∧ held t ∧ kept t ∧ (t.shelf (shelfOf r.line)).failures = 0
            ∧ t.run b.val = some
              { programme := p
                step := 1
                ramp := if st.kind = .cap then .up else .none
                phase := .apply
                start := (s.line r.line).channels
                opener := !(s.testSet b.val).stream }
            ∧ (t.testSet b.val).tag = ((s.testSet b.val).tag + 1) % 16 ∧ (t.testSet b.val).stream = true
            ∧ t.ms.results = s.ms.results ∧ t.core.lines = s.core.lines)
      ∧ (∀ p, (s.slot b.val).mark = none → (s.testSet b.val).state = .ready → r.programme = some p →
          let u := s.updSlot b.val fun q =>
            { q with state := .held, heldAt := some s.now, holdDue := some (s.core.timeMs + 1000 * r.hold), order := .idle }
          ∃ t, done = .next t
            ∧ (∀ g, s.ms.programme p = some g →
                u.stepsFollow t b.val r { programme := p, step := 0, start := (s.line r.line).channels } g [])
            ∧ (s.ms.programme p = none → u.runEnds t b.val r p []))
      ∧ (∀ cause, (s.slot b.val).mark = some cause → ∃ t, done = .next t ∧ releasing t cause ∧ kept t
          ∧ (t.slot b.val).mark = none ∧ (t.shelf (shelfOf r.line)).failures = 0 ∧ t.ms = s.ms ∧ t.core.lines = s.core.lines)
      ∧ ((s.slot b.val).mark = none → (s.testSet b.val).state ≠ .ready → ∃ t, done = .next t ∧ releasing t .equipment ∧ kept t
          ∧ (t.slot b.val).heldAt = some s.now ∧ (t.shelf (shelfOf r.line)).failures = 0
          ∧ ((s.slot b.val).ended = false → r.cls = .desk → s.ms.results.length < 64 →
              t.ms = { s.ms with results := s.ms.results ++ [r.result (some b.val) .equipment] }))
      ∧ ((s.shelf (shelfOf r.line)).failures ≤ 1 →
          ∃ t, exec (.frameEnd .down (s.confirmFrame (shelfOf r.line) .operate b.val true) none) s = .next t
            ∧ releasing t ((s.slot b.val).mark.getD .accessFailed) ∧ kept t
            ∧ (t.shelf (shelfOf r.line)).failures = (s.shelf (shelfOf r.line)).failures + 1)

/-! ### Test sets and runs -/

/-- The oldest frame leaves a link (R52, R53, R61): an IDENTIFY starts its 100 ms answer timer, a SOURCE of a step its 40 ms first-tag wait,
and any other frame nothing. -/
def Obligations.LinkFrameStartsItsTimer : Prop :=
  ∀ (n : Fin 4) (f : LinkFrame) (rest : List LinkFrame) (s : State), s.Quiet → (s.testSet n.val).sending = f :: rest →
    ∃ t, exec (.linkFrameLeaves n) s = .next t
      ∧ (f.timed = true → f.msg = .identify →
          t.testSet n.val = { s.testSet n.val with sending := rest, answerDue := some (s.core.timeMs + 100) })
      ∧ (∀ tag p m l sl r c, f.timed = true → f.msg = .source tag p m l sl r c →
          t.testSet n.val = { s.testSet n.val with sending := rest, firstTagDue := some (s.core.timeMs + 40) })
      ∧ (f.timed = false ∨ (∃ on, f.msg = .stream on) ∨ (∃ r k, f.msg = .agree r k) →
          t.testSet n.val = { s.testSet n.val with sending := rest })
      ∧ (∀ k, k ≠ n.val → t.testSet k = s.testSet k)
      ∧ ({ t with core := { t.core with sets := s.core.sets, oh := s.core.oh } } : State) = s

/-- An IDENTITY on a set that is not DISABLED (R54, R55, R57): the set is READY and FULL, agrees the kinds offered that are enabled, and its
rate is the highest offered not above the maximum rate, else the lowest offered. In an enumeration STREAM off goes before AGREE (log 40); in
the other states AGREE goes, and STREAM off behind it if the stream was on. A READY set has restarted: its run and pending run are gone, a
HELD slot that does not KEEP releases when a run was on it, with cause EQUIPMENT, and a KEEP slot stands. On a SILENT set the probe timer
and a probe under way end. One that offers no rate is discarded, and so is any on a DISABLED set. -/
def Obligations.IdentityMakesASetReady : Prop :=
  ∀ (n : Fin 4) (octets : Octets) (kinds : KindSet) (rates : RateSet) (s : State), s.Quiet → s.csi.imageAwaited = false →
    parseIdentity octets = some (kinds, rates) →
      let was := s.testSet n.val
      (rates = { r1000 := false, r500 := false, r250 := false } ∨ was.state = .disabled → exec (.identityReceived n octets) s = .next s)
      ∧ (rates ≠ { r1000 := false, r500 := false, r250 := false } → was.state ≠ .disabled →
        ∃ t rate, exec (.identityReceived n octets) s = .next t ∧ (t.testSet n.val).state = .ready
          ∧ (t.testSet n.val).type = some .full ∧ (t.testSet n.val).offeredKinds = some kinds
          ∧ (t.testSet n.val).offeredRates = some rates ∧ (t.testSet n.val).agreedRate = some rate
          ∧ (let agreed : KindSet :=
              { dcv := kinds.dcv && s.core.oh.params.enabledKinds.dcv
                acv := kinds.acv && s.core.oh.params.enabledKinds.acv
                resIns := kinds.resIns && s.core.oh.params.enabledKinds.resIns
                resLoop := kinds.resLoop && s.core.oh.params.enabledKinds.resLoop
                cap := kinds.cap && s.core.oh.params.enabledKinds.cap }
             (t.testSet n.val).agreedKinds = some agreed
              ∧ (t.testSet n.val).sending.map (·.msg) = was.sending.map (·.msg)
                ++ (if was.state = .probing then [.stream false, .agree rate agreed]
                  else if was.stream = true then [.agree rate agreed, .stream false] else [.agree rate agreed]))
          ∧ (t.testSet n.val).stream = false ∧ (t.testSet n.val).failures = 0 ∧ (t.testSet n.val).tag = was.tag
          ∧ (was.state = .probing → (t.testSet n.val).expected = 0 ∧ (t.testSet n.val).attempt = 0
              ∧ (t.testSet n.val).samplesSeen = false ∧ (t.testSet n.val).answerDue = none)
          ∧ (was.state = .silent → (t.testSet n.val).probeDue = none ∧ (t.testSet n.val).attempt = 0
              ∧ (t.testSet n.val).answerDue = none)
          ∧ (was.state = .ready → t.run n.val = none ∧ t.pendingRun n.val = none
              ∧ ∀ r, (s.slot n.val).state = .held → (s.slot n.val).request = some r →
                  ((s.run n.val = none ∨ r.keep = true) → t.slot n.val = s.slot n.val)
                  ∧ ((s.run n.val).isSome = true → r.keep = false →
                    (t.slot n.val).state = .releasing ∧ (t.slot n.val).cause = some .equipment ∧ (t.slot n.val).request = some r))
          ∧ (let offered := fun (r : Rate) => match r with
                | .r1000 => rates.r1000
                | .r500 => rates.r500
                | .r250 => rates.r250
             let greatest := s.core.oh.params.maximumRate.perSecond
             offered rate = true ∧ (rate.perSecond ≤ greatest → ∀ r, offered r = true → r.perSecond ≤ greatest → r.perSecond ≤ rate.perSecond)
              ∧ (greatest < rate.perSecond → ∀ r, offered r = true → rate.perSecond ≤ r.perSecond)))

/-- A SAMPLE on a READY set (R60, R78, R79, R91). The expected next index becomes its index plus 1, modulo 256, whatever its tag. With the
current tag, in ACQUIRE, or at its beginning as the settle end is reached or a step has no settle time, its gap joins the lost count and, as
long as no more than N / 4 are lost, it is accumulated: the codes join the sums, a voltage code of −32,768 as −32,767, the square only for
ACV, the overload marks and the first sign are kept. A lost count above N / 4 abandons the acquisition (R83): the step is retried, and the
second time it is VOID_LOSS. The last sample of an acquisition ends the step at CHECK (R80, R104): its result joins the list; on the up ramp
of CAP the sums are held and the down ramp begins. After a step's result the next step that can be run enters APPLY, unless the step failed
and is to end the run. A run that so ends by itself (R81, R82) is COMPLETE, or INCOMPLETE with a VOID step; the line's channels and trend
are moved (R105, R108), the TC is handed the run (R116), the RESULT is made (R88), and a pending run starts (R75), or the access is released
with cause RUN_END or kept. -/
def Obligations.SampleIsAccumulated : Prop :=
  ∀ (n : Fin 4) (octets : Octets) (x : Sample) (s : State), s.Quiet → s.csi.imageAwaited = false → (s.testSet n.val).state = .ready →
    parseSample octets = some x →
      (x.tag ≠ (s.testSet n.val).tag ∨ s.run n.val = none → ∃ t, exec (.sampleReceived n octets) s = .next t
        ∧ (t.testSet n.val).expected = (x.index + 1) % 256 ∧ (t.testSet n.val).failures = (s.testSet n.val).failures
        ∧ ((s.testSet n.val).sampleDue.isSome = true → (t.testSet n.val).sampleDue = some (s.core.timeMs + 40))
        ∧ t.ms = s.ms ∧ t.ac = s.ac ∧ t.core.lines = s.core.lines)
      ∧ ∀ was r p st, x.tag = (s.testSet n.val).tag → s.stepUnderWay n.val = some (was, p, st) → s.acquires was r st →
          let lost := min 65535 (r.lost + (x.index + 256 - (s.testSet n.val).expected % 256) % 256)
          let v := if x.voltage = -32768 then -32767 else x.voltage
          let w := r.working
          let sums : Accum :=
            { sv := w.sv + v
              si := w.si + x.current
              sv2 := if st.kind = .acv then w.sv2 + v.natAbs ^ 2 else w.sv2
              range := (s.testSet n.val).range
              overI := w.overI || x.overI
              overV := if w.overV.isSome = true then w.overV else if x.overV = true then some (decide (0 ≤ x.voltage)) else none }
          (lost ≤ st.samples / 4 → r.taken + 1 < st.samples → ∃ t, exec (.sampleReceived n octets) s = .next t
            ∧ t.run n.val = some { r with lost := lost, taken := r.taken + 1, working := sums }
            ∧ (t.testSet n.val).expected = (x.index + 1) % 256 ∧ (t.testSet n.val).failures = 0
            ∧ (∀ k, k ≠ n.val → t.run k = s.run k) ∧ t.ms.results = s.ms.results ∧ t.ac = s.ac ∧ t.core.lines = s.core.lines)
          ∧ (st.samples / 4 < lost → r.retryUsed = false → ∃ t, exec (.sampleReceived n octets) s = .next t
            ∧ t.run n.val = some { r.entering r.step st.kind r.results (!(s.testSet n.val).stream) with retryUsed := true }
            ∧ (t.testSet n.val).tag = ((s.testSet n.val).tag + 1) % 16 ∧ t.ms.results = s.ms.results ∧ t.ac = s.ac
            ∧ t.core.lines = s.core.lines ∧ t.core.tc = s.core.tc)
          ∧ (∀ q, st.samples / 4 < lost → r.retryUsed = true → (s.slot n.val).request = some q →
            ∃ t, exec (.sampleReceived n octets) s = .next t
              ∧ s.stepsFollow t n.val q r p (r.results ++ [voidAs r.step st { voidLoss := true }]))
          ∧ (lost ≤ st.samples / 4 → st.samples ≤ r.taken + 1 → st.kind = .cap → r.ramp = .up →
            ∃ t, exec (.sampleReceived n octets) s = .next t
              ∧ t.run n.val = some { r with
                  lost := 0
                  taken := 0
                  working := {}
                  held := some sums
                  ramp := .down
                  phase := .apply
                  settleEnd := none
                  opener := !(s.testSet n.val).stream }
              ∧ (t.testSet n.val).tag = ((s.testSet n.val).tag + 1) % 16 ∧ t.ms.results = s.ms.results ∧ t.ac = s.ac)
          ∧ (∀ q, lost ≤ st.samples / 4 → st.samples ≤ r.taken + 1 → ¬(st.kind = .cap ∧ r.ramp = .up) →
            (s.slot n.val).request = some q →
            let result := s.ms.check { r with working := sums } p st
            ∃ t, exec (.sampleReceived n octets) s = .next t
              ∧ (result.verdict = .fail → st.onFail = .finish → s.runEnds t n.val q r.programme (r.results ++ [result]))
              ∧ ((result.verdict ≠ .fail ∨ st.onFail = .goOn) → s.stepsFollow t n.val q r p (r.results ++ [result])))
          ∧ ∀ next, lost ≤ st.samples / 4 → st.samples ≤ r.taken + 1 → ¬(st.kind = .cap ∧ r.ramp = .up) → r.step < p.count →
            s.ms.stepOf p (r.step + 1) = some next → s.stepVoid n.val next = false →
            let result := s.ms.check { r with working := sums } p st
            (result.verdict ≠ .fail ∨ st.onFail = .goOn) → ∃ t, exec (.sampleReceived n octets) s = .next t
              ∧ t.run n.val = some (r.entering (r.step + 1) next.kind (r.results ++ [result]) (!(s.testSet n.val).stream))
              ∧ (t.testSet n.val).tag = ((s.testSet n.val).tag + 1) % 16 ∧ t.ms.results = s.ms.results ∧ t.ac = s.ac
              ∧ t.core.lines = s.core.lines ∧ t.core.tc = s.core.tc

/-- The answer timer of an enumeration's IDENTIFY expires (R53, R54): below the third try IDENTIFY is sent again; at the third the set is
BASIC when samples have been seen, READY with the enabled kinds among DCV and RES_INS at 250 samples/s, and otherwise ABSENT. -/
def Obligations.UnansweredIdentifyIsRepeated : Prop :=
  ∀ (n : Fin 4) (due : Nat) (s : State), s.Quiet → (s.testSet n.val).state = .probing → (s.testSet n.val).answerDue = some due →
    due ≤ s.core.timeMs → ∃ t, exec (.identifyAnswerTimeout n) s = .next t
      ∧ ((s.testSet n.val).attempt < 3 → (t.testSet n.val).state = .probing ∧ (t.testSet n.val).answerDue = none
          ∧ (t.testSet n.val).attempt = (s.testSet n.val).attempt + 1 ∧ t.ac = s.ac ∧ t.ms = s.ms
          ∧ (t.testSet n.val).sending.map (·.msg) = (s.testSet n.val).sending.map (·.msg) ++ [.identify])
      ∧ (3 ≤ (s.testSet n.val).attempt → (s.testSet n.val).samplesSeen = false →
          (t.testSet n.val).state = .absent ∧ (t.testSet n.val).type = none ∧ (t.testSet n.val).agreedKinds = none
          ∧ (t.testSet n.val).agreedRate = none ∧ (t.testSet n.val).stream = false ∧ t.ac = s.ac ∧ t.ms = s.ms)
      ∧ (3 ≤ (s.testSet n.val).attempt → (s.testSet n.val).samplesSeen = true →
          (t.testSet n.val).state = .ready ∧ (t.testSet n.val).type = some .basic ∧ (t.testSet n.val).agreedRate = some .r250
          ∧ (t.testSet n.val).agreedKinds = some { dcv := s.core.oh.params.enabledKinds.dcv, resIns := s.core.oh.params.enabledKinds.resIns }
          ∧ (t.testSet n.val).stream = false)

/-- Probes of a SILENT set (R64). When the 5 s timer falls due a probe is made: STREAM on and IDENTIFY, and the timer counts from its
beginning; while a probe is under way none is made. A probe unanswered within 100 ms has failed: STREAM off is sent and the set stays
SILENT. -/
def Obligations.SilentSetIsProbed : Prop :=
  ∀ (n : Fin 4) (due : Nat) (s : State), s.Quiet → (s.testSet n.val).state = .silent → due ≤ s.core.timeMs →
    ((s.testSet n.val).probeDue = some due → (s.testSet n.val).attempt = 0 → ∃ t, exec (.silenceProbeTimer n) s = .next t
      ∧ t.testSet n.val = { s.testSet n.val with
          stream := true
          expected := 0
          attempt := 1
          probeDue := some (s.core.timeMs + 5000)
          sending := (s.testSet n.val).sending ++ [{ msg := .stream true }, { msg := .identify, timed := true }] }
      ∧ (∀ k, k ≠ n.val → t.testSet k = s.testSet k)
      ∧ ({ t with core := { t.core with sets := s.core.sets, oh := s.core.oh } } : State) = s)
    ∧ ((s.testSet n.val).probeDue = some due → (s.testSet n.val).attempt ≠ 0 → ∃ t, exec (.silenceProbeTimer n) s = .next t
      ∧ t.testSet n.val = { s.testSet n.val with probeDue := some (due + 5000) }
      ∧ (∀ k, k ≠ n.val → t.testSet k = s.testSet k)
      ∧ ({ t with core := { t.core with sets := s.core.sets, oh := s.core.oh } } : State) = s)
    ∧ ((s.testSet n.val).answerDue = some due → ∃ t, exec (.silenceProbeTimeout n) s = .next t
      ∧ (t.testSet n.val).state = .silent ∧ (t.testSet n.val).attempt = 0 ∧ (t.testSet n.val).answerDue = none
      ∧ (t.testSet n.val).stream = false
      ∧ (t.testSet n.val).sending.map (·.msg) = (s.testSet n.val).sending.map (·.msg) ++ [.stream false]
      ∧ (∀ k, k ≠ n.val → t.testSet k = s.testSet k)
      ∧ ({ t with core := { t.core with sets := s.core.sets, oh := s.core.oh } } : State) = s)

/-- A first-tag wait or a sample timeout expires on a READY set (R61–R63): the failure is counted, and at the third the set goes SILENT, SOURCE
OFF and STREAM off are sent, its 5 s probe timer starts, and a HELD access on it is released with cause EQUIPMENT (R47). At the first and
the second a step under way is abandoned (R83): it is retried from the start with the retry used, or with it still unused when the wait was
that of the SOURCE that opened the stream; with the retry used before, it is VOID_LOSS and the run goes on, or ends by itself. -/
def Obligations.TestSetFailuresAreCounted : Prop :=
  ∀ (n : Fin 4) (due : Nat) (s : State), s.Quiet → (s.testSet n.val).state = .ready → due ≤ s.core.timeMs →
    ∀ i, (i = .firstTagWaitExpiry n ∧ (s.testSet n.val).firstTagDue = some due)
        ∨ (i = .sampleTimeout n ∧ (s.testSet n.val).sampleDue = some due) →
      ∃ t, exec i s = .next t
        ∧ ((s.testSet n.val).failures ≤ 1 → (t.testSet n.val).state = .ready
            ∧ (t.testSet n.val).failures = (s.testSet n.val).failures + 1 ∧ (t.testSet n.val).firstTagDue = none
            ∧ (t.testSet n.val).sampleDue = none
            ∧ (s.run n.val = none → t.ac = s.ac ∧ t.ms = s.ms ∧ t.core.tc = s.core.tc)
            ∧ ∀ x p st, s.stepUnderWay n.val = some (x, p, st) →
              ((i = .firstTagWaitExpiry n ∧ x.phase = .apply) ∨ (i = .sampleTimeout n ∧ x.phase ≠ .apply)) →
                (x.retryUsed = false →
                  t.run n.val = some { x.entering x.step st.kind x.results (!(s.testSet n.val).stream) with
                    retryUsed := !(decide (i = .firstTagWaitExpiry n) && x.opener) }
                  ∧ (t.testSet n.val).tag = ((s.testSet n.val).tag + 1) % 16 ∧ (t.testSet n.val).stream = true
                  ∧ t.ms.results = s.ms.results ∧ t.ac = s.ac ∧ t.core.lines = s.core.lines ∧ t.core.tc = s.core.tc)
                ∧ (x.retryUsed = true → ∀ q, (s.slot n.val).request = some q →
                  s.stepsFollow t n.val q x p (x.results ++ [voidAs x.step st { voidLoss := true }])))
        ∧ (2 ≤ (s.testSet n.val).failures → (t.testSet n.val).state = .silent ∧ (t.testSet n.val).failures = 3
            ∧ (t.testSet n.val).probeDue = some (s.core.timeMs + 5000) ∧ (t.testSet n.val).stream = false
            ∧ ((s.slot n.val).state = .held → (t.slot n.val).state = .releasing ∧ (t.slot n.val).cause = some .equipment
                ∧ t.run n.val = none)
            ∧ ∃ tag, (t.testSet n.val).sending.map (·.msg) = (s.testSet n.val).sending.map (·.msg)
                ++ [.source tag .tg .off 0 0 .low .dc, .stream false])

/-- The first sample under a step's new tag ends its APPLY (R60, R77, R78): the first-tag wait stops, the sample timeout of 40 ms starts, the
failure count is 0, and the settle end is the step's settle time from now; a sample before it is not accumulated. The settle end of a step
(R78): SETTLE is over, and the step is in ACQUIRE, or ACQUIRE_DOWN on a down ramp; nothing else changes. -/
def Obligations.SettleEndBeginsAcquisition : Prop :=
  (∀ (b : Fin 4) (octets : Octets) (x : Sample) (r : Run) (p : Programme) (st : Step) (s : State), s.Quiet →
    s.csi.imageAwaited = false → (s.testSet b.val).state = .ready → parseSample octets = some x → x.tag = (s.testSet b.val).tag →
    s.stepUnderWay b.val = some (r, p, st) →
      (r.phase = .apply ∨ (r.phase = .settle ∧ ∃ due, r.settleEnd = some due ∧ s.core.timeMs < due)) →
      (r.phase = .apply → 0 < st.settle) → ∃ t, exec (.sampleReceived b octets) s = .next t
        ∧ t.run b.val = some (if r.phase = .apply then
            { r with phase := .settle, settleEnd := some (s.core.timeMs + st.settle) } else r)
        ∧ (t.testSet b.val).expected = (x.index + 1) % 256 ∧ (t.testSet b.val).failures = 0
        ∧ (r.phase = .apply → (t.testSet b.val).firstTagDue = none ∧ (t.testSet b.val).sampleDue = some (s.core.timeMs + 40))
        ∧ (∀ k, k ≠ b.val → t.run k = s.run k) ∧ t.ms.results = s.ms.results ∧ t.ac = s.ac ∧ t.core.lines = s.core.lines)
  ∧ ∀ (b : Fin 4) (r : Run) (due : Nat) (s : State), s.Quiet → s.run b.val = some r → r.phase = .settle → r.settleEnd = some due →
    due ≤ s.core.timeMs → ∃ t, exec (.settleEnd b) s = .next t
      ∧ t.run b.val = some { r with phase := if r.ramp = .down then .acquireDown else .acquire }
      ∧ (∀ k, k ≠ b.val → t.run k = s.run k) ∧ ({ t with ms := { t.ms with runs := s.ms.runs } } : State) = s

/-! ### The Line Watch and retests -/

/-- A hit in the sliding window (R13): with no window, or one older than the hits window, the window restarts at now with a count of 1;
otherwise the count rises by 1. The rest of the line's record, and every other line, stand. A report of the line's own call state counts
nothing; a report that changes it, its count staying below the threshold, is counted so. -/
def Obligations.HitIsCountedInTheWindow : Prop :=
  ∀ (l : Nat) (s : State),
    (∀ start, (s.line l).hitsStart = some start → s.now ≤ start + s.params.hitsWindow →
      (s.countHit l).line l = { s.line l with hits := (s.line l).hits + 1 })
    ∧ ((s.line l).hitsStart = none ∨ (∃ start, (s.line l).hitsStart = some start ∧ start + s.params.hitsWindow < s.now) →
      (s.countHit l).line l = { s.line l with hits := 1, hitsStart := some s.now })
    ∧ (∀ k, k ≠ l → (s.countHit l).line k = s.line k)
    ∧ ({ s.countHit l with core := { (s.countHit l).core with lines := s.core.lines } } : State) = s
    ∧ s.applyReport l (s.line l).callState = s
    ∧ ∀ st, st ≠ (s.line l).callState → ((s.countHit l).line l).hits < s.params.hitsThreshold →
          ((s.applyReport l st).line l).hits = ((s.countHit l).line l).hits
          ∧ ((s.applyReport l st).line l).hitsStart = ((s.countHit l).line l).hitsStart
          ∧ ((s.applyReport l st).line l).callState = st

/-- Retests that fall due (R16, R122). LOCKOUT_DELAY_EXPIRY on a line in lockout for the lockout delay, its access NONE: the LOCKOUT retest is
offered once, whatever becomes of it, and accepted it waits in the queue. RETEST_DUE of a ticket whose time has come: its retest is offered,
and accepted it is outstanding. Both with every fitting slot taken. That the delay runs out at a whole second of the time base, as now
reaches the start plus the delay, is the model's reading (log 54). -/
def Obligations.DueRetestsAreOffered : Prop :=
  (∀ (l : Fin 8192) (start : Nat) (s : State), s.Quiet → (s.line l.val).lockoutStart = some start → (s.line l.val).callState = .lockout →
    start + s.core.oh.params.lockoutDelay ≤ s.now → (s.line l.val).access = .none →
    (∀ b ∈ slotNumbers, ¬((s.slot b).state = .free ∧ (s.testSet b).state = .ready)) →
      ∃ t, exec (.lockoutDelayExpiry l) s = .next t ∧ (t.line l.val).lockoutStart = none ∧ t.ac.slots = s.ac.slots ∧ t.ms = s.ms
        ∧ (∀ k, k ≠ l.val → t.line k = s.line k) ∧ t.core.tc = s.core.tc
        ∧ (s.refusal (s.retestRequest l.val s.core.oh.params.lockoutProgramme .lockout none) = none →
            (t.line l.val).access = .queued ∧ t.ac.queue.length = s.ac.queue.length + 1
            ∧ ∃ q ∈ t.ac.queue, q.cls = .retest ∧ q.line = l.val ∧ q.reason = some .lockout
                ∧ q.programme = some s.core.oh.params.lockoutProgramme)
        ∧ (s.refusal (s.retestRequest l.val s.core.oh.params.lockoutProgramme .lockout none) ≠ none → t.ac = s.ac))
  ∧ ∀ (number : BitVec 16) (t : Ticket) (w : Retest) (due : Nat) (s : State), s.Quiet → s.core.ticket number.toNat = some t →
    t.kind = .line → t.retest = some w → w.due = .dueAt due → due ≤ s.now → w.fellDue = none →
    (∀ b ∈ slotNumbers, ¬((s.slot b).state = .free ∧ (s.testSet b).state = .ready)) →
    s.refusal (s.retestRequest t.subject (s.routineProgramme t.subject) w.reason (some number.toNat)) = none →
      ∃ u, exec (.retestDue number) s = .next u
        ∧ u.core.ticket number.toNat = some { t with retest := some { w with due := .outstanding } }
        ∧ (u.line t.subject).access = .queued ∧ u.ac.queue.length = s.ac.queue.length + 1
        ∧ (∃ q ∈ u.ac.queue, q.cls = .retest ∧ q.line = t.subject ∧ q.reason = some w.reason ∧ q.ticketRef = some number.toNat
            ∧ q.programme = some (((s.line t.subject).programme).getD s.core.oh.params.defaultProgramme) ∧ q.wait = 300)
        ∧ u.ac.slots = s.ac.slots ∧ u.ms = s.ms ∧ u.core.oh = s.core.oh

/-! ### The routine sweep -/

/-- One tick of the 1 ms time base (R149): while RUNNING the increment is added to the accumulator, 16,777,216 is taken off a sum that reaches
it, and a pacing event occurs at that tick; while STOPPED the accumulator keeps its value. The time base counts on. That the event stands
until it is taken or the next tick comes is the model's choice (log 6). -/
def Obligations.TickPacesTheSweep : Prop :=
  ∀ s : State, s.Quiet → exec .timeBaseTick s = .next
    { s with
      core := { s.core with timeMs := s.core.timeMs + 1 }
      rs := { s.rs with
        accumulator := if s.rs.running = true then
            (if s.rs.accumulator + s.rs.increment < 16777216 then s.rs.accumulator + s.rs.increment
              else s.rs.accumulator + s.rs.increment - 16777216)
          else s.rs.accumulator
        eventDue := decide (s.rs.running = true ∧ 16777216 ≤ s.rs.accumulator + s.rs.increment) } }

/-- A pacing event (R150–R153). The pending increment, if any, becomes the increment. With the ROUTINE count at the quota in force, or no range
enabled, the event is lost; without a pacing event there is none to take. A line is eligible when it passes the six tests of R152: tests 1
to 4 leave SKIPPED alone, and a line that passes them and is busy is marked SKIPPED. With the cursor on an eligible line that is not the
last of its range, the line's ROUTINE request enters the queue and the cursor moves to the line after it; with the queue full the event is
lost and the cursor stays. With the cursor on a line that is not eligible and the next one eligible within the range, the first is passed
over and the request is for the second. A request for the last line of the last enabled range ends the pass (R148): the pass count rises,
every SKIPPED flag clears, the cursor goes to the first line of the lowest-numbered enabled range, and the OH is told. And of every scan: it
begins where the cursor settles (R147) and passes over the positions of a chain, through the ends of ranges and of passes. It ends with no
request after 64 positions, or when it has come round to where it began, the cursor at the position after the last; or at the first eligible
line, whose request is made and past which the cursor moves, or, with the queue full, at which it stays. -/
def Obligations.PacingEventOffersALine : Prop :=
  (∀ (l : Nat) (s : State),
    (s.passedOver l = true ↔ (s.shelf (shelfOf l)).state ≠ .serving ∨ (s.line l).routineEnabled = false ∨ (s.line l).ticket ≠ none
      ∨ ((s.line l).group ≤ 126 ∧ ∃ t ∈ s.core.tc.tickets, t.kind = .group ∧ t.subject = (s.line l).group))
    ∧ (s.busyLine l = true ↔ (s.line l).callState ≠ .idle ∨ (s.line l).access ≠ .none))
  ∧ ∀ s : State, s.Quiet →
    (s.rs.eventDue = false → exec .pacingEvent s = .next s)
    ∧ (s.rs.eventDue = true →
      let taken : Rs := { s.rs with
        eventDue := false
        increment := s.rs.pendingIncrement.getD s.rs.increment
        pendingIncrement := none }
      let range := s.rs.range s.rs.cursorRange
      let offers := fun (l : Nat) (t : State) =>
        (t.line l).access = .queued ∧ t.ac.queue.length = s.ac.queue.length + 1
          ∧ (∃ q ∈ t.ac.queue, q.cls = .routine ∧ q.line = l ∧ q.wait = 120
              ∧ q.programme = some (((s.line l).programme).getD s.core.oh.params.defaultProgramme))
          ∧ t.ac.slots = s.ac.slots ∧ t.ms = s.ms ∧ t.htp = s.htp
      ((s.ac.quotaInForce ≤ s.routineCount ∨ ∀ k, k ≤ 15 → (s.rs.range k).enabled = false) →
        exec .pacingEvent s = .next { s with rs := taken })
      ∧ (s.routineCount < s.ac.quotaInForce → s.rs.cursorRange ≤ 15 → range.enabled = true → range.first ≤ s.rs.cursorLine →
        (∀ b ∈ slotNumbers, ¬((s.slot b).state = .free ∧ (s.testSet b).state = .ready)) →
          (s.passedOver s.rs.cursorLine = false → s.busyLine s.rs.cursorLine = false → s.rs.cursorLine < range.last →
            s.ac.queue.length < 32 →
              ∃ t, exec .pacingEvent s = .next t ∧ t.rs = { taken with cursorLine := s.rs.cursorLine + 1 } ∧ offers s.rs.cursorLine t
                ∧ ∀ k, k ≠ s.rs.cursorLine → t.line k = s.line k)
          ∧ (s.passedOver s.rs.cursorLine = false → s.busyLine s.rs.cursorLine = false → s.rs.cursorLine ≤ range.last →
            32 ≤ s.ac.queue.length → exec .pacingEvent s = .next { s with rs := taken })
          ∧ (s.passedOver s.rs.cursorLine = true ∨ s.busyLine s.rs.cursorLine = true → s.rs.cursorLine + 1 < range.last →
            s.passedOver (s.rs.cursorLine + 1) = false → s.busyLine (s.rs.cursorLine + 1) = false → s.ac.queue.length < 32 →
              ∃ t, exec .pacingEvent s = .next t ∧ t.rs = { taken with cursorLine := s.rs.cursorLine + 2 }
                ∧ offers (s.rs.cursorLine + 1) t
                ∧ t.line s.rs.cursorLine = { s.line s.rs.cursorLine with
                    skipped := (s.line s.rs.cursorLine).skipped || !s.passedOver s.rs.cursorLine }
                ∧ ∀ k, k ≠ s.rs.cursorLine → k ≠ s.rs.cursorLine + 1 → t.line k = s.line k)
          ∧ ∀ lowest, s.passedOver s.rs.cursorLine = false → s.busyLine s.rs.cursorLine = false → s.rs.cursorLine = range.last →
            s.ac.queue.length < 32 → (∀ k, s.rs.cursorRange < k → k ≤ 15 → (s.rs.range k).enabled = false) →
            (s.rs.range lowest).enabled = true → (∀ k, k < lowest → (s.rs.range k).enabled = false) → Table.wf {} s.core.lines = true →
              ∃ t, exec .pacingEvent s = .next t ∧ offers s.rs.cursorLine t
                ∧ t.rs = { taken with
                    passCount := (s.rs.passCount + 1) % 65536
                    cursorRange := lowest
                    cursorLine := (s.rs.range lowest).first }
                ∧ t.core.oh.passCount = (s.rs.passCount + 1) % 65536 ∧ (t.line s.rs.cursorLine).skipped = false
                ∧ ∀ k, k ≠ s.rs.cursorLine → t.line k = { s.line k with skipped := false })
      ∧ ∀ (chain : Nat → State) (n : Nat),
        let place := fun m => ((chain m).rs.cursorRange, (chain m).rs.cursorLine)
        let c := chain n
        let l := c.rs.cursorLine
        let eligible := c.passedOver l = false ∧ c.busyLine l = false
        s.routineCount < s.ac.quotaInForce → (∃ k, k ≤ 15 ∧ (s.rs.range k).enabled = true) → Table.wf {} s.core.lines = true →
        ({ s with rs := taken } : State).cursorSettles (chain 0) → n ≤ 64 → (∀ m, m < n → (chain m).passesOver (chain (m + 1))) →
        (∀ m, 0 < m → m < n → place m ≠ place 0) →
          ((n = 64 ∨ (0 < n ∧ place n = place 0) ∨ (eligible ∧ 32 ≤ s.ac.queue.length)) →
            ∃ t, exec .pacingEvent s = .next t ∧ t.rs = c.rs ∧ t.core.oh = c.core.oh ∧ (∀ k, t.line k = c.line k) ∧ s.sweepOnly t)
          ∧ (n < 64 → (0 < n → place n ≠ place 0) → eligible → s.ac.queue.length < 32 →
            (∀ b ∈ slotNumbers, ¬((s.slot b).state = .free ∧ (s.testSet b).state = .ready)) →
              ∃ t, exec .pacingEvent s = .next t
                ∧ c.cursorMoves t (fun k => if k = l then { c.line l with access := .queued } else c.line k) ∧ offers l t))

/-! ### The call guard -/

/-- The eight tests of a call-path order in their order (R171), a line's access given by the line's record, its slot and the slot's request:
an order for a line with held orders is held, or refused with 8 orders held; a DESK access refuses; on a ROUTINE or RETEST access a
CALL_FREE is forwarded and a CALL_SEIZE held with pre-emption, or refused with 8 held; any other order is forwarded. A call-path frame that
ends at the UP port is dealt with so. Forwarded, it joins the DOWN pass buffer. Held, it joins the end of the held-order buffer. Refused, it
is refused as RefusedOrderMakesANotice says. Held with pre-emption, the AC also acts on the slot: a HELD slot releases with cause PRE_EMPTED
and its runs are gone; a RELEASING one goes on; a SEIZING one whose OPERATE is sent is marked, and one marked already keeps its first mark,
which is the model's reading (log 30); and a SEIZING one whose OPERATE waits goes FREE with cause PRE_EMPTED, and the order goes down at
once (of a ROUTINE request, whose line is SKIPPED, with nothing else to offer). -/
def Obligations.GuardDecidesByItsTests : Prop :=
  (∀ (l : Nat) (seize : Bool) (s : State),
    ((∃ h ∈ s.cg.held, h.line = l) → s.cg.held.length < 8 → s.guardDecision l seize = .hold)
    ∧ ((∃ h ∈ s.cg.held, h.line = l) → 8 ≤ s.cg.held.length → s.guardDecision l seize = .refuse .bufferFull)
    ∧ ((∀ h ∈ s.cg.held, h.line ≠ l) →
      (∀ b r, (s.line l).access = .inAccess b → (s.slot b).request = some r →
        ((s.slot b).state = .seizing ∨ (s.slot b).state = .held ∨ (s.slot b).state = .releasing) →
          (r.cls = .desk → s.guardDecision l seize = .refuse .deskTest)
          ∧ (r.cls ≠ .desk → seize = false → s.guardDecision l seize = .forward)
          ∧ (r.cls ≠ .desk → seize = true → s.cg.held.length < 8 → s.guardDecision l seize = .holdAndPreEmpt b)
          ∧ (r.cls ≠ .desk → seize = true → 8 ≤ s.cg.held.length → s.guardDecision l seize = .refuse .bufferFull))
      ∧ (∀ b, (s.line l).access = .inAccess b → (s.slot b).state = .faulted → s.guardDecision l seize = .forward)
      ∧ (((s.line l).access = .queued ∨ (s.line l).access = .none) → s.guardDecision l seize = .forward)))
  ∧ ∀ (f : Octets) (l : Nat) (seize : Bool) (s : State), s.CallOrder f l seize →
    let holding : Cg := { s.cg with held := s.cg.held ++ [{ frame := f, line := l, seize := seize }] }
    (s.guardDecision l seize = .forward → exec (.frameEnd .up f none) s = .next { s with htp := { s.htp with down := { s.htp.down with
        pass := s.htp.down.pass ++ [f], strict := s.htp.down.strict || decide (2 ≤ s.htp.down.pass.length) } } })
    ∧ (s.guardDecision l seize = .hold → exec (.frameEnd .up f none) s = .next { s with cg := holding })
    ∧ (∀ reason, s.guardDecision l seize = .refuse reason →
        exec (.frameEnd .up f none) s = .next (s.refuseOrder f l seize reason))
    ∧ ∀ b : Fin 4, s.guardDecision l seize = .holdAndPreEmpt b.val →
      ((s.slot b.val).state = .held → ∃ t, exec (.frameEnd .up f none) s = .next t ∧ t.cg = holding ∧ t.htp.down.pass = s.htp.down.pass
        ∧ (t.slot b.val).state = .releasing ∧ (t.slot b.val).cause = some .preEmpted ∧ (t.slot b.val).attempt = 1
        ∧ (t.slot b.val).order = s.madeReady .release ∧ t.run b.val = none ∧ t.pendingRun b.val = none
        ∧ ∀ k, k ≠ b.val → t.slot k = s.slot k)
      ∧ ((s.slot b.val).state = .releasing → exec (.frameEnd .up f none) s = .next { s with cg := holding })
      ∧ ((s.slot b.val).state = .seizing → (∀ op, (s.slot b.val).order ≠ .waiting op) →
        ∃ t, exec (.frameEnd .up f none) s = .next t ∧ t.cg = holding ∧ t.htp = s.htp
          ∧ t.slot b.val = { s.slot b.val with ended := true, mark := some ((s.slot b.val).mark.getD .preEmpted) }
          ∧ ∀ k, k ≠ b.val → t.slot k = s.slot k)
      ∧ ∀ r op, (s.slot b.val).state = .seizing → (s.slot b.val).order = .waiting op → (s.slot b.val).request = some r → r.line = l →
        r.cls = .routine → (s.slot b.val).ended = false → s.ac.queue = [] → s.noRetests → s.LineRests l →
          ∃ t, exec (.frameEnd .up f none) s = .next t ∧ t.cg = s.cg ∧ t.htp.down.pass = s.htp.down.pass ++ [f]
            ∧ (t.slot b.val).state = .free ∧ (t.slot b.val).cause = some .preEmpted ∧ (t.slot b.val).request = none
            ∧ (t.line l).access = .none ∧ (t.line l).skipped = true
            ∧ (t.shelf (shelfOf l)).freePairs = min 2 ((s.shelf (shelfOf l)).freePairs + 1) ∧ t.core.tc = s.core.tc ∧ t.ms = s.ms
            ∧ ∀ k, k ≠ b.val → t.slot k = s.slot k

/-- A refused call-path order is gone (R174, R175): its notice enters the UP queue while none waits and the queue holds fewer than 16
frames, and otherwise joins the waiting list of at most 8; GUARD_REFUSED is latched. With 16 frames and 8 notices the order is forwarded
instead. When a line is told free its held orders go into the DOWN pass buffer in the order they entered, behind every frame in it, and
those of other lines keep their places (R176). -/
def Obligations.RefusedOrderMakesANotice : Prop :=
  (∀ (f : Octets) (l : Nat) (seize : Bool) (reason : GuardReason) (s : State),
    let notice : GuardNotice := { refusedKind := f.getD 2 0, seize := seize, line := l, reason := reason }
    (s.htp.up.insertion.length < 16 → s.cg.waiting = [] →
      (s.refuseOrder f l seize reason).htp.up.insertion = s.htp.up.insertion ++
          [{ octets := highwayFrame 0 s.core.oh.station kindGuard (guardPayload notice) }]
      ∧ (s.refuseOrder f l seize reason).cg = s.cg ∧ (s.refuseOrder f l seize reason).core.oh.latch.guardRefused = true
      ∧ (s.refuseOrder f l seize reason).htp.down = s.htp.down)
    ∧ ((s.cg.waiting ≠ [] ∨ 16 ≤ s.htp.up.insertion.length) → s.cg.waiting.length < 8 →
      (s.refuseOrder f l seize reason).htp = s.htp
      ∧ (s.refuseOrder f l seize reason).cg = { s.cg with waiting := s.cg.waiting ++ [notice] }
      ∧ (s.refuseOrder f l seize reason).core.oh.latch.guardRefused = true)
    ∧ (16 ≤ s.htp.up.insertion.length → 8 ≤ s.cg.waiting.length →
      (s.refuseOrder f l seize reason).htp.down.pass = s.htp.down.pass ++ [f] ∧ (s.refuseOrder f l seize reason).cg = s.cg
      ∧ (s.refuseOrder f l seize reason).core = s.core ∧ (s.refuseOrder f l seize reason).htp.up = s.htp.up))
  ∧ ∀ (l : Nat) (s : State),
    (s.releaseHeld l).htp.down.pass = s.htp.down.pass ++ (s.cg.held.filter fun h => decide (h.line = l)).map (·.frame)
    ∧ (s.releaseHeld l).cg = { s.cg with held := s.cg.held.filter fun h => decide (h.line ≠ l) }
    ∧ (s.releaseHeld l).htp.down.insertion = s.htp.down.insertion ∧ (s.releaseHeld l).htp.up = s.htp.up
    ∧ (s.releaseHeld l).core = s.core ∧ (s.releaseHeld l).ac = s.ac ∧ (s.releaseHeld l).ms = s.ms

/-! ### Arithmetic, tickets and groups -/

/-- The integer arithmetic of the MAU. isqrt is the floor of the square root (Introduction). A quotient is rounded half away from zero, on
magnitudes: times the divisor it differs from the dividend by at most half the divisor, a half going to the greater magnitude. The mean
voltage is SV × 10 / N and the mean current SI × lsb / N so rounded, lsb 5 for range LOW and 1,000 for range HIGH (R92). -/
def Obligations.MeansAndRootsAreExact : Prop :=
  (∀ n : Nat, isqrt n * isqrt n ≤ n ∧ n < (isqrt n + 1) * (isqrt n + 1))
  ∧ (∀ (a : Int) (b : Nat), 0 < b → rounded (-a) b = -rounded a b)
  ∧ (∀ (a b : Nat), 0 < b → 0 ≤ rounded a b ∧ 2 * (b : Int) * rounded a b ≤ 2 * a + b ∧ (2 * a + b : Int) < 2 * b * (rounded a b + 1))
  ∧ ∀ (a : Accum) (n : Nat), 0 < n →
    let lsb : Int := match a.range with
      | .low => 5
      | .high => 1000
    (0 ≤ a.sv → 2 * (n : Int) * a.meanVoltage n ≤ 20 * a.sv + n ∧ 20 * a.sv + n < 2 * n * (a.meanVoltage n + 1))
    ∧ (a.sv < 0 → 2 * (n : Int) * -a.meanVoltage n ≤ -20 * a.sv + n ∧ -20 * a.sv + n < 2 * n * (-a.meanVoltage n + 1))
    ∧ (0 ≤ a.si → 2 * (n : Int) * a.meanCurrent n ≤ 2 * a.si * lsb + n ∧ 2 * a.si * lsb + n < 2 * n * (a.meanCurrent n + 1))
    ∧ (a.si < 0 → 2 * (n : Int) * -a.meanCurrent n ≤ -2 * a.si * lsb + n ∧ -2 * a.si * lsb + n < 2 * n * (-a.meanCurrent n + 1))

/-- The value, the channel and the verdict of a step. A DCV value is the mean voltage (R93); an ACV value is floor(isqrt(100 × Q) / N)
with Q = N × SV2 − SV² (R94). The foreign voltage is the value of the run's last DCV result on the lead pair that is not VOID, and 0 where
there is none (R95). A resistance below the current floor is 999,999,999 and OPEN; any other is |Vnet| / |I| rounded half up and clamped
(R96), with REVERSE alone when Vnet and I are nonzero and of opposite signs (R97). A capacitance of D ≤ 0 is 0 with REVERSE, any other D ×
10 / (2 × S) rounded half up and clamped (R99). An overload replaces the value and bears OVERRANGE alone; current overload is examined
first, and with its mark set a DCV and an ACV step are computed, even where the voltage mark is set too: R100's table read literally (log
42). The channel follows kind and lead pair (R101). A channel that started FAIL is judged on limits tightened by the hysteresis (R102). A
step is NONE when it is VOID or has no limit that serves, and otherwise FAIL exactly when its figure is below the effective low limit or
above the effective high one (R103). CHECK returns the step number, the channel, and this value with its qualifiers and verdict, from the
run's accumulators, its earlier results and the channel's verdict at its start (R104). -/
def Obligations.ValuesAreJudgedByTheLimits : Prop :=
  (∀ (vnet i : Int) (lsb : Nat), (i.natAbs < 2 * lsb → (resistance vnet i lsb).value = 999999999
      ∧ (resistance vnet i lsb).quals = { openCircuit := true })
    ∧ (2 * lsb ≤ i.natAbs → 0 < lsb → (resistance vnet i lsb).value =
        min 999999999 ((2 * vnet.natAbs * 1000000 + i.natAbs) / (2 * i.natAbs) : Nat)
      ∧ (resistance vnet i lsb).quals = { reverse := decide ((vnet < 0 ∧ 0 < i) ∨ (0 < vnet ∧ i < 0)) }))
  ∧ (∀ (iUp iDown : Int) (slope : Nat), 0 < slope →
      (iUp ≤ iDown → (capacitance iUp iDown slope).value = 0 ∧ (capacitance iUp iDown slope).quals = { reverse := true })
      ∧ (iDown < iUp → (capacitance iUp iDown slope).value = min 65535 (((iUp - iDown) * 10 + slope) / (2 * slope))
          ∧ (capacitance iUp iDown slope).quals = {}))
  ∧ (∀ (st : Step) (working held : Accum) (vf : Int),
      let figure := figureOf st working held vf
      let overranged := fun (v : Int) => ({ value := v, quals := { overrange := true } } : Figure)
      (st.kind = .dcv →
        (working.overI = false → ∀ positive, working.overV = some positive → figure = overranged (if positive then 327670 else -327670))
        ∧ (working.overI = true ∨ working.overV = none → figure = { value := working.meanVoltage st.samples }))
      ∧ (st.kind = .acv →
        (working.overI = false → working.overV.isSome = true → figure = overranged 327670)
        ∧ (working.overI = true ∨ working.overV = none → figure = { value := working.acVoltage st.samples }))
      ∧ ((st.kind = .resIns ∨ st.kind = .resLoop) →
        (working.overI = true → figure = overranged 0)
        ∧ (working.overI = false → working.overV.isSome = true → figure = overranged 999999999)
        ∧ (working.overI = false → working.overV = none → figure =
            resistance (working.meanVoltage st.samples - vf) (working.meanCurrent st.samples) working.range.lsb))
      ∧ (st.kind = .cap →
        ((working.overI = true ∨ held.overI = true) → figure = overranged 65535)
        ∧ (working.overI = false → held.overI = false → figure =
            capacitance (held.meanCurrent st.samples) (working.meanCurrent st.samples) st.slope)))
  ∧ (∀ (a : Accum) (n : Nat), ∃ root : Nat, root * root ≤ 100 * ((n : Int) * a.sv2 - a.sv * a.sv).toNat
      ∧ 100 * ((n : Int) * a.sv2 - a.sv * a.sv).toNat < (root + 1) * (root + 1) ∧ a.acVoltage n = (root / n : Nat))
  ∧ (∀ (m : Ms) (p : Programme) (results : List StepResult) (pair : LeadPair),
      let serves := fun (r : StepResult) =>
        ∃ st, m.stepOf p r.step = some st ∧ st.kind = .dcv ∧ st.pair = pair ∧ r.quals.isVoid = false
      ((∀ r ∈ results, ¬serves r) → m.foreignVoltage p results pair = 0)
      ∧ ∀ before r after, results = before ++ r :: after → serves r → (∀ x ∈ after, ¬serves x) →
          m.foreignVoltage p results pair = r.value)
  ∧ (∀ (m : Ms) (r : Run) (p : Programme) (st : Step),
      let figure := figureOf st r.working (r.held.getD {}) (m.foreignVoltage p r.results st.pair)
      let channel := channelOf st.kind st.pair
      let verdict := verdictOf st.kind (st.limitSet.map m.limit) (r.start.get channel) channel figure.value
      m.check r p st = { step := r.step, channel := channel, value := figure.value, quals := figure.quals, verdict := verdict })
  ∧ (∀ pair, channelOf .dcv pair = .fv ∧ channelOf .acv pair = .fv ∧ channelOf .resLoop pair = .loop ∧ channelOf .cap pair = .cap)
  ∧ channelOf .resIns .tg = .irTg ∧ channelOf .resIns .rg = .irRg ∧ channelOf .resIns .tr = .irTr
  ∧ (∀ (k : Nat) (st : Step) (q : Quals), (voidResult k st q).channel = channelOf st.kind st.pair ∧ (voidResult k st q).verdict = .unset)
  ∧ (∀ (lim : LimitSet) (start : Verdict),
      lim.effectiveLow start = lim.low.map (fun low => if start = .fail then low + low * lim.hysteresis / 100 else low)
      ∧ lim.effectiveHigh start = lim.high.map (fun high => if start = .fail then high - high * lim.hysteresis / 100 else high))
  ∧ ∀ (kind : Kind) (limit : Option LimitSet) (start : Verdict) (c : Channel) (v : Int),
      let figure : Int := if c = .fv then v.natAbs else v
      (limit = none → verdictOf kind limit start c v = .unset)
      ∧ ∀ lim, limit = some lim →
        ((lim.unit ≠ kind.unit ∨ (lim.low = none ∧ lim.high = none)) → verdictOf kind limit start c v = .unset)
        ∧ (lim.unit = kind.unit → (lim.low ≠ none ∨ lim.high ≠ none) →
          (verdictOf kind limit start c v = .fail ↔ (∃ low, lim.effectiveLow start = some low ∧ figure < low)
              ∨ ∃ high : Nat, lim.effectiveHigh start = some high ∧ high < figure)
          ∧ (verdictOf kind limit start c v = .good ↔ (∀ low, lim.effectiveLow start = some low → low ≤ figure)
              ∧ ∀ high : Nat, lim.effectiveHigh start = some high → figure ≤ high))

/-- What a run does to the tickets. A ROUTINE run judged FAIL on a line with no ticket, in a table with room and outside a standing group,
makes a PROVISIONAL ticket that wants a CONFIRM retest after the confirm delay, with no notice and no count (R117, R118); the line's
record names it. With no group of the cable standing or near: a direct failure (R119) on a line with no ticket makes an OPEN one, its
notice due; on a line with a ticket that stands alone, it and a ROUTINE FAIL update the ticket (R120), opening a PROVISIONAL one if
direct, reopening a VERIFYING or CLOSING one, with a notice when its class is raised, it is opened or reopened. A matched CONFIRM retest
judged GOOD discards its ticket, judged FAIL opens it, its class raised within the family and replaced across families (R121). An attempt
makes a retest due after the confirm delay, or when idle after a pre-emption; at 3 a CONFIRM retest is given up and the ticket is OPEN and
UNCONFIRMED; a run aborted by a call with no FAIL changes nothing (R123). A retest is matched here only while it is outstanding, which is
the model's choice (log 18): R116 also matches one that its own pre-empted return has made due when idle, and a FAIL of such a one is here
a direct failure; the model hands a run over before its retest returns, so that none does so there. A matched VERIFY retest judged GOOD
makes the ticket CLOSING, judged FAIL reopens it (R126). An equipment ticket asked for again counts the report, and a CLOSING one is
reopened (R127). -/
def Obligations.RoutineFailureMakesAProvisionalTicket : Prop :=
  (∀ (r : Request) (cls : FaultClass) (results : List StepResult) (c : Core), r.cls = .routine → (c.line r.line).ticket = none →
    c.tc.tickets.length < 256 →
    (∀ g, cls.family = some g → ∀ t ∈ c.tc.tickets, ¬(t.kind = .group ∧ t.subject = (c.line r.line).group ∧ t.cls = .family g)) →
      ∃ n t, (c.handOver r .complete (some cls) results false).tc.tickets = c.tc.tickets ++ [t] ∧ t.number = n
        ∧ t.kind = .line ∧ t.subject = r.line ∧ t.cls = .fault cls ∧ t.severity = cls.severity ∧ t.state = .provisional
        ∧ t.firstSeen = c.now ∧ t.lastSeen = c.now ∧ t.occurrences = 1 ∧ t.reopened = 0 ∧ t.parent = none
        ∧ t.retest = some { reason := .confirm, attempts := 0, due := .dueAt (c.now + c.oh.params.confirmDelay) }
        ∧ t.noticePending = false ∧ t.lastValues = valuesFrom results
        ∧ (c.handOver r .complete (some cls) results false).tc.notices = c.tc.notices
        ∧ (c.handOver r .complete (some cls) results false).oh = c.oh
        ∧ ((c.handOver r .complete (some cls) results false).line r.line).ticket = some n)
  ∧ (∀ (r : Request) (outcome : RunOutcome) (fault : Option FaultClass) (results : List StepResult) (degrading : Bool)
      (cls : FaultClass) (c : Core), (c.tc.tickets.map (·.number)).Nodup → c.farFromGroup r.line →
    let d := c.handOver r outcome fault results degrading
    (c.direct r outcome fault degrading cls → (c.line r.line).ticket = none → c.tc.tickets.length < 256 →
      (∀ t ∈ c.tc.tickets, t.number ≠ c.tc.freeNumber 256 c.tc.counter) →
        ∃ t, d.tc.tickets = c.tc.tickets ++ [t] ∧ t.number = c.tc.freeNumber 256 c.tc.counter
          ∧ t.kind = .line ∧ t.subject = r.line ∧ t.cls = .fault cls ∧ t.severity = cls.severity ∧ t.state = .opened
          ∧ t.firstSeen = c.now ∧ t.lastSeen = c.now ∧ t.occurrences = 1 ∧ t.reopened = 0 ∧ t.parent = none ∧ t.retest = none
          ∧ t.unconfirmed = false ∧ t.noticePending = true ∧ t.lastValues = valuesFrom results
          ∧ d.tc.notices = c.tc.notices ++ [t.number]
          ∧ (d.line r.line).ticket = some t.number ∧ (d.line r.line).unticketed = false)
    ∧ (∀ n t, (c.line r.line).ticket = some n → c.ticket n = some t → t.kind = .line → t.subject = r.line → t.parent = none →
        (c.direct r outcome fault degrading cls ∨ (r.cls = .routine ∧ fault = some cls ∧ degrading = false)) →
        let raised := decide (t.severity < cls.severity)
        let u : Ticket := { t with
          lastSeen := c.now
          occurrences := min 255 (t.occurrences + 1)
          unconfirmed := false
          lastValues := if degrading then t.lastValues else valuesFrom results
          cls := if raised then .fault cls else t.cls
          severity := if raised then cls.severity else t.severity }
        (t.state = .provisional → r.cls = .routine → degrading = false → c.ticketBecomes d n u false)
        ∧ (t.state = .provisional → c.direct r outcome fault degrading cls →
            c.ticketBecomes d n { u with state := .opened, retest := none } true)
        ∧ (t.state = .opened ∨ t.state = .acknowledged → c.ticketBecomes d n u raised)
        ∧ (t.state = .verifying ∨ t.state = .closing →
            c.ticketBecomes d n { u with state := .opened, reopened := min 15 (t.reopened + 1), retest := none } true)))
  ∧ (∀ (r : Request) (reason : Reason) (t : Ticket) (w : Retest) (outcome : RunOutcome) (fault : Option FaultClass)
      (results : List StepResult) (c : Core), (c.tc.tickets.map (·.number)).Nodup → c.farFromGroup r.line → c.matchedWith r reason t →
    t.retest = some w → t.parent = none →
    let d := c.handOver r outcome fault results false
    let updated := fun (cls : FaultClass) (raised : Bool) => ({ t with
      lastSeen := c.now
      occurrences := min 255 (t.occurrences + 1)
      unconfirmed := false
      lastValues := valuesFrom results
      state := .opened
      retest := none
      cls := if raised then .fault cls else t.cls
      severity := if raised then cls.severity else t.severity } : Ticket)
    let again := fun (due : Due) => ({ t with
      retest := some { reason := reason, attempts := min 3 (w.attempts + 1), due := due } } : Ticket)
    let givenUp : Ticket := { t with state := .opened, retest := none, unconfirmed := true }
    (reason = .confirm → fault = none → outcome = .complete → d.ticket t.number = none
      ∧ d.tc.tickets = c.tc.tickets.filter (fun k => decide (k.number ≠ t.number))
      ∧ d.tc.notices = c.tc.notices.filter (fun m => decide (m ≠ t.number))
      ∧ ((c.line r.line).ticket = some t.number → d.line r.line = { c.line r.line with ticket := none }))
    ∧ (∀ cls, reason = .confirm → fault = some cls →
        let one : Prop := t.cls = .fault cls ∨ (∃ f, cls.family = some f ∧ ∃ k, t.cls = .fault k ∧ k.family = some f)
        (∃ k, t.cls = .fault k) → (one → c.ticketBecomes d t.number (updated cls (decide (t.severity < cls.severity))) true)
          ∧ (¬one → c.ticketBecomes d t.number (updated cls true) true))
    ∧ (reason = .verify → fault = none → outcome = .complete →
        c.ticketBecomes d t.number { t with state := .closing, retest := none } true)
    ∧ (∀ cls, reason = .verify → fault = some cls → t.state = .verifying →
        c.ticketBecomes d t.number
          { updated cls (decide (t.severity < cls.severity)) with reopened := min 15 (t.reopened + 1) } true)
    ∧ ((reason = .confirm ∨ reason = .verify) → fault = none → outcome = .abortedCall → d = c)
    ∧ (∀ preEmpted, (reason = .confirm ∨ reason = .verify) →
        let e := if preEmpted then c.retestReturned r true else d
        (preEmpted = false → fault = none ∧ outcome ≠ .complete ∧ outcome ≠ .abortedCall) →
          (reason = .confirm → 2 ≤ w.attempts → c.ticketBecomes e t.number givenUp true)
          ∧ (reason = .verify ∨ w.attempts < 2 → c.ticketBecomes e t.number
              (again (if preEmpted then .whenIdle else .dueAt (c.now + c.oh.params.confirmDelay))) false)))
  ∧ ∀ (kind : TicketKind) (subject : Nat) (cls : FaultClass) (k : Ticket) (c : Core), (c.tc.tickets.map (·.number)).Nodup →
    ((kind = .shelf ∧ (c.shelf subject).ticket = some k.number ∧ c.ticket k.number = some k)
      ∨ (kind = .testSet ∧ (c.testSet subject).ticket = some k.number ∧ c.ticket k.number = some k)
      ∨ (kind = .bus ∧ c.tc.tickets.find? (fun u => decide (u.kind = .bus ∧ u.subject = subject)) = some k)) → k.parent = none →
      let u : Ticket := { k with lastSeen := c.now, occurrences := min 255 (k.occurrences + 1) }
      (k.state = .opened ∨ k.state = .acknowledged → c.ticketBecomes (c.askEquipment kind subject cls) k.number u false)
      ∧ (k.state = .closing → c.ticketBecomes (c.askEquipment kind subject cls) k.number
          { u with state := .opened, reopened := min 15 (k.reopened + 1) } true)

/-- The tickets of a cable. The qualifying tickets of a group and family are those of R134, by first seen and then by number; the families are
R113's. Examined (R136), the record lists them, and below the threshold, or while a group ticket stands, nothing more is done. At the
threshold, with room and no GROUP ticket of theirs, they form their group (R137): one GROUP ticket, OPEN, of the highest severity, with
them all as its children; GROUP_FORMED is latched. In a full table the oldest PROVISIONAL ticket makes room, and with none TICKETS_FULL is
latched and no group is formed (R115, R138). A CLOSING group ticket is revived (R138), its notice keeping its place. A direct failure that
makes the ticket that reaches the threshold sees it gathered. A standing group adopts a ticket created on its cable, and one that leaves
PROVISIONAL by a direct failure, a CONFIRM retest judged FAIL or its giving up (R139). A failure of an OPEN or ACKNOWLEDGED child updates it
and raises its group, and one into the other family releases it (R140, R141); a failure of a VERIFYING child, or a VERIFY retest judged
FAIL, reopens and releases it, GOOD takes it from the table, and no verdict has it fall due again (R143). A LOAD LINE that moves its line
releases it (R141). The group's notice goes before the released child's: the model's choice (log 56); that the severity reaches the group
first, the model's reading (log 33). A retest is matched only while it is outstanding: the model's choice (log 18). -/
def Obligations.GroupFormsAtItsThreshold : Prop :=
  (∀ k : FaultClass, k.family = if k ∈ [.foreignVoltage, .shortTr, .groundT, .groundR, .lowInsulation] then some .wet
    else if k ∈ [.openLoop, .highLoop] then some .brk else none)
  ∧ (∀ (key : Nat) (c : Core),
    (∀ t, t ∈ c.qualifying key ↔ t ∈ c.tc.tickets ∧ t.kind = .line ∧ (c.line t.subject).group ≤ 126 ∧ (c.line t.subject).group = key / 2
      ∧ t.cls.familyOf = some (if key % 2 = 0 then .wet else .brk) ∧ (t.state = .opened ∨ t.state = .acknowledged) ∧ t.parent = none
      ∧ c.now - t.firstSeen ≤ c.oh.params.groupWindow)
    ∧ (c.qualifying key).Pairwise (fun a b => a.firstSeen < b.firstSeen ∨ (a.firstSeen = b.firstSeen ∧ a.number ≤ b.number))
    ∧ ((c.tc.tickets.map (·.number)).Nodup → ((c.qualifying key).map (·.number)).Nodup)
    ∧ (let isGroup := fun g : Ticket => g ∈ c.tc.tickets ∧ g.kind = .group ∧ g.subject = key / 2
        ∧ g.cls = .family (if key % 2 = 0 then .wet else .brk)
       (∀ g, c.groupTicket key = some g → isGroup g) ∧ (c.groupTicket key = none → ∀ g, ¬isGroup g)))
  ∧ (∀ ts, (∀ t ∈ ts, t.severity ≤ highestSeverity ts) ∧ (ts ≠ [] → ∃ t ∈ ts, t.severity = highestSeverity ts))
  ∧ (∀ (key : Nat) (c : Core),
      (c.qualifying key).length < c.oh.params.groupThreshold ∨ (∃ g, c.groupTicket key = some g ∧ g.state ≠ .closing) →
      let d := c.examineGroup key
      ({ d with gm := c.gm } : Core) = c ∧ Table.get [] d.gm.members key = (c.qualifying key).map (·.number))
  ∧ (∀ (key : Nat) (c : Core), c.oh.params.groupThreshold ≤ (c.qualifying key).length → c.groupTicket key = none →
    c.tc.tickets.length < 256 → (c.tc.tickets.map (·.number)).Nodup →
    (∀ t ∈ c.tc.tickets, t.number ≠ c.tc.freeNumber 256 c.tc.counter) →
      let d := c.examineGroup key
      (∃ g ∈ d.tc.tickets, g.number = c.tc.freeNumber 256 c.tc.counter ∧ g.kind = .group ∧ g.subject = key / 2
        ∧ g.cls = .family (if key % 2 = 0 then .wet else .brk) ∧ g.state = .opened
        ∧ g.severity = highestSeverity (c.qualifying key) ∧ g.childCount = (c.qualifying key).length
        ∧ g.occurrences = min 255 (c.qualifying key).length ∧ g.firstSeen = c.now ∧ g.lastSeen = c.now ∧ g.reopened = 0
        ∧ g.lastValues = [] ∧ g.retest = none ∧ g.parent = none ∧ g.unconfirmed = false ∧ g.noticePending = true
        ∧ (∀ m ∈ c.qualifying key, ∃ t ∈ d.tc.tickets, t.number = m.number ∧ t.parent = some g.number
            ∧ t.state = m.state ∧ t.cls = m.cls ∧ t.noticePending = false)
        ∧ c.gathered d { g with noticePending := false } (c.qualifying key))
      ∧ d.oh.latch.groupFormed = true ∧ d.tc.tickets.length = c.tc.tickets.length + 1 ∧ Table.get [] d.gm.members key = [])
  ∧ (∀ (key : Nat) (c : Core), c.oh.params.groupThreshold ≤ (c.qualifying key).length → c.groupTicket key = none →
    256 ≤ c.tc.tickets.length → (c.tc.tickets.map (·.number)).Nodup →
      let d := c.examineGroup key
      ((∀ t ∈ c.tc.tickets, t.state ≠ .provisional) → d.tc = c.tc ∧ d.lines = c.lines
        ∧ d.oh = if c.oh.latch.ticketsFull then c.oh else { c.oh with
            latch := { c.oh.latch with ticketsFull := true }
            attentionSent := true
            waiting := if c.oh.attentionSent then c.oh.waiting else c.oh.waiting ++ [.attention] })
      ∧ ∀ p before behind, c.tc.tickets = before ++ p :: behind → p.state = .provisional → (∀ t ∈ before, t.state ≠ .provisional) →
        (∀ t ∈ c.tc.tickets, t.number ≠ c.tc.freeNumber 256 c.tc.counter) →
          p ∉ d.tc.tickets ∧ d.tc.tickets.length = c.tc.tickets.length
          ∧ ∃ g ∈ d.tc.tickets, g.kind = .group ∧ g.subject = key / 2 ∧ g.cls = .family (if key % 2 = 0 then .wet else .brk)
            ∧ g.state = .opened ∧ g.childCount = (c.qualifying key).length
            ∧ ∀ m ∈ c.qualifying key, ∃ t ∈ d.tc.tickets, t.number = m.number ∧ t.parent = some g.number)
  ∧ (∀ (key : Nat) (g : Ticket) (c : Core), c.oh.params.groupThreshold ≤ (c.qualifying key).length → c.groupTicket key = some g →
    g.state = .closing → g.parent = none → (c.tc.tickets.map (·.number)).Nodup →
      let d := c.examineGroup key
      c.gathered d { g with
        state := .opened
        reopened := min 15 (g.reopened + 1)
        lastSeen := c.now
        severity := max g.severity (highestSeverity (c.qualifying key)) } (c.qualifying key)
      ∧ d.tc.tickets.length = c.tc.tickets.length ∧ Table.get [] d.gm.members key = [])
  ∧ (∀ (r : Request) (outcome : RunOutcome) (cls : FaultClass) (f : Family) (results : List StepResult) (c : Core),
    (c.tc.tickets.map (·.number)).Nodup → c.direct r outcome (some cls) false cls → cls.family = some f →
    (c.line r.line).group ≤ 126 → (c.line r.line).ticket = none →
      let key := 2 * (c.line r.line).group + f.index
      let d := c.handOver r outcome (some cls) results false
      c.groupTicket key = none → c.oh.params.groupThreshold ≤ (c.qualifying key).length + 1 → c.tc.tickets.length + 2 ≤ 256 →
      1 ≤ c.tc.counter → c.tc.counter ≤ 65535 →
        ∃ t ∈ d.tc.tickets, ∃ g ∈ d.tc.tickets, (d.line r.line).ticket = some t.number ∧ t.number = c.tc.freeNumber 256 c.tc.counter
          ∧ t.kind = .line ∧ t.subject = r.line ∧ t.cls = .fault cls ∧ t.state = .opened ∧ t.parent = some g.number
          ∧ t.noticePending = false ∧ g.kind = .group ∧ g.subject = (c.line r.line).group ∧ g.cls = .family f ∧ g.state = .opened
          ∧ g.childCount = (c.qualifying key).length + 1 ∧ g.noticePending = true ∧ d.oh.latch.groupFormed = true
          ∧ d.tc.tickets.length = c.tc.tickets.length + 2)
  ∧ (∀ (r : Request) (outcome : RunOutcome) (cls : FaultClass) (f : Family) (results : List StepResult) (g : Ticket) (c : Core),
    (c.tc.tickets.map (·.number)).Nodup → (c.line r.line).group ≤ 126 →
    c.groupTicket (2 * (c.line r.line).group + f.index) = some g → g.state ≠ .closing → g.parent = none →
      let n := c.tc.freeNumber 256 c.tc.counter
      let d := c.handOver r outcome (some cls) results false
      (r.cls = .routine ∨ c.direct r outcome (some cls) false cls →
        (cls.family = some f → (c.line r.line).ticket = none → c.tc.tickets.length < 256 → (∀ t ∈ c.tc.tickets, t.number ≠ n) →
          c.adopted d
              { number := n, kind := .line, subject := r.line, cls := .fault cls, severity := cls.severity, state := .opened,
                firstSeen := c.now, lastSeen := c.now, lastValues := valuesFrom results, creation := c.tc.created } g
            ∧ (d.line r.line).ticket = some n ∧ (d.line r.line).unticketed = false)
        ∧ ∀ t k, c.direct r outcome (some cls) false cls → (c.line r.line).ticket = some t.number → c.ticket t.number = some t →
          t.kind = .line → t.subject = r.line → t.cls = .fault k → t.state = .provisional →
            let raised := decide (t.severity < cls.severity)
            (if raised then cls else k).family = some f →
              c.adopted d { t with
                lastSeen := c.now
                occurrences := min 255 (t.occurrences + 1)
                unconfirmed := false
                lastValues := valuesFrom results
                cls := .fault (if raised then cls else k)
                severity := if raised then cls.severity else t.severity } g)
      ∧ ∀ t k, c.matchedWith r .confirm t → t.cls = .fault k → t.state = .provisional →
          (let raised := decide (t.severity < cls.severity ∨ ¬(k = cls ∨ (k.family = cls.family ∧ k.family ≠ none)))
           (if raised then cls else k).family = some f →
              c.adopted d { t with
                lastSeen := c.now
                occurrences := min 255 (t.occurrences + 1)
                unconfirmed := false
                lastValues := valuesFrom results
                cls := .fault (if raised then cls else k)
                severity := if raised then cls.severity else t.severity } g)
          ∧ (k.family = some f → (∃ w, t.retest = some w ∧ 2 ≤ w.attempts) → outcome ≠ .complete → outcome ≠ .abortedCall →
              c.adopted (c.handOver r outcome none results false) { t with unconfirmed := true } g))
  ∧ (∀ (r : Request) (outcome : RunOutcome) (fault : Option FaultClass) (results : List StepResult) (degrading : Bool) (t g : Ticket)
      (k : FaultClass) (c : Core), (c.tc.tickets.map (·.number)).Nodup → c.ticket t.number = some t → t.kind = .line → t.subject = r.line →
    t.cls = .fault k → t.parent = some g.number → c.ticket g.number = some g → g.kind = .group → g.parent = none →
    (∀ key, key / 2 = (c.line r.line).group → (c.qualifying key).length + 1 < c.oh.params.groupThreshold) →
      let d := c.handOver r outcome fault results degrading
      let updated := fun (cls : FaultClass) => ({ t with
        lastSeen := c.now
        occurrences := min 255 (t.occurrences + 1)
        unconfirmed := false
        lastValues := if degrading then t.lastValues else valuesFrom results
        cls := if t.severity < cls.severity then .fault cls else t.cls
        severity := if t.severity < cls.severity then cls.severity else t.severity } : Ticket)
      let again := fun (cls : FaultClass) => ({ updated cls with
        state := .opened
        reopened := min 15 (t.reopened + 1)
        retest := none } : Ticket)
      (∀ cls, (c.line r.line).ticket = some t.number →
        c.direct r outcome fault degrading cls ∨ (r.cls = .routine ∧ fault = some cls ∧ degrading = false) →
          let shown := if t.severity < cls.severity then cls.severity else 0
          (t.state = .opened ∨ t.state = .acknowledged →
            (t.severity < cls.severity → cls.family ≠ k.family → (c.line r.line).group ≤ 126 → c.released d (updated cls) g shown)
            ∧ (cls.family = k.family ∨ cls.severity ≤ t.severity → d.ticket t.number = some (updated cls)
              ∧ d.ticket g.number = some { g with
                  severity := max g.severity shown
                  noticePending := g.noticePending || decide (g.severity < shown) }
              ∧ d.tc.notices = c.tc.notices ++ (if g.severity < shown ∧ g.noticePending = false then [g.number] else [])
              ∧ ∀ m, m ≠ t.number → m ≠ g.number → d.ticket m = c.ticket m))
          ∧ (t.state = .verifying → c.released d (again cls) g 0))
      ∧ (c.matchedWith r .verify t → degrading = false → t.state = .verifying →
        (∀ cls, fault = some cls → c.released d (again cls) g 0)
        ∧ (fault = none → outcome = .complete → d.ticket t.number = none
          ∧ d.ticket g.number = some { g.childLess with noticePending := g.noticePending || decide (g.childCount ≤ 1) }
          ∧ d.tc.notices = c.tc.notices.filter (fun m => decide (m ≠ t.number))
              ++ (if g.childCount ≤ 1 ∧ g.noticePending = false then [g.number] else [])
          ∧ (∀ m, m ≠ t.number → m ≠ g.number → d.ticket m = c.ticket m)
          ∧ ((c.line r.line).ticket = some t.number → (d.line r.line).ticket = none))
        ∧ (fault = none → outcome ≠ .complete → outcome ≠ .abortedCall → ∀ w, t.retest = some w →
          c.ticketBecomes d t.number { t with
            retest := some { reason := .verify, attempts := min 3 (w.attempts + 1), due := .dueAt (c.now + c.oh.params.confirmDelay) } }
            false)))
  ∧ ∀ (ref : Byte) (first : BitVec 16) (r : LineArg) (t g : Ticket) (s : State), s.Takes → s.csi.saving = none →
    first.toNat ≤ 8191 → r.group.toNat ≤ 127 → r.routineEnabled.toNat ≤ 1 → (r.programme.toNat ≤ 31 ∨ r.programme = 0xFF) →
    (s.core.tc.tickets.map (·.number)).Nodup → (s.line first.toNat).ticket = some t.number → s.core.ticket t.number = some t →
    t.kind = .line → t.subject = first.toNat → (∀ k ∈ s.core.tc.tickets, k.kind = .line → k.subject = first.toNat → k = t) →
    t.parent = some g.number → s.core.ticket g.number = some g → g.kind = .group → g.parent = none → g.subject ≠ r.group.toNat →
    (s.line first.toNat).group ≠ r.group.toNat →
    (∀ key, key / 2 = r.group.toNat → (s.core.qualifying key).length + 1 < s.core.oh.params.groupThreshold) →
      ∃ u, exec (.loadLine ref first [r]) s = .next u ∧ s.core.released u.core t g 0
end

