-- ==== Sys2Proof/Laws/Tables.lean ====
section
/-! SUPPORT. What reading and writing a `Table` do: a record written is the record read, every other record stands, and every operation
keeps the canonical form. -/

namespace Sys2Proof.Machine

variable {α : Type}

theorem Table.erase_eq_filter (t : Table α) (k : Nat) : Table.erase t k = t.filter fun e => decide (e.1 ≠ k) := by
  induction t with
  | nil => rfl
  | cons e t ih => obtain ⟨i, v⟩ := e; by_cases h : i = k <;> simp [Table.erase, h, ih]

theorem Table.get_erase (d : α) (t : Table α) (k j : Nat) :
    Table.get d (Table.erase t k) j = if j = k then d else Table.get d t j := by
  induction t with
  | nil => simp [Table.erase, Table.get]
  | cons e t ih =>
    obtain ⟨i, v⟩ := e
    by_cases h : i = k
    · subst h
      by_cases hj : j = i
      · subst hj; simpa [Table.erase] using ih
      · simp [Table.erase, Table.get, ih, hj, Ne.symm hj]
    · by_cases hij : i = j
      · subst hij; simp [Table.erase, Table.get, h]
      · simp [Table.erase, Table.get, h, hij, ih]

theorem Table.get_place (d : α) (t : Table α) (k : Nat) (v : α) (j : Nat) (hk : ∀ e ∈ t, e.1 ≠ k) :
    Table.get d (Table.place t k v) j = if j = k then v else Table.get d t j := by
  induction t with
  | nil => simp [Table.place, Table.get, eq_comm]
  | cons e t ih =>
    obtain ⟨i, w⟩ := e
    have hi : i ≠ k := hk (i, w) (by simp)
    have ht := ih fun e he => hk e (List.mem_cons_of_mem _ he)
    unfold Table.place
    split
    · by_cases hj : j = k
      · simp [Table.get, hj]
      · simp [Table.get, hj, Ne.symm hj]
    · by_cases hij : i = j
      · subst hij; simp [Table.get, hi]
      · simp [Table.get, hij, ht]

/-- The record written is read back, and every other record reads as before. -/
@[simp] theorem Table.get_set [DecidableEq α] (d : α) (t : Table α) (k : Nat) (v : α) (j : Nat) :
    Table.get d (Table.set d t k v) j = if j = k then v else Table.get d t j := by
  unfold Table.set
  split
  · next h => subst h; exact Table.get_erase v t k j
  · rw [Table.get_place]
    · rw [Table.get_erase]; split <;> rfl
    · intro e he; rw [Table.erase_eq_filter] at he; simpa using (List.mem_filter.mp he).2

/-- What the default and every record listed have, every record read has. -/
theorem Table.get_all {P : α → Prop} {d : α} {t : Table α} (hd : P d) (ht : ∀ e ∈ t, P e.2) (k : Nat) : P (Table.get d t k) := by
  induction t with
  | nil => exact hd
  | cons e t ih =>
    obtain ⟨i, v⟩ := e
    unfold Table.get
    split
    · exact ht (i, v) List.mem_cons_self
    · exact ih fun e he => ht e (List.mem_cons_of_mem _ he)

@[simp] theorem Table.get_nil (d : α) (k : Nat) : Table.get d [] k = d := rfl

/-- The canonical form, said of the whole list. -/
theorem Table.wf_iff [DecidableEq α] (d : α) (t : Table α) :
    Table.wf d t = true ↔ t.Pairwise (fun a b => a.1 < b.1) ∧ ∀ e ∈ t, e.2 ≠ d := by
  induction t with
  | nil => simp [Table.wf]
  | cons e t ih =>
    obtain ⟨i, v⟩ := e
    cases t with
    | nil => simp [Table.wf]
    | cons f t =>
      obtain ⟨j, w⟩ := f
      simp only [Table.wf, Bool.and_eq_true, decide_eq_true_eq, ih, List.pairwise_cons, List.mem_cons, forall_eq_or_imp]
      constructor
      · rintro ⟨⟨hv, hij⟩, ⟨hj, hp⟩, hw, hd⟩
        exact ⟨⟨⟨hij, fun e he => Nat.lt_trans hij (hj e he)⟩, hj, hp⟩, hv, hw, hd⟩
      · rintro ⟨⟨⟨hij, _⟩, hj, hp⟩, hv, hw, hd⟩
        exact ⟨⟨hv, hij⟩, ⟨hj, hp⟩, hw, hd⟩

theorem Table.mem_place {t : Table α} {k : Nat} {v : α} {e : Nat × α} (h : e ∈ Table.place t k v) : e = (k, v) ∨ e ∈ t := by
  induction t with
  | nil => simpa [Table.place] using h
  | cons f t ih =>
    unfold Table.place at h
    split at h
    · simpa using h
    · rcases List.mem_cons.mp h with h | h
      · exact .inr (by simp [h])
      · rcases ih h with h | h
        · exact .inl h
        · exact .inr (List.mem_cons_of_mem _ h)

theorem Table.pairwise_place {t : Table α} {k : Nat} {v : α} (hp : t.Pairwise fun a b => a.1 < b.1) (hk : ∀ e ∈ t, e.1 ≠ k) :
    (Table.place t k v).Pairwise fun a b => a.1 < b.1 := by
  induction t with
  | nil => simp [Table.place]
  | cons f t ih =>
    obtain ⟨i, w⟩ := f
    have hi : i ≠ k := hk (i, w) (by simp)
    obtain ⟨h1, h2⟩ := List.pairwise_cons.mp hp
    unfold Table.place
    split
    · next hlt =>
      refine List.pairwise_cons.mpr ⟨?_, hp⟩
      intro e he
      rcases List.mem_cons.mp he with he | he
      · simpa [he] using hlt
      · exact Nat.lt_trans hlt (h1 e he)
    · next hge =>
      refine List.pairwise_cons.mpr ⟨?_, ih h2 fun e he => hk e (List.mem_cons_of_mem _ he)⟩
      intro e he
      rcases Table.mem_place he with he | he
      · subst he; exact Nat.lt_of_le_of_ne (Nat.le_of_not_lt hge) hi
      · exact h1 e he

theorem Table.wf_erase [DecidableEq α] {d : α} {t : Table α} (k : Nat) (h : Table.wf d t = true) :
    Table.wf d (Table.erase t k) = true := by
  rw [Table.wf_iff] at h ⊢
  rw [Table.erase_eq_filter]
  exact ⟨h.1.filter _, fun e he => h.2 e (List.mem_filter.mp he).1⟩

/-- Writing a record keeps the canonical form. -/
@[simp] theorem Table.wf_set [DecidableEq α] {d : α} {t : Table α} {k : Nat} {v : α} (h : Table.wf d t = true) :
    Table.wf d (Table.set d t k v) = true := by
  unfold Table.set
  split
  · exact Table.wf_erase k h
  · next hv =>
    have he := Table.wf_erase k h
    rw [Table.wf_iff] at he ⊢
    refine ⟨Table.pairwise_place he.1 ?_, ?_⟩
    · intro e hm; rw [Table.erase_eq_filter] at hm; simpa using (List.mem_filter.mp hm).2
    · intro e hm
      rcases Table.mem_place hm with hm | hm
      · simpa [hm] using hv
      · exact he.2 e hm

theorem Table.mapAll_eq_filterMap [DecidableEq α] (d : α) (f : α → α) (t : Table α) :
    Table.mapAll d f t = t.filterMap fun e => if f e.2 = d then none else some (e.1, f e.2) := by
  induction t with
  | nil => rfl
  | cons e t ih => obtain ⟨i, v⟩ := e; by_cases h : f v = d <;> simp [Table.mapAll, h, ih]

/-- Records left out, or changed to records that are not the default, keep the canonical form. -/
theorem Table.wf_filterMap [DecidableEq α] {d : α} {t : Table α} {g : Nat × α → Option (Nat × α)}
    (hg : ∀ e x, g e = some x → x.1 = e.1 ∧ x.2 ≠ d) (h : Table.wf d t = true) : Table.wf d (t.filterMap g) = true := by
  rw [Table.wf_iff] at h ⊢
  constructor
  · refine List.Pairwise.filterMap g ?_ h.1
    intro a b hab x hx y hy
    rw [(hg a x hx).1, (hg b y hy).1]; exact hab
  · intro x hx
    obtain ⟨e, _, he⟩ := List.mem_filterMap.mp hx
    exact (hg e x he).2

/-- Changing every record keeps the canonical form. -/
@[simp] theorem Table.wf_mapAll [DecidableEq α] {d : α} {f : α → α} {t : Table α} (h : Table.wf d t = true) :
    Table.wf d (Table.mapAll d f t) = true := by
  rw [Table.mapAll_eq_filterMap]
  refine Table.wf_filterMap ?_ h
  intro e x hx
  split at hx
  · exact absurd hx (by simp)
  · next hne => obtain rfl := Option.some.inj hx; exact ⟨rfl, hne⟩

/-- Changing every record changes the record read, where the change leaves the default as it is. -/
theorem Table.get_mapAll [DecidableEq α] (d : α) (f : α → α) (hf : f d = d) (t : Table α) (hw : Table.wf d t = true) (k : Nat) :
    Table.get d (Table.mapAll d f t) k = f (Table.get d t k) := by
  have hp := ((Table.wf_iff d t).mp hw).1
  clear hw
  induction t with
  | nil => simp [Table.mapAll, hf]
  | cons e t ih =>
    obtain ⟨i, v⟩ := e
    obtain ⟨h1, h2⟩ := List.pairwise_cons.mp hp
    have none_below : ∀ u : Table α, (∀ e ∈ u, i < e.1) → Table.get d u i = d := by
      intro u hu
      induction u with
      | nil => rfl
      | cons x u ihu =>
        have hx := hu x (by simp)
        have : x.1 ≠ i := by omega
        simp [Table.get, this, ihu fun e he => hu e (List.mem_cons_of_mem _ he)]
    have below := none_below t h1
    by_cases hv : f v = d
    · by_cases hk : i = k
      · subst hk; simp [Table.mapAll, hv, Table.get, ih h2, below, hf]
      · simp [Table.mapAll, hv, Table.get, hk, ih h2]
    · by_cases hk : i = k
      · simp [Table.mapAll, hv, Table.get, hk]
      · simp [Table.mapAll, hv, Table.get, hk, ih h2]

end Sys2Proof.Machine
end

