-- ==== Sys2Proof/Laws/TicketTable.lean ====
section
/-! SUPPORT. What a change of one ticket does to the whole table (R111, R112, R114, R129, R131): a sound ticket table, with the open counts
that go with it, stays sound when a ticket is changed, leaves or enters. -/

namespace Sys2Proof.Machine

@[simp] theorem satSucc_le (g n : Nat) : satSucc g n ≤ g := by unfold satSucc; split <;> omega

/-! ### What a change of a ticket keeps -/

/-- The change leaves the number and the pending notice, and keeps the counters within their ranges. -/
structure Ticket.Keeps (f : Ticket → Ticket) : Prop where
  number : ∀ t, (f t).number = t.number
  pending : ∀ t, (f t).noticePending = t.noticePending
  sound : ∀ t, t.Sound → (f t).Sound

@[simp] theorem Ticket.keeps_of {f : Ticket → Ticket} (n : ∀ t, (f t).number = t.number)
    (p : ∀ t, (f t).noticePending = t.noticePending) (o : ∀ t, t.occurrences ≤ 255 → (f t).occurrences ≤ 255)
    (r : ∀ t, t.reopened ≤ 15 → (f t).reopened ≤ 15) (v : ∀ t, t.lastValues.length ≤ 4 → (f t).lastValues.length ≤ 4)
    (w : ∀ t, (∀ w, t.retest = some w → w.attempts ≤ 3) → ∀ w, (f t).retest = some w → w.attempts ≤ 3) : Ticket.Keeps f :=
  ⟨n, p, fun t h => ⟨by rw [n]; exact h.1, o t h.2, r t h.3, v t h.4, w t h.5⟩⟩

@[simp] theorem Ticket.keeps_ite {p : Ticket → Prop} [∀ t, Decidable (p t)] {f g : Ticket → Ticket} (hf : Ticket.Keeps f)
    (hg : Ticket.Keeps g) : Ticket.Keeps fun t => if p t then f t else g t where
  number t := by split; exacts [hf.number t, hg.number t]
  pending t := by split; exacts [hf.pending t, hg.pending t]
  sound t h := by split; exacts [hf.sound t h, hg.sound t h]

@[simp] theorem Ticket.reopen_keeps : Ticket.Keeps Ticket.reopen :=
  Ticket.keeps_of (fun _ => rfl) (fun _ => rfl) (fun _ h => h) (fun _ _ => satSucc_le 15 _) (fun _ h => h) fun _ _ _ h => nomatch h

@[simp] theorem Ticket.toVerify_keeps (d : Due) : Ticket.Keeps fun t => t.toVerify d :=
  Ticket.keeps_of (fun _ => rfl) (fun _ => rfl) (fun _ h => h) (fun _ h => h) (fun _ h => h) fun _ _ w h => by
    obtain rfl := Option.some.inj h; exact Nat.zero_le 3

theorem Ticket.update_keeps (now : Nat) (cls : FaultClass) {v : Option (List LastValue)} (hv : ∀ l, v = some l → l.length ≤ 4) :
    Ticket.Keeps fun t => t.update now cls v := by
  have hl : ∀ t : Ticket, t.lastValues.length ≤ 4 → (v.getD t.lastValues).length ≤ 4 := fun t h => by
    rcases v with _ | l; exacts [h, hv l rfl]
  refine Ticket.keeps_of ?_ ?_ ?_ ?_ ?_ ?_
  all_goals intro t; unfold Ticket.update; dsimp only; split
  all_goals first | rfl | exact id | exact fun _ => satSucc_le 255 _ | exact hl t

/-- What a new ticket is: its counters are within their ranges and no notice is pending on it. -/
structure Ticket.Fresh (t : Ticket) : Prop where
  occurrences : t.occurrences ≤ 255
  reopened : t.reopened ≤ 15
  lastValues : t.lastValues.length ≤ 4
  attempts : ∀ w, t.retest = some w → w.attempts ≤ 3
  quiet : t.noticePending = false

@[simp] theorem Ticket.fresh_of {t : Ticket} (o : t.occurrences ≤ 255) (r : t.reopened ≤ 15) (v : t.lastValues.length ≤ 4)
    (w : ∀ w, t.retest = some w → w.attempts ≤ 3) (q : t.noticePending = false) : t.Fresh := ⟨o, r, v, w, q⟩

/-! ### What a change of a shelf or a test set keeps -/

def ShelfRec.Keeps (f : ShelfRec → ShelfRec) : Prop := ∀ r, r.Sound → (f r).Sound

@[simp] theorem ShelfRec.keeps_of {f : ShelfRec → ShelfRec} (p : ∀ r, r.freePairs ≤ 2 → (f r).freePairs ≤ 2)
    (q : ∀ r, r.failures ≤ 3 → (f r).failures ≤ 3) : ShelfRec.Keeps f :=
  fun r h => ⟨p r h.1, q r h.2⟩

def TestSet.Keeps (f : TestSet → TestSet) : Prop := ∀ r, r.Sound → (f r).Sound

@[simp] theorem TestSet.keeps_of {f : TestSet → TestSet} (a : ∀ r, r.tag < 16 → (f r).tag < 16)
    (b : ∀ r, r.expected < 256 → (f r).expected < 256) (c : ∀ r, r.failures ≤ 3 → (f r).failures ≤ 3)
    (d : ∀ r, r.attempt ≤ 3 → (f r).attempt ≤ 3) : TestSet.Keeps f :=
  fun r h => ⟨a r h.1, b r h.2, c r h.3, d r h.4⟩

@[simp] theorem TestSet.keeps_ite {p : TestSet → Prop} [∀ t, Decidable (p t)] {f g : TestSet → TestSet} (hf : TestSet.Keeps f)
    (hg : TestSet.Keeps g) : TestSet.Keeps fun t => if p t then f t else g t :=
  fun t h => by dsimp only; split; exacts [hf t h, hg t h]

/-! ### Counting -/

theorem countP_map_at {P : Ticket → Bool} {l : List Ticket} {n : Nat} {t : Ticket} {f : Ticket → Ticket}
    (hn : (l.map (·.number)).Nodup) (ht : l.find? (fun u => decide (u.number = n)) = some t) :
    (l.map fun u => if u.number = n then f u else u).countP P + (if P t then 1 else 0) = l.countP P + if P (f t) then 1 else 0 := by
  induction l with
  | nil => simp at ht
  | cons u l ih =>
    obtain ⟨hu, hl⟩ := List.nodup_cons.mp hn
    by_cases h : u.number = n
    · obtain rfl : u = t := by simpa [h] using ht
      have hid : (l.map fun u => if u.number = n then f u else u) = l := by
        refine (List.map_congr_left fun v hv => ?_).trans (List.map_id l)
        have : v.number ≠ n := fun e => hu (List.mem_map.mpr ⟨v, hv, e.trans h.symm⟩)
        simp [this]
      simp only [List.map_cons, if_pos h, List.countP_cons, hid]; omega
    · have := ih hl (by simpa [h] using ht)
      simp only [List.map_cons, if_neg h, List.countP_cons]; omega

theorem countP_filter_at {P : Ticket → Bool} {l : List Ticket} {n : Nat} {t : Ticket}
    (hn : (l.map (·.number)).Nodup) (ht : l.find? (fun u => decide (u.number = n)) = some t) :
    (l.filter fun u => decide (u.number ≠ n)).countP P + (if P t then 1 else 0) = l.countP P := by
  induction l with
  | nil => simp at ht
  | cons u l ih =>
    obtain ⟨hu, hl⟩ := List.nodup_cons.mp hn
    by_cases h : u.number = n
    · obtain rfl : u = t := by simpa [h] using ht
      have hid : (l.filter fun v => decide (v.number ≠ n)) = l := by
        refine List.filter_eq_self.mpr fun v hv => decide_eq_true fun e => hu (List.mem_map.mpr ⟨v, hv, e.trans h.symm⟩)
      rw [List.filter_cons_of_neg (by simp [h]), hid, List.countP_cons]
    · have := ih hl (by simpa [h] using ht)
      rw [List.filter_cons_of_pos (by simp [h]), List.countP_cons, List.countP_cons]; omega

theorem Oh.recount_token (o : Oh) (was is : Option Nat) : (o.recount was is).tokenCounter = o.tokenCounter := by
  unfold Oh.recount
  split
  · rfl
  · rcases was with _ | v <;> rcases is with _ | w <;> simp only [Oh.countIn, Oh.countOut] <;> repeat' split
    all_goals rfl

/-- The open counts follow the tickets of a table in which one ticket counts otherwise than before, or is there no longer, or is new
(R131). -/
theorem Oh.Sound.recount {o : Oh} {l m : List Ticket} {was is : Option Nat} (h : o.Sound l)
    (hc : ∀ p : Option Nat → Bool, p none = false → (p was = true → 0 < l.countP fun x => p x.counts)
      ∧ (m.countP fun x => p x.counts) + (if p was then 1 else 0) = (l.countP fun x => p x.counts) + if p is then 1 else 0) :
    (o.recount was is).Sound m := by
  obtain ⟨h1, h2, h3, h4⟩ := h
  obtain ⟨a1, b1⟩ := hc (fun v => decide (v = some 1)) rfl
  obtain ⟨a2, b2⟩ := hc (fun v => decide (v = some 2)) rfl
  obtain ⟨a3, b3⟩ := hc (fun v => v.any fun v => decide (v ≠ 1 ∧ v ≠ 2)) rfl
  rw [← h1] at a1 b1
  rw [← h2] at a2 b2
  rw [← h3] at a3 b3
  have ht := o.recount_token was is
  refine ⟨?_, ?_, ?_, ht.symm ▸ h4⟩
  all_goals
    unfold Oh.recount
    split
    · next e => subst e; omega
    · rcases was with _ | v <;> rcases is with _ | w <;>
        simp only [Oh.countIn, Oh.countOut, Option.some.injEq, Option.any_some, Option.any_none, decide_eq_true_eq, reduceCtorEq] at * <;>
        repeat' split
      all_goals simp_all <;> omega

/-! ### Numbers (R114) -/

theorem nextNumber_range (n : Nat) : 1 ≤ nextNumber n ∧ nextNumber n ≤ 65535 := by
  unfold nextNumber; split <;> omega

/-- The i-th number after n. -/
theorem nextNumber_iterate (i : Nat) {n : Nat} (h : 1 ≤ n ∧ n ≤ 65535) : (nextNumber^[i]) n = (n - 1 + i) % 65535 + 1 := by
  induction i generalizing n with
  | zero => simp only [Function.iterate_zero, id_eq]; omega
  | succ i ih =>
    rw [Function.iterate_succ_apply, ih (nextNumber_range n)]
    unfold nextNumber; split <;> omega

theorem Tc.freeNumber_range (tc : Tc) (k : Nat) {n : Nat} (h : 1 ≤ n ∧ n ≤ 65535) :
    1 ≤ tc.freeNumber k n ∧ tc.freeNumber k n ≤ 65535 := by
  induction k generalizing n with
  | zero => exact h
  | succ k ih => unfold Tc.freeNumber; split; exacts [h, ih (nextNumber_range n)]

/-- The number found is free, unless every number tried is held. -/
theorem Tc.freeNumber_free (tc : Tc) (k n : Nat) :
    tc.find (tc.freeNumber k n) = none ∨ ∀ i < k, (tc.find ((nextNumber^[i]) n)).isSome = true := by
  induction k generalizing n with
  | zero => exact .inr (by simp)
  | succ k ih =>
    unfold Tc.freeNumber
    split
    · next h => exact .inl (Option.isNone_iff_eq_none.mp h)
    · next h =>
      rcases ih (nextNumber n) with hk | hk
      · exact .inl hk
      · refine .inr fun i hi => ?_
        rcases i with _ | i
        · simpa [Option.isNone_iff_eq_none, Option.isSome_iff_ne_none] using h
        · exact hk i (by omega)

theorem Tc.find_some {tc : Tc} {n : Nat} {t : Ticket} (h : tc.find n = some t) : t ∈ tc.tickets ∧ t.number = n :=
  ⟨List.mem_of_find?_eq_some h, by simpa using List.find?_some h⟩

/-- In a table with room, the number a new ticket takes is no other ticket's. -/
theorem Tc.freeNumber_fresh {tc : Tc} (h : 1 ≤ tc.counter ∧ tc.counter ≤ 65535) (room : tc.tickets.length < 256) :
    ∀ t ∈ tc.tickets, t.number ≠ tc.freeNumber 256 tc.counter := by
  rcases tc.freeNumber_free 256 tc.counter with hf | hf
  · intro t ht e
    have := List.find?_eq_none.mp hf t ht
    simp [e] at this
  · have hn : ((List.range 256).map fun i => (nextNumber^[i]) tc.counter).Nodup := by
      refine List.Nodup.map_on (fun i hi j hj e => ?_) List.nodup_range
      rw [nextNumber_iterate i h, nextNumber_iterate j h] at e
      rw [List.mem_range] at hi hj
      omega
    have hs : ((List.range 256).map fun i => (nextNumber^[i]) tc.counter) ⊆ tc.tickets.map (·.number) := by
      intro m hm
      obtain ⟨i, hi, rfl⟩ := List.mem_map.mp hm
      obtain ⟨t, ht⟩ := Option.isSome_iff_exists.mp (hf i (List.mem_range.mp hi))
      exact List.mem_map.mpr ⟨t, (Tc.find_some ht).1, (Tc.find_some ht).2⟩
    have := (hn.subperm hs).length_le
    simp only [List.length_map, List.length_range] at this
    omega

/-! ### The table after a change -/

theorem Core.gmReport_groups (c : Core) (n : Nat) (h : Table.wf [] c.gm.members = true) : Table.wf [] (c.gmReport n).gm.members = true := by
  refine Table.wf_filterMap ?_ h
  intro e x hx
  dsimp only at hx
  generalize hl : (if ((c.ticket n).bind c.standsIn) = some e.1 then e.2 else e.2.filter fun m => decide (m ≠ n)) = l at hx
  by_cases hn : l = []
  · rw [if_pos hn] at hx; exact absurd hx (by simp)
  · rw [if_neg hn] at hx; obtain rfl := Option.some.inj hx; exact ⟨rfl, hn⟩

theorem Core.Sound.gmReport {c : Core} (h : c.Sound) (n : Nat) : (c.gmReport n).Sound :=
  { h with groups := c.gmReport_groups n h.groups }

/-- Changing one ticket, and the notice list with it, keeps a sound core where the notices still are the tickets whose notice is pending. -/
theorem Core.Sound.putTicketWith {c : Core} (s : c.Sound) {n : Nat} {t : Ticket} (ht : c.ticket n = some t) {f : Ticket → Ticket}
    (hnum : ∀ u, (f u).number = u.number) (hs : ∀ u, u.Sound → (f u).Sound) {g : List Nat → List Nat} (hd : (g c.tc.notices).Nodup)
    (hp : ∀ m, m ∈ g c.tc.notices ↔ ∃ u ∈ c.tc.tickets, u.number = m ∧ (if u.number = n then f u else u).noticePending = true) :
    ((c.putTicket n f).updTc fun tc => { tc with notices := g tc.notices }).Sound := by
  have hmap : (c.tc.tickets.map fun u => if u.number = n then f u else u).map (·.number) = c.tc.tickets.map (·.number) := by
    rw [List.map_map]; refine List.map_congr_left fun u _ => ?_
    simp only [Function.comp_apply]; split <;> simp [hnum]
  have hg := (c.updTc fun tc => { tc with tickets := tc.tickets.map fun u => if u.number = n then f u else u }).gmReport_groups n s.groups
  have ht' : c.tc.tickets.find? (fun u => decide (u.number = n)) = some t := ht
  have hoh : (c.oh.recount t.counts (f t).counts).Sound (c.tc.tickets.map fun u => if u.number = n then f u else u) := by
    refine s.oh.recount fun p _ => ⟨fun h => List.countP_pos_iff.mpr ⟨t, (Tc.find_some ht).1, h⟩, ?_⟩
    exact countP_map_at (P := fun u => p u.counts) s.tc.numbers ht'
  simp only [Core.putTicket, ht]
  refine { tc := ⟨?_, s.tc.counter, ?_, ?_, hd, ?_⟩, oh := hoh, shelf := s.shelf, testSet := s.testSet, lines := s.lines,
           shelves := s.shelves, sets := s.sets, groups := Core.gmReport_groups _ n s.groups }
  · simpa [Core.updTc, Core.updOh, Core.gmReport] using s.tc.tickets
  · exact hmap ▸ s.tc.numbers
  · intro u hu
    obtain ⟨v, hv, rfl⟩ := List.mem_map.mp hu
    split; exacts [hs v (s.tc.each v hv), s.tc.each v hv]
  · intro m
    refine (hp m).trans ⟨fun ⟨u, hu, hm, hq⟩ => ⟨_, List.mem_map_of_mem hu, ?_, hq⟩, fun ⟨u, hu, hm, hq⟩ => ?_⟩
    · split <;> simp [hnum, hm]
    · obtain ⟨v, hv, rfl⟩ := List.mem_map.mp hu
      refine ⟨v, hv, ?_, hq⟩
      rw [← hm]; split <;> simp [hnum]

/-- A ticket of a sound table is the one its number names. -/
theorem Tc.Sound.eq_of_number {tc : Tc} (s : tc.Sound) {n : Nat} {t u : Ticket} (ht : tc.find n = some t) (hu : u ∈ tc.tickets)
    (e : u.number = n) : u = t :=
  List.inj_on_of_nodup_map s.numbers hu (Tc.find_some ht).1 (e.trans (Tc.find_some ht).2.symm)

theorem Core.Sound.putTicket {c : Core} (s : c.Sound) (n : Nat) {f : Ticket → Ticket} (hf : Ticket.Keeps f) : (c.putTicket n f).Sound := by
  rcases ht : c.ticket n with _ | t
  · simpa [Core.putTicket, ht] using s
  · refine Core.Sound.putTicketWith s ht hf.number hf.sound (g := id) s.tc.notices fun m => (s.tc.pending m).trans ?_
    have : ∀ u : Ticket, (if u.number = n then f u else u).noticePending = u.noticePending := fun u => by split <;> simp [hf.pending]
    simp only [this]

/-- A ticket whose notice is set aside leaves the notice list (R137). -/
theorem Core.Sound.silence {c : Core} (s : c.Sound) (n : Nat) {f : Ticket → Ticket} (hnum : ∀ u, (f u).number = u.number)
    (hs : ∀ u, u.Sound → (f u).Sound) (hq : ∀ u, (f u).noticePending = false) :
    ((c.putTicket n f).updTc fun tc => { tc with notices := tc.notices.filter fun m => decide (m ≠ n) }).Sound := by
  rcases ht : c.ticket n with _ | t
  · have hn : ∀ m ∈ c.tc.notices, m ≠ n := by
      rintro m hm rfl
      obtain ⟨u, hu, e, _⟩ := (s.tc.pending m).mp hm
      have := List.find?_eq_none.mp ht u hu
      simp [e] at this
    have : c.tc.notices.filter (fun m => decide (m ≠ n)) = c.tc.notices :=
      List.filter_eq_self.mpr fun m hm => decide_eq_true (hn m hm)
    simp only [Core.putTicket, ht, Core.updTc, this]; exact s
  · refine Core.Sound.putTicketWith s ht hnum hs (g := fun l => l.filter fun m => decide (m ≠ n)) (s.tc.notices.filter _) fun m => ?_
    rw [List.mem_filter, decide_eq_true_eq, s.tc.pending m]
    constructor
    · rintro ⟨⟨u, hu, e, hp⟩, hm⟩
      exact ⟨u, hu, e, by rw [if_neg (e.symm ▸ hm)]; exact hp⟩
    · rintro ⟨u, hu, e, hp⟩
      have hm : u.number ≠ n := fun h => by rw [if_pos h, hq] at hp; exact absurd hp (by simp)
      rw [if_neg hm] at hp
      exact ⟨⟨u, hu, e, hp⟩, e ▸ hm⟩

/-- A ticket whose notice falls due joins the notice list (R129). -/
theorem Core.Sound.noticeDue {c : Core} (s : c.Sound) (n : Nat) : (c.noticeDue n).Sound := by
  unfold Core.noticeDue
  split
  · exact s
  · next t ht =>
    split
    · exact s
    · next hb =>
      have hp : t.noticePending = false := by simp only [Bool.or_eq_true, not_or, Bool.not_eq_true] at hb; exact hb.1
      have hn : n ∉ c.tc.notices := fun h => by
        obtain ⟨u, hu, e, hq⟩ := (s.tc.pending n).mp h
        rw [s.tc.eq_of_number ht hu e, hp] at hq; exact absurd hq (by simp)
      refine Core.Sound.putTicketWith s ht (f := fun t => { t with noticePending := true }) (fun _ => rfl)
        (fun u h => ⟨h.1, h.2, h.3, h.4, h.5⟩) (g := (· ++ [n]))
        (List.nodup_append.mpr ⟨s.tc.notices, List.nodup_singleton n, fun a ha b hb e => hn (by simp_all)⟩) fun m => ?_
      rw [List.mem_append, List.mem_singleton, s.tc.pending m]
      constructor
      · rintro (⟨u, hu, e, hq⟩ | rfl)
        · exact ⟨u, hu, e, by split <;> simp [hq]⟩
        · exact ⟨t, (Tc.find_some ht).1, (Tc.find_some ht).2, by simp [(Tc.find_some ht).2]⟩
      · rintro ⟨u, hu, e, hq⟩
        by_cases h : u.number = n
        · exact .inr (e.symm.trans h)
        · exact .inl ⟨u, hu, e, by rwa [if_neg h] at hq⟩

theorem ShelfRec.Sound.reference {r : ShelfRec} (h : r.Sound) (t : Option Nat) : ({ r with ticket := t } : ShelfRec).Sound := ⟨h.1, h.2⟩

theorem TestSet.Sound.reference {r : TestSet} (h : r.Sound) (t : Option Nat) : ({ r with ticket := t } : TestSet).Sound :=
  ⟨h.1, h.2, h.3, h.4⟩

theorem Core.Sound.updLine {c : Core} (s : c.Sound) (l : Nat) (f : LineRec → LineRec) : (c.updLine l f).Sound :=
  { s with lines := Table.wf_set s.lines }

theorem Core.Sound.updShelf {c : Core} (s : c.Sound) (n : Nat) {f : ShelfRec → ShelfRec} (hf : (f (c.shelf n)).Sound) :
    (c.updShelf n f).Sound :=
  { s with
    shelves := Table.wf_set s.shelves
    shelf := fun m => by
      simp only [Core.shelf, Core.updShelf, Core.setShelf, Table.get_set]; split; exacts [hf, s.shelf m] }

theorem Core.Sound.updTestSet {c : Core} (s : c.Sound) (n : Nat) {f : TestSet → TestSet} (hf : (f (c.testSet n)).Sound) :
    (c.updTestSet n f).Sound :=
  { s with
    sets := Table.wf_set s.sets
    testSet := fun m => by
      simp only [Core.testSet, Core.updTestSet, Core.setTestSet, Table.get_set]; split; exacts [hf, s.testSet m] }

theorem Core.Sound.clearReference {c : Core} (s : c.Sound) (t : Ticket) : (c.clearReference t).Sound := by
  unfold Core.clearReference
  split
  · exact Core.Sound.updLine s _ _
  · refine Core.Sound.updShelf s _ ?_; split; exacts [(s.shelf _).reference none, s.shelf _]
  · refine Core.Sound.updTestSet s _ ?_; split; exacts [(s.testSet _).reference none, s.testSet _]
  · exact s
  · exact s

/-- A ticket leaves the table, and the notice list with it (R111). -/
theorem Core.Sound.dropTicket {c : Core} (s : c.Sound) (n : Nat) : (c.dropTicket n).Sound := by
  unfold Core.dropTicket
  split
  · exact s
  · next t ht =>
    refine Core.Sound.gmReport (Core.Sound.clearReference ?_ t) n
    have ht' : c.tc.tickets.find? (fun u => decide (u.number = n)) = some t := ht
    refine { tc := ⟨?_, s.tc.counter, ?_, ?_, s.tc.notices.filter _, ?_⟩, oh := ?_, shelf := s.shelf, testSet := s.testSet, lines := s.lines,
             shelves := s.shelves, sets := s.sets, groups := s.groups }
    · exact Nat.le_trans (List.length_filter_le _ _) s.tc.tickets
    · exact s.tc.numbers.sublist (List.filter_sublist.map _)
    · exact fun u hu => s.tc.each u (List.mem_filter.mp hu).1
    · intro m
      simp only [Core.updTc, Core.updOh, List.mem_filter, decide_eq_true_eq, s.tc.pending m]
      constructor
      · rintro ⟨⟨u, hu, e, hp⟩, hm⟩; exact ⟨u, ⟨hu, e.symm ▸ hm⟩, e, hp⟩
      · rintro ⟨u, ⟨hu, hm⟩, e, hp⟩; exact ⟨⟨u, hu, e, hp⟩, e ▸ hm⟩
    · refine Oh.Sound.recount s.oh fun p hp => ⟨fun h => List.countP_pos_iff.mpr ⟨t, (Tc.find_some ht).1, h⟩, ?_⟩
      have := countP_filter_at (P := fun u => p u.counts) s.tc.numbers ht'
      simpa [hp, Core.updTc, Core.updOh] using this

/-- A ticket enters a table with room under a free number (R114). -/
theorem Core.Sound.enter {c : Core} (s : c.Sound) (room : c.tc.tickets.length < 256) {t : Ticket} (ht : t.Fresh) :
    (c.enter t).1.Sound := by
  have hr := c.tc.freeNumber_range 256 s.tc.counter
  have hf := Tc.freeNumber_fresh s.tc.counter room
  refine { tc := ⟨?_, nextNumber_range _, ?_, ?_, s.tc.notices, ?_⟩, oh := ?_, shelf := s.shelf, testSet := s.testSet, lines := s.lines,
           shelves := s.shelves, sets := s.sets, groups := s.groups }
  · simp only [Core.enter, Core.updTc, Core.updOh, List.length_append, List.length_cons, List.length_nil]; omega
  · simp only [Core.enter, Core.updTc, Core.updOh, List.map_append, List.map_cons, List.map_nil]
    refine List.nodup_append.mpr ⟨s.tc.numbers, List.nodup_singleton _, fun a ha b hb e => ?_⟩
    obtain ⟨u, hu, rfl⟩ := List.mem_map.mp ha
    exact hf u hu (e.trans (List.mem_singleton.mp hb))
  · intro u hu
    rcases List.mem_append.mp hu with hu | hu
    · exact s.tc.each u hu
    · rw [List.mem_singleton.mp hu]; exact ⟨hr, ht.1, ht.2, ht.3, ht.4⟩
  · intro m
    refine (s.tc.pending m).trans ⟨fun ⟨u, hu, h⟩ => ⟨u, List.mem_append_left _ hu, h⟩, fun ⟨u, hu, e, hp⟩ => ?_⟩
    rcases List.mem_append.mp hu with hu | hu
    · exact ⟨u, hu, e, hp⟩
    · rw [List.mem_singleton.mp hu] at hp; exact absurd (ht.quiet.symm.trans hp) (by simp)
  · refine Oh.Sound.recount s.oh fun p hp => ⟨fun h => by rw [hp] at h; exact absurd h (by simp), ?_⟩
    simp [Core.enter, Core.updTc, Core.updOh, List.countP_append, List.countP_cons, hp, Ticket.counts]

/-! ### The table at RESTART (R132) -/

theorem insertBy_perm {α : Type} (before : α → α → Bool) (x : α) (l : List α) : (insertBy before x l).Perm (x :: l) := by
  induction l with
  | nil => exact .refl _
  | cons y l ih =>
    unfold insertBy
    split
    · exact .refl _
    · exact (ih.cons y).trans (.swap x y l)

theorem sortBy_perm {α : Type} (before : α → α → Bool) (l : List α) : (sortBy before l).Perm l := by
  have : ∀ (l acc : List α), (l.foldl (fun acc x => insertBy before x acc) acc).Perm (acc ++ l) := by
    intro l
    induction l with
    | nil => intro acc; simp
    | cons x l ih => intro acc; exact (ih _).trans (((insertBy_perm before x acc).append_right l).trans List.perm_middle.symm)
  simpa [sortBy] using this l []

/-- Every ticket is changed in nothing that is counted, and the notice list is built anew from the tickets whose notice is pending. -/
theorem Core.Sound.mapTickets {c : Core} (s : c.Sound) {f : Ticket → Ticket} (hf : Ticket.Keeps f) (hc : ∀ t, (f t).counts = t.counts)
    (before : Nat → Nat → Bool) :
    (c.updTc fun tc => { tc with
      tickets := tc.tickets.map f
      notices := sortBy before (((tc.tickets.map f).filter (·.noticePending)).map (·.number)) }).Sound := by
  have hn : (c.tc.tickets.map f).map (·.number) = c.tc.tickets.map (·.number) := by
    rw [List.map_map]; exact List.map_congr_left fun u _ => hf.number u
  have hp := sortBy_perm before (((c.tc.tickets.map f).filter (·.noticePending)).map (·.number))
  have hk : ∀ P : Option Nat → Bool, ((c.tc.tickets.map f).countP fun t => P t.counts) = c.tc.tickets.countP fun t => P t.counts := by
    intro P; rw [List.countP_map]; exact List.countP_congr fun t _ => by simp [hc]
  refine { s with tc := ⟨?_, s.tc.counter, ?_, ?_, ?_, fun m => ?_⟩, oh := ⟨?_, ?_, ?_, s.oh.token⟩ }
  · simpa [Core.updTc] using s.tc.tickets
  · exact hn ▸ s.tc.numbers
  · intro u hu
    obtain ⟨v, hv, rfl⟩ := List.mem_map.mp hu
    exact hf.sound v (s.tc.each v hv)
  · refine hp.nodup_iff.mpr (List.Nodup.sublist (List.filter_sublist.map _) (hn ▸ s.tc.numbers))
  · refine hp.mem_iff.trans ?_
    simp only [List.mem_map, List.mem_filter, Core.updTc]
    exact ⟨fun ⟨u, ⟨hu, hq⟩, e⟩ => ⟨u, hu, e, hq⟩, fun ⟨u, hu, e, hq⟩ => ⟨u, ⟨hu, hq⟩, e⟩⟩
  · exact s.oh.count1.trans (hk fun v => decide (v = some 1)).symm
  · exact s.oh.count2.trans (hk fun v => decide (v = some 2)).symm
  · exact s.oh.count3.trans (hk fun v => v.any fun v => decide (v ≠ 1 ∧ v ≠ 2)).symm

end Sys2Proof.Machine
end

