-- ==== Sys2Proof/Laws/TicketFrame.lean ====
section
/-! SUPPORT. What the Ticket Controller and the Group Monitor leave alone: whatever they do, the time base, the parameters, the station, the
token counter, the readiness and the sweep's summary stand, and a sound core stays sound. -/

namespace Sys2Proof.Machine

/-! ### The order handler's records -/

/-- Nothing but the counts, the flags and the waiting frames differs. -/
structure Oh.Kept (o p : Oh) : Prop where
  params : p.params = o.params
  station : p.station = o.station
  token : p.tokenCounter = o.tokenCounter
  ready : p.ready = o.ready
  sweepRunning : p.sweepRunning = o.sweepRunning
  passCount : p.passCount = o.passCount

@[simp] theorem Oh.Kept.refl (o : Oh) : Oh.Kept o o := ⟨rfl, rfl, rfl, rfl, rfl, rfl⟩

theorem Oh.Kept.trans {o p q : Oh} (h : Oh.Kept o p) (k : Oh.Kept p q) : Oh.Kept o q :=
  ⟨k.1.trans h.1, k.2.trans h.2, k.3.trans h.3, k.4.trans h.4, k.5.trans h.5, k.6.trans h.6⟩

@[simp] theorem Oh.latchFlag_kept (o : Oh) (f : Flag) : Oh.Kept o (o.latchFlag f) := by
  unfold Oh.latchFlag; split
  · exact .refl o
  · split <;> exact ⟨rfl, rfl, rfl, rfl, rfl, rfl⟩

@[simp] theorem Oh.setCondition_kept (o : Oh) (f : Flag) (on : Bool) : Oh.Kept o (o.setCondition f on) := by
  unfold Oh.setCondition; split
  · exact .refl o
  · split
    · exact Oh.Kept.trans (p := { o with current := o.current.put true f }) ⟨rfl, rfl, rfl, rfl, rfl, rfl⟩ (Oh.latchFlag_kept _ f)
    · exact ⟨rfl, rfl, rfl, rfl, rfl, rfl⟩

@[simp] theorem Oh.countIn_kept (o : Oh) (v : Nat) : Oh.Kept o (o.countIn v) := by
  unfold Oh.countIn; repeat' split
  all_goals exact ⟨rfl, rfl, rfl, rfl, rfl, rfl⟩

@[simp] theorem Oh.countOut_kept (o : Oh) (v : Nat) : Oh.Kept o (o.countOut v) := by
  unfold Oh.countOut; repeat' split
  all_goals exact ⟨rfl, rfl, rfl, rfl, rfl, rfl⟩

@[simp] theorem Oh.recount_kept (o : Oh) (was is : Option Nat) : Oh.Kept o (o.recount was is) := by
  unfold Oh.recount
  split
  · exact .refl o
  · cases was <;> cases is <;> simp only
    · exact .refl o
    · exact Oh.countIn_kept o _
    · exact Oh.countOut_kept o _
    · exact (Oh.countOut_kept o _).trans (Oh.countIn_kept _ _)

/-- The open counts of the two are the same. -/
def Oh.SameCounts (o p : Oh) : Prop := p.count1 = o.count1 ∧ p.count2 = o.count2 ∧ p.count3 = o.count3

theorem Oh.SameCounts.trans {o p q : Oh} (h : Oh.SameCounts o p) (k : Oh.SameCounts p q) : Oh.SameCounts o q :=
  ⟨k.1.trans h.1, k.2.1.trans h.2.1, k.2.2.trans h.2.2⟩

theorem Oh.latchFlag_counts (o : Oh) (f : Flag) : Oh.SameCounts o (o.latchFlag f) := by
  unfold Oh.latchFlag; split
  · exact ⟨rfl, rfl, rfl⟩
  · split <;> exact ⟨rfl, rfl, rfl⟩

theorem Oh.setCondition_counts (o : Oh) (f : Flag) (on : Bool) : Oh.SameCounts o (o.setCondition f on) := by
  unfold Oh.setCondition; split
  · exact ⟨rfl, rfl, rfl⟩
  · split
    · exact Oh.latchFlag_counts { o with current := o.current.put true f } f
    · exact ⟨rfl, rfl, rfl⟩

@[simp] theorem Oh.relatch_kept (o : Oh) : Oh.Kept o o.relatch := ⟨rfl, rfl, rfl, rfl, rfl, rfl⟩

/-! ### The core -/

/-- What every operation of the TC and the GM keeps. -/
structure Core.Kept (c d : Core) : Prop where
  time : d.timeMs = c.timeMs
  oh : Oh.Kept c.oh d.oh
  sound : c.Sound → d.Sound

@[simp] theorem Core.Kept.refl (c : Core) : Core.Kept c c := ⟨rfl, .refl _, id⟩

theorem Core.Kept.trans {c d e : Core} (h : Core.Kept c d) (k : Core.Kept d e) : Core.Kept c e :=
  ⟨k.1.trans h.1, h.2.trans k.2, fun s => k.3 (h.3 s)⟩

/-- A fold of operations that each keep the core keeps it. -/
theorem Core.foldl_kept {β : Type} {f : Core → β → Core} (hf : ∀ c x, Core.Kept c (f c x)) (l : List β) {c₀ c : Core}
    (h : Core.Kept c₀ c) : Core.Kept c₀ (l.foldl f c) := by
  induction l generalizing c with
  | nil => exact h
  | cons x l ih => exact ih (h.trans (hf c x))

variable {c₀ c : Core}

@[simp] theorem Core.updLine_kept (h : Core.Kept c₀ c) (l : Nat) (f : LineRec → LineRec) : Core.Kept c₀ (c.updLine l f) :=
  h.trans ⟨rfl, .refl _, fun s => s.updLine l f⟩

theorem Core.updShelf_keptAt (h : Core.Kept c₀ c) (n : Nat) {f : ShelfRec → ShelfRec}
    (hf : (c.shelf n).Sound → (f (c.shelf n)).Sound) : Core.Kept c₀ (c.updShelf n f) :=
  h.trans ⟨rfl, .refl _, fun s => s.updShelf n (hf (s.shelf n))⟩

theorem Core.updTestSet_keptAt (h : Core.Kept c₀ c) (n : Nat) {f : TestSet → TestSet}
    (hf : (c.testSet n).Sound → (f (c.testSet n)).Sound) : Core.Kept c₀ (c.updTestSet n f) :=
  h.trans ⟨rfl, .refl _, fun s => s.updTestSet n (hf (s.testSet n))⟩

@[simp] theorem Core.updShelf_kept (h : Core.Kept c₀ c) (n : Nat) {f : ShelfRec → ShelfRec} (hf : ShelfRec.Keeps f) :
    Core.Kept c₀ (c.updShelf n f) :=
  Core.updShelf_keptAt h n (hf _)

@[simp] theorem Core.updTestSet_kept (h : Core.Kept c₀ c) (n : Nat) {f : TestSet → TestSet} (hf : TestSet.Keeps f) :
    Core.Kept c₀ (c.updTestSet n f) :=
  Core.updTestSet_keptAt h n (hf _)

theorem Core.updOh_kept (h : Core.Kept c₀ c) {f : Oh → Oh} (hf : Oh.Kept c.oh (f c.oh)) (hc : Oh.SameCounts c.oh (f c.oh)) :
    Core.Kept c₀ (c.updOh f) :=
  h.trans ⟨rfl, hf, fun s => { s with
    oh := ⟨hc.1.trans s.oh.count1, hc.2.1.trans s.oh.count2, hc.2.2.trans s.oh.count3, (congrArg (fun n => 1 ≤ n ∧ n ≤ 255) hf.token).mpr s.oh.token⟩ }⟩

theorem Core.setGroups_kept (h : Core.Kept c₀ c) {m : Table (List Nat)} (hm : Table.wf [] c.gm.members = true → Table.wf [] m = true) :
    Core.Kept c₀ { c with gm := { c.gm with members := m } } :=
  h.trans ⟨rfl, .refl _, fun s => { s with groups := hm s.groups }⟩

@[simp] theorem Core.latchFlag_kept (h : Core.Kept c₀ c) (f : Flag) : Core.Kept c₀ (c.updOh fun o => o.latchFlag f) :=
  Core.updOh_kept h (Oh.latchFlag_kept _ f) (Oh.latchFlag_counts _ f)

@[simp] theorem Core.gmReport_kept (h : Core.Kept c₀ c) (n : Nat) : Core.Kept c₀ (c.gmReport n) :=
  h.trans ⟨rfl, .refl _, fun s => s.gmReport n⟩

theorem Core.putTicket_frame (c : Core) (n : Nat) (f : Ticket → Ticket) :
    (c.putTicket n f).timeMs = c.timeMs ∧ Oh.Kept c.oh (c.putTicket n f).oh := by
  unfold Core.putTicket
  split
  · exact ⟨rfl, .refl _⟩
  · exact ⟨rfl, Oh.recount_kept _ _ _⟩

/-- A ticket is changed in a way that a sound table lets be known to keep its ranges. -/
theorem Core.putTicket_keptIf (h : Core.Kept c₀ c) (n : Nat) {f : Ticket → Ticket} (hf : c₀.Sound → Ticket.Keeps f) :
    Core.Kept c₀ (c.putTicket n f) :=
  ⟨(c.putTicket_frame n f).1.trans h.1, h.2.trans (c.putTicket_frame n f).2, fun s => (h.sound s).putTicket n (hf s)⟩

@[simp] theorem Core.putTicket_kept (h : Core.Kept c₀ c) (n : Nat) {f : Ticket → Ticket} (hf : Ticket.Keeps f) :
    Core.Kept c₀ (c.putTicket n f) := Core.putTicket_keptIf h n fun _ => hf

theorem Core.clearReference_oh (c : Core) (t : Ticket) : (c.clearReference t).oh = c.oh := by
  unfold Core.clearReference; split <;> rfl

@[simp] theorem Core.clearReference_kept (h : Core.Kept c₀ c) (t : Ticket) : Core.Kept c₀ (c.clearReference t) := by
  refine h.trans ⟨?_, ?_, fun s => s.clearReference t⟩
  all_goals unfold Core.clearReference; split
  all_goals first | rfl | exact .refl _

@[simp] theorem Core.dropTicket_kept (h : Core.Kept c₀ c) (n : Nat) : Core.Kept c₀ (c.dropTicket n) := by
  refine h.trans ⟨?_, ?_, fun s => s.dropTicket n⟩
  all_goals unfold Core.dropTicket; split
  · rfl
  · exact (Core.clearReference_kept (.refl _) _).time
  · exact .refl _
  · show Oh.Kept c.oh (Core.clearReference _ _).oh
    rw [Core.clearReference_oh]; exact Oh.recount_kept _ _ _

/-- A ticket enters a table that has room for it. -/
theorem Core.enter_kept (h : Core.Kept c₀ c) (t : Ticket) (room : c₀.Sound → c.tc.tickets.length < 256) (ht : t.Fresh) :
    Core.Kept c₀ (c.enter t).1 :=
  ⟨h.time, h.oh.trans (Oh.recount_kept _ _ _), fun s => (h.sound s).enter (room s) ht⟩

theorem Core.dropTicket_tickets {n : Nat} {t : Ticket} (h : c.ticket n = some t) :
    (c.dropTicket n).tc.tickets = c.tc.tickets.filter fun u => decide (u.number ≠ n) := by
  simp only [Core.dropTicket, h, Core.gmReport]
  unfold Core.clearReference
  split <;> rfl

@[simp] theorem Core.makeRoom_kept (h : Core.Kept c₀ c) : Core.Kept c₀ c.makeRoom.1 := by
  unfold Core.makeRoom
  split
  · exact h
  · split <;> simp (maxDischargeDepth := 20) [h]

/-- Where there is room, the table has a free place (R115). -/
theorem Core.makeRoom_room (h : c.makeRoom.2 = true) (s : c.Sound) : c.makeRoom.1.tc.tickets.length < 256 := by
  unfold Core.makeRoom at h ⊢
  split
  · assumption
  · next hlt =>
    rw [if_neg hlt] at h
    split at h
    · next t ht =>
      obtain ⟨u, hu⟩ : ∃ u, c.ticket t.number = some u := by
        rcases hc : c.ticket t.number with _ | u
        · have := List.find?_eq_none.mp hc t (List.mem_of_find?_eq_some ht)
          simp at this
        · exact ⟨u, rfl⟩
      have hmem : t ∈ c.tc.tickets := List.mem_of_find?_eq_some ht
      have hlen : (c.tc.tickets.filter fun u => decide (u.number ≠ t.number)).length < c.tc.tickets.length := by
        refine Nat.lt_of_le_of_ne (List.length_filter_le _ _) fun he => ?_
        have := List.length_filter_eq_length_iff.mp he t hmem
        simp at this
      have := s.tc.tickets
      simp only [Core.dropTicket_tickets hu]
      omega
    · exact absurd h (by simp)

@[simp] theorem Core.noticeDue_kept (h : Core.Kept c₀ c) (n : Nat) : Core.Kept c₀ (c.noticeDue n) := by
  refine h.trans ⟨?_, ?_, fun s => s.noticeDue n⟩
  all_goals unfold Core.noticeDue; repeat' split
  all_goals first | rfl | exact .refl _ | exact (c.putTicket_frame n _).1 | exact (c.putTicket_frame n _).2

@[simp] theorem Core.takeChildren_kept (h : Core.Kept c₀ c) (g : Nat) (m : List Ticket) : Core.Kept c₀ (c.takeChildren g m) := by
  refine Core.foldl_kept (fun c t => ?_) m h
  exact ⟨(c.putTicket_frame _ _).1, (c.putTicket_frame _ _).2, fun s =>
    s.silence t.number (f := fun t => { t with parent := some g, noticePending := false }) (fun _ => rfl)
      (fun u h => ⟨h.1, h.2, h.3, h.4, h.5⟩) fun _ => rfl⟩

@[simp] theorem Core.reportFormed_kept (h : Core.Kept c₀ c) : Core.Kept c₀ c.reportFormed := Core.latchFlag_kept h _

/-- Room made and a ticket entered (R115). -/
theorem Core.enterRoom_kept (h : Core.Kept c₀ c) (hr : c.makeRoom.2 = true) {t : Ticket} (ht : t.Fresh) : Core.Kept c₀ (c.makeRoom.1.enter t).1 :=
  Core.enter_kept (Core.makeRoom_kept h) t (fun s => Core.makeRoom_room hr (h.sound s)) ht

@[simp] theorem Core.formGroup_kept (h : Core.Kept c₀ c) (key : Nat) (m : List Ticket) : Core.Kept c₀ (c.formGroup key m) := by
  unfold Core.formGroup
  dsimp only
  split
  · next hr =>
    exact Core.reportFormed_kept (Core.noticeDue_kept (Core.takeChildren_kept (Core.enterRoom_kept h hr (by simp)) _ _) _)
  · exact Core.makeRoom_kept h

@[simp] theorem Core.reviveGroup_kept (h : Core.Kept c₀ c) (g : Nat) (m : List Ticket) : Core.Kept c₀ (c.reviveGroup g m) := by
  simp (maxDischargeDepth := 20) [Core.reviveGroup, h]

@[simp] theorem Core.examineGroup_kept (h : Core.Kept c₀ c) (key : Nat) : Core.Kept c₀ (c.examineGroup key) := by
  have hg := Core.setGroups_kept h (m := Table.set [] c.gm.members key ((c.qualifying key).map (·.number))) fun w => Table.wf_set w
  unfold Core.examineGroup
  dsimp only
  split
  · exact hg
  · split
    · exact Core.formGroup_kept hg _ _
    · split
      · exact Core.reviveGroup_kept hg _ _
      · exact hg

@[simp] theorem Core.examineOf_kept (h : Core.Kept c₀ c) (n : Nat) : Core.Kept c₀ (c.examineOf n) := by
  unfold Core.examineOf; split <;> simp (maxDischargeDepth := 20) [h]

@[simp] theorem Core.standAlone_kept (h : Core.Kept c₀ c) (n : Nat) : Core.Kept c₀ (c.standAlone n) := by
  simp (maxDischargeDepth := 20) [Core.standAlone, h]

@[simp] theorem Core.adopt_kept (h : Core.Kept c₀ c) (n : Nat) (g : Ticket) : Core.Kept c₀ (c.adopt n g) := by
  unfold Core.adopt
  split
  · exact h
  · dsimp only; split <;> simp (maxDischargeDepth := 20) [h]

@[simp] theorem Core.childGone_kept (h : Core.Kept c₀ c) (g : Nat) : Core.Kept c₀ (c.childGone g) := by
  unfold Core.childGone
  dsimp only
  split
  · split <;> simp (maxDischargeDepth := 20) [h]
  · simp (maxDischargeDepth := 20) [h]

@[simp] theorem Core.examineHome_kept (h : Core.Kept c₀ c) (n : Nat) : Core.Kept c₀ (c.examineHome n) := by
  unfold Core.examineHome; split <;> simp (maxDischargeDepth := 20) [h]

@[simp] theorem Core.releaseChild_kept (h : Core.Kept c₀ c) (n : Nat) : Core.Kept c₀ (c.releaseChild n) := by
  unfold Core.releaseChild
  split
  · exact h
  · split
    · exact h
    · refine Core.examineHome_kept ?_ n
      split <;> simp (maxDischargeDepth := 20) [h]

@[simp] theorem Core.openProvisional_kept (h : Core.Kept c₀ c) (n : Nat) : Core.Kept c₀ (c.openProvisional n) := by
  unfold Core.openProvisional; dsimp only; split <;> simp (maxDischargeDepth := 20) [h]

@[simp] theorem Core.createLine_kept (h : Core.Kept c₀ c) (l : Nat) (cls : FaultClass) (p : Bool) {v : List LastValue} (hv : v.length ≤ 4) :
    Core.Kept c₀ (c.createLine l cls p v) := by
  unfold Core.createLine
  dsimp only
  split
  · next hr =>
    split
    · exact Core.adopt_kept (Core.updLine_kept (Core.enterRoom_kept h hr (by simp [hv])) _ _) _ _
    · split
      · exact Core.updLine_kept (Core.enterRoom_kept h hr (by simp [hv])) _ _
      · exact Core.standAlone_kept (Core.updLine_kept (Core.enterRoom_kept h hr (by simp [hv])) _ _) _
  · exact Core.updLine_kept (Core.makeRoom_kept h) _ _

@[simp] theorem Core.raiseParent_kept (h : Core.Kept c₀ c) (g v : Nat) : Core.Kept c₀ (c.raiseParent g v) := by
  unfold Core.raiseParent
  repeat' split
  all_goals simp (maxDischargeDepth := 20) [h]

@[simp] theorem Core.failure_kept (h : Core.Kept c₀ c) (n : Nat) (cls : FaultClass) {v : Option (List LastValue)}
    (hv : ∀ l, v = some l → l.length ≤ 4) (d : Bool) :
    Core.Kept c₀ (c.failure n cls v d) := by
  have hu := Ticket.update_keeps c.now cls hv
  unfold Core.failure
  split
  · exact h
  · dsimp only
    repeat' split
    all_goals simp (maxDischargeDepth := 20) [h, hu]

@[simp] theorem Core.directFailure_kept (h : Core.Kept c₀ c) (l : Nat) (cls : FaultClass) {v : Option (List LastValue)}
    (hv : ∀ l, v = some l → l.length ≤ 4) :
    Core.Kept c₀ (c.directFailure l cls v) := by
  have hd : (v.getD []).length ≤ 4 := by rcases v with _ | l; exacts [Nat.zero_le 4, hv l rfl]
  unfold Core.directFailure
  split
  · exact Core.failure_kept h _ cls hv _
  · exact Core.createLine_kept h _ cls _ hd

@[simp] theorem Core.confirmFail_kept (h : Core.Kept c₀ c) (n : Nat) (cls : FaultClass) {v : List LastValue}
    (hv : v.length ≤ 4) :
    Core.Kept c₀ (c.confirmFail n cls v) := by
  have hu := Ticket.update_keeps c.now cls (v := some v) fun l e => Option.some.inj e ▸ hv
  unfold Core.confirmFail
  refine Core.openProvisional_kept (Core.putTicket_kept h n ?_) n
  exact (Ticket.keeps_ite hu
    ⟨hu.number, hu.pending, fun t s => ⟨(hu.sound t s).1, (hu.sound t s).2, (hu.sound t s).3, (hu.sound t s).4, (hu.sound t s).5⟩⟩)

@[simp] theorem Core.verifyGood_kept (h : Core.Kept c₀ c) (n : Nat) : Core.Kept c₀ (c.verifyGood n) := by
  unfold Core.verifyGood
  repeat' split
  all_goals simp (maxDischargeDepth := 20) [h]

@[simp] theorem Core.retestAttempt_kept (h : Core.Kept c₀ c) (n : Nat) (w : Bool) : Core.Kept c₀ (c.retestAttempt n w) := by
  unfold Core.retestAttempt
  split
  · exact h
  · split
    · exact h
    · dsimp only; split <;> simp (maxDischargeDepth := 20) [h]

@[simp] theorem Core.retestReturned_kept (h : Core.Kept c₀ c) (r : Request) (p : Bool) : Core.Kept c₀ (c.retestReturned r p) := by
  unfold Core.retestReturned
  repeat' split
  all_goals simp (maxDischargeDepth := 20) [h]

@[simp] theorem Core.judgeRetest_kept (h : Core.Kept c₀ c) (r : Request) (reason : Reason) (o : RunOutcome) (v : RunVerdict)
    {l : List LastValue} (hl : l.length ≤ 4) : Core.Kept c₀ (c.judgeRetest r reason o v l) := by
  unfold Core.judgeRetest
  repeat' split
  all_goals simp (maxDischargeDepth := 20) [h, hl]

theorem lastValuesOf_length (r : List StepResult) : (lastValuesOf r).length ≤ 4 := by
  simp only [lastValuesOf, List.length_map]; exact List.length_take_le _ _

@[simp] theorem Core.handOver_kept (h : Core.Kept c₀ c) (r : Request) (o : RunOutcome) (cls : Option FaultClass) (x : List StepResult)
    (d : Bool) : Core.Kept c₀ (c.handOver r o cls x d) := by
  unfold Core.handOver
  dsimp only
  repeat' split
  all_goals simp (maxDischargeDepth := 20) [h, lastValuesOf_length]

@[simp] theorem Core.setReference_kept (h : Core.Kept c₀ c) (k : TicketKind) (s n : Nat) : Core.Kept c₀ (c.setReference k s n) := by
  unfold Core.setReference; split <;> simp (maxDischargeDepth := 20) [h]

@[simp] theorem Core.askEquipment_kept (h : Core.Kept c₀ c) (k : TicketKind) (s : Nat) (cls : FaultClass) :
    Core.Kept c₀ (c.askEquipment k s cls) := by
  unfold Core.askEquipment
  split
  · dsimp only
    split
    · next hr => exact Core.noticeDue_kept (Core.setReference_kept (Core.enterRoom_kept h hr (by simp)) _ _ _) _
    · exact Core.makeRoom_kept h
  · dsimp only; split <;> simp (maxDischargeDepth := 20) [h]

@[simp] theorem Core.recovered_kept (h : Core.Kept c₀ c) (k : TicketKind) (s : Nat) : Core.Kept c₀ (c.recovered k s) := by
  unfold Core.recovered
  repeat' split
  all_goals simp (maxDischargeDepth := 20) [h]

@[simp] theorem Core.lineRegrouped_kept (h : Core.Kept c₀ c) (l : Nat) : Core.Kept c₀ (c.lineRegrouped l) := by
  unfold Core.lineRegrouped
  dsimp only
  repeat' split
  all_goals simp (maxDischargeDepth := 20) [h]

@[simp] theorem Core.restartTickets_kept (h : Core.Kept c₀ c) : Core.Kept c₀ c.restartTickets := by
  unfold Core.restartTickets
  dsimp only
  have hd := Core.foldl_kept (fun c n => Core.dropTicket_kept (.refl c) n) ((c.tc.tickets.filter fun t => decide (t.state = .provisional)).map (·.number)) h
  refine hd.trans ⟨rfl, .refl _, fun s => s.mapTickets ?_ ?_ _⟩
  · refine Ticket.keeps_of ?_ ?_ ?_ ?_ ?_ ?_
    all_goals intro t; repeat' split
    all_goals simp_all
  · intro t; repeat' split
    all_goals rfl

@[simp] theorem Core.rebuildGroups_kept (h : Core.Kept c₀ c) : Core.Kept c₀ c.rebuildGroups := by
  refine Core.setGroups_kept h fun _ => ?_
  have : ∀ (l : List Nat) (m : Table (List Nat)), Table.wf [] m = true →
      Table.wf [] (l.foldl (fun m k => Table.set [] m k ((c.qualifying k).map (·.number))) m) = true := by
    intro l
    induction l with
    | nil => exact fun _ h => h
    | cons k l ih => exact fun m hm => ih _ (Table.wf_set hm)
  exact this _ _ rfl

@[simp] theorem Core.ack_kept (h : Core.Kept c₀ c) (n : Nat) : Core.Kept c₀ (c.ack n).1 := by
  unfold Core.ack
  repeat' split
  all_goals simp (maxDischargeDepth := 20) [h]

@[simp] theorem Core.fanOut_kept (h : Core.Kept c₀ c) (n : Nat) : Core.Kept c₀ (c.fanOut n).1 :=
  Core.foldl_kept (fun c m => Core.putTicket_kept (.refl c) m (Ticket.toVerify_keeps _)) _ (Core.putTicket_kept h n (Ticket.toVerify_keeps _))

@[simp] theorem Core.removeTrend_kept (h : Core.Kept c₀ c) (l : Nat) : Core.Kept c₀ (c.removeTrend l) := Core.updLine_kept h l _

@[simp] theorem Core.restartWatch_kept (h : Core.Kept c₀ c) : Core.Kept c₀ c.restartWatch :=
  h.trans ⟨rfl, .refl _, fun s => { s with lines := Table.wf_mapAll s.lines }⟩

end Sys2Proof.Machine
end

