-- ==== Sys2Proof/Laws/BlockFrame.lean ====
section
/-! SUPPORT. What the blocks behind the highway and the order handler (AC, LW, TC, GM, MS, MAU, TLC, CG's buffer) leave alone: whatever one
of them does, the commands waiting, the reset input, the sweep, the store, the tables that LOAD writes, the UP port, the latch and the
parameters stand, and a sound part stays sound. One lemma an operation: `op_kept`. -/

namespace Sys2Proof.Machine

/-! ### Runs -/

/-- The sequencer is sound, but that the run of bus b may have a result of the step under way: the step is over, and the next has not
begun. -/
structure Ms.SoundBut (b : Nat) (m : Ms) : Prop where
  results : m.results.length ≤ 64
  programmes : Table.wf none m.programmes = true
  steps : Table.wf none m.steps = true
  limits : Table.wf {} m.limits = true
  runs : Table.wf none m.runs = true
  pendingRuns : Table.wf none m.pendingRuns = true
  programme : ∀ n p, m.programme n = some p → p.count ≤ 12
  other : ∀ k ≠ b, ∀ x, Table.get none m.runs k = some x → x.Sound
  run : ∀ x, Table.get none m.runs b = some x → x.step ≤ 12 ∧ x.results.length ≤ x.step ∧ x.lost ≤ 65535

theorem Ms.Sound.but {m : Ms} (h : m.Sound) (b : Nat) : m.SoundBut b :=
  { h with
    other := fun k _ => h.run k
    run := fun x hx => ⟨(h.run b x hx).1, Nat.le_of_lt (h.run b x hx).2, (h.run b x hx).3⟩ }

/-- The run of bus b is no exception: it has no result of its step under way, or there is none. -/
theorem Ms.SoundBut.sound {b : Nat} {m : Ms} (h : m.SoundBut b)
    (hb : ∀ x, Table.get none m.runs b = some x → x.results.length < x.step) : m.Sound :=
  { h with
    run := fun k x hx => by
      by_cases hk : k = b
      · subst hk; exact ⟨(h.run x hx).1, hb x hx, (h.run x hx).2.2⟩
      · exact h.other k hk x hx }

/-! ### What an operation keeps -/

/-- What every such operation keeps, but for the soundness of the sequencer. -/
structure State.Frame (s t : State) : Prop where
  pending : t.pending = s.pending
  resetInput : t.resetInput = s.resetInput
  straps : t.straps = s.straps
  rs : t.rs = s.rs
  csi : t.csi = s.csi
  programmes : t.ms.programmes = s.ms.programmes
  steps : t.ms.steps = s.ms.steps
  limits : t.ms.limits = s.ms.limits
  treatment : t.htp.treatment = s.htp.treatment
  stateMap : t.htp.stateMap = s.htp.stateMap
  upReceiver : t.htp.upReceiver = s.htp.upReceiver
  downReceiver : t.htp.downReceiver = s.htp.downReceiver
  latch : t.htp.latch = s.htp.latch
  up : t.htp.up = s.htp.up
  waiting : t.cg.waiting = s.cg.waiting
  held : t.cg.held.length ≤ s.cg.held.length
  core : Core.Kept s.core t.core
  ac : s.ac.Sound → t.ac.Sound
  down : s.htp.down.insertion.length ≤ 16 → t.htp.down.insertion.length ≤ 16

/-- What every such operation keeps. -/
structure State.Kept (s t : State) : Prop extends State.Frame s t where
  ms : s.ms.Sound → t.ms.Sound

theorem State.Frame.refl (s : State) : State.Frame s s :=
  ⟨rfl, rfl, rfl, rfl, rfl, rfl, rfl, rfl, rfl, rfl, rfl, rfl, rfl, rfl, rfl, Nat.le_refl _, .refl _, id, id⟩

@[simp] theorem State.Kept.refl (s : State) : State.Kept s s := ⟨.refl s, id⟩

theorem State.Frame.trans {s t u : State} (h : State.Frame s t) (k : State.Frame t u) : State.Frame s u where
  pending := k.pending.trans h.pending
  resetInput := k.resetInput.trans h.resetInput
  straps := k.straps.trans h.straps
  rs := k.rs.trans h.rs
  csi := k.csi.trans h.csi
  programmes := k.programmes.trans h.programmes
  steps := k.steps.trans h.steps
  limits := k.limits.trans h.limits
  treatment := k.treatment.trans h.treatment
  stateMap := k.stateMap.trans h.stateMap
  upReceiver := k.upReceiver.trans h.upReceiver
  downReceiver := k.downReceiver.trans h.downReceiver
  latch := k.latch.trans h.latch
  up := k.up.trans h.up
  waiting := k.waiting.trans h.waiting
  held := Nat.le_trans k.held h.held
  core := h.core.trans k.core
  ac := fun s => k.ac (h.ac s)
  down := fun s => k.down (h.down s)

theorem State.Kept.trans {s t u : State} (h : State.Kept s t) (k : State.Kept t u) : State.Kept s u :=
  ⟨h.toFrame.trans k.toFrame, fun s => k.ms (h.ms s)⟩

/-- A sound part stays sound. -/
theorem State.Kept.sound {s t : State} (h : State.Kept s t) (hs : s.Sound) : t.Sound where
  core := h.core.sound hs.core
  rs := by rw [h.rs]; exact hs.rs
  ms := h.ms hs.ms
  ac := h.ac hs.ac
  htp := ⟨by rw [h.up]; exact hs.htp.up, h.down hs.htp.down, by rw [h.treatment]; exact hs.htp.treatment,
    by rw [h.stateMap]; exact hs.htp.stateMap⟩
  cg := ⟨Nat.le_trans h.held hs.cg.held, by rw [h.waiting]; exact hs.cg.waiting⟩
  running := by rw [h.core.oh.sweepRunning, h.rs]; exact hs.running
  passCount := by rw [h.core.oh.passCount, h.rs]; exact hs.passCount

/-- A fold of operations that each keep the part keeps it. -/
theorem State.foldl_kept {β : Type} {f : State → β → State} (hf : ∀ s x, State.Kept s (f s x)) (l : List β) {s₀ s : State}
    (h : State.Kept s₀ s) : State.Kept s₀ (l.foldl f s) := by
  induction l generalizing s with
  | nil => exact h
  | cons x l ih => exact ih (h.trans (hf s x))

variable {s₀ s : State}

/-! ### Named operations -/

theorem State.updCore_kept (h : State.Kept s₀ s) {f : Core → Core} (hf : Core.Kept s.core (f s.core)) : State.Kept s₀ (s.updCore f) :=
  h.trans { State.Kept.refl s with core := hf }

theorem State.updMs_kept (h : State.Kept s₀ s) {f : Ms → Ms} (hp : (f s.ms).programmes = s.ms.programmes)
    (hst : (f s.ms).steps = s.ms.steps) (hl : (f s.ms).limits = s.ms.limits) (hf : s.ms.Sound → (f s.ms).Sound) :
    State.Kept s₀ (s.updMs f) :=
  h.trans { State.Kept.refl s with programmes := hp, steps := hst, limits := hl, ms := hf }

theorem State.updAc_kept (h : State.Kept s₀ s) {f : Ac → Ac} (hf : s.ac.Sound → (f s.ac).Sound) : State.Kept s₀ (s.updAc f) :=
  h.trans { State.Kept.refl s with ac := hf }

@[simp] theorem State.oweWalk_kept (h : State.Kept s₀ s) : State.Kept s₀ (s.updAc fun a => { a with walkDue := true }) :=
  State.updAc_kept h fun k => ⟨k.1, k.2, k.3⟩

@[simp] theorem State.setQuota_kept (h : State.Kept s₀ s) (f : Ac → Nat) :
    State.Kept s₀ (s.updAc fun a => { a with quotaInForce := f a }) :=
  State.updAc_kept h fun k => ⟨k.1, k.2, k.3⟩

@[simp] theorem State.updLine_kept (h : State.Kept s₀ s) (l : Nat) (f : LineRec → LineRec) : State.Kept s₀ (s.updLine l f) :=
  State.updCore_kept h (Core.updLine_kept (.refl _) l f)

@[simp] theorem State.updShelf_kept (h : State.Kept s₀ s) (n : Nat) {f : ShelfRec → ShelfRec} (hf : ShelfRec.Keeps f) :
    State.Kept s₀ (s.updShelf n f) :=
  State.updCore_kept h (Core.updShelf_kept (.refl _) n hf)

@[simp] theorem State.updTestSet_kept (h : State.Kept s₀ s) (n : Nat) {f : TestSet → TestSet} (hf : TestSet.Keeps f) :
    State.Kept s₀ (s.updTestSet n f) :=
  State.updCore_kept h (Core.updTestSet_kept (.refl _) n hf)

@[simp] theorem State.putTicket_kept (h : State.Kept s₀ s) (n : Nat) {f : Ticket → Ticket} (hf : Ticket.Keeps f) :
    State.Kept s₀ (s.updCore fun c => c.putTicket n f) :=
  State.updCore_kept h (Core.putTicket_kept (.refl _) n hf)

@[simp] theorem State.retestAttempt_kept (h : State.Kept s₀ s) (n : Nat) (w : Bool) :
    State.Kept s₀ (s.updCore fun c => c.retestAttempt n w) :=
  State.updCore_kept h (Core.retestAttempt_kept (.refl _) n w)

@[simp] theorem State.retestReturned_kept (h : State.Kept s₀ s) (r : Request) (p : Bool) :
    State.Kept s₀ (s.updCore fun c => c.retestReturned r p) :=
  State.updCore_kept h (Core.retestReturned_kept (.refl _) r p)

@[simp] theorem State.handOver_kept (h : State.Kept s₀ s) (r : Request) (o : RunOutcome) (cls : Option FaultClass) (x : List StepResult)
    (d : Bool) : State.Kept s₀ (s.updCore fun c => c.handOver r o cls x d) :=
  State.updCore_kept h (Core.handOver_kept (.refl _) r o cls x d)

@[simp] theorem State.askEquipment_kept (h : State.Kept s₀ s) (k : TicketKind) (n : Nat) (cls : FaultClass) :
    State.Kept s₀ (s.updCore fun c => c.askEquipment k n cls) :=
  State.updCore_kept h (Core.askEquipment_kept (.refl _) k n cls)

@[simp] theorem State.recovered_kept (h : State.Kept s₀ s) (k : TicketKind) (n : Nat) :
    State.Kept s₀ (s.updCore fun c => c.recovered k n) :=
  State.updCore_kept h (Core.recovered_kept (.refl _) k n)

@[simp] theorem State.removeTrend_kept (h : State.Kept s₀ s) (l : Nat) : State.Kept s₀ (s.updCore fun c => c.removeTrend l) :=
  State.updCore_kept h (Core.removeTrend_kept (.refl _) l)

@[simp] theorem State.lineRegrouped_kept (h : State.Kept s₀ s) (l : Nat) : State.Kept s₀ (s.updCore fun c => c.lineRegrouped l) :=
  State.updCore_kept h (Core.lineRegrouped_kept (.refl _) l)

@[simp] theorem State.latchFlag_kept (h : State.Kept s₀ s) (f : Flag) : State.Kept s₀ (s.updOh fun o => o.latchFlag f) :=
  State.updCore_kept h (Core.latchFlag_kept (.refl _) f)

@[simp] theorem State.setSlot_kept (h : State.Kept s₀ s) (b : Nat) {r : Slot} (ha : r.attempt ≤ 3) (hp : r.pair ≤ 1) :
    State.Kept s₀ (s.setSlot b r) := by
  refine h.trans { State.Kept.refl s with ac := fun k => ⟨k.1, Table.wf_set k.2, fun m => ?_⟩ }
  simp only [State.setSlot, Table.get_set]; split; exacts [⟨ha, hp⟩, k.3 m]

/-- The change keeps a slot's attempt count and pair within their ranges. -/
structure Slot.Keeps (f : Slot → Slot) : Prop where
  attempt : ∀ r, r.attempt ≤ 3 → (f r).attempt ≤ 3
  pair : ∀ r, r.pair ≤ 1 → (f r).pair ≤ 1

@[simp] theorem Slot.keeps_of {f : Slot → Slot} (a : ∀ r, r.attempt ≤ 3 → (f r).attempt ≤ 3) (p : ∀ r, r.pair ≤ 1 → (f r).pair ≤ 1) :
    Slot.Keeps f := ⟨a, p⟩

@[simp] theorem State.updSlot_kept (h : State.Kept s₀ s) (b : Nat) {f : Slot → Slot} (hf : Slot.Keeps f) :
    State.Kept s₀ (s.updSlot b f) := by
  refine h.trans { State.Kept.refl s with ac := fun k => ⟨k.1, Table.wf_set k.2, fun m => ?_⟩ }
  simp only [State.updSlot, State.setSlot, Table.get_set]; split; exacts [⟨hf.1 _ (k.3 b).1, hf.2 _ (k.3 b).2⟩, k.3 m]

/-- A run record is replaced by none, or by one that is sound. -/
theorem State.setRun_kept (h : State.Kept s₀ s) (b : Nat) {r : Option Run} (hr : ∀ x, r = some x → x.Sound) :
    State.Kept s₀ (s.setRun b r) := by
  refine h.trans { State.Kept.refl s with
    ms := fun k => { k with runs := Table.wf_set k.runs, programme := k.programme, run := fun m x hx => ?_ } }
  simp only [State.setRun, State.updMs, Table.get_set] at hx
  split at hx
  · exact hr x hx
  · exact k.run m x hx

@[simp] theorem State.clearRun_kept (h : State.Kept s₀ s) (b : Nat) : State.Kept s₀ (s.setRun b none) :=
  State.setRun_kept h b (by simp)

/-- The change leaves a run's step and results, and keeps its lost count in range. -/
structure Run.Keeps (f : Run → Run) : Prop where
  step : ∀ x, (f x).step = x.step
  results : ∀ x, (f x).results = x.results
  lost : ∀ x, x.lost ≤ 65535 → (f x).lost ≤ 65535

@[simp] theorem Run.keeps_of {f : Run → Run} (a : ∀ x, (f x).step = x.step) (b : ∀ x, (f x).results = x.results)
    (c : ∀ x, x.lost ≤ 65535 → (f x).lost ≤ 65535) : Run.Keeps f := ⟨a, b, c⟩

@[simp] theorem State.updRun_kept (h : State.Kept s₀ s) (b : Nat) {f : Run → Run} (hf : Run.Keeps f) : State.Kept s₀ (s.updRun b f) := by
  refine h.trans { State.Kept.refl s with
    ms := fun k => { k with runs := Table.wf_set k.runs, programme := k.programme, run := fun m x hx => ?_ } }
  simp only [State.updRun, State.setRun, State.updMs, Table.get_set] at hx
  split at hx
  · obtain ⟨y, hy, rfl⟩ := Option.map_eq_some_iff.mp hx
    have := k.run b y hy
    exact ⟨by rw [hf.step]; exact this.1, by rw [hf.step, hf.results]; exact this.2, hf.lost y this.3⟩
  · exact k.run m x hx

@[simp] theorem State.setPendingRun_kept (h : State.Kept s₀ s) (b : Nat) (p : Option Nat) : State.Kept s₀ (s.setPendingRun b p) :=
  State.updMs_kept h rfl rfl rfl fun k =>
    { k with pendingRuns := Table.wf_set k.pendingRuns, programme := k.programme }

@[simp] theorem State.passDown_kept (h : State.Kept s₀ s) (f : Octets) : State.Kept s₀ (s.passDown f) :=
  h.trans { State.Kept.refl s with down := id }

@[simp] theorem State.setOrder_kept (h : State.Kept s₀ s) (o : AccessOwner) (t : Transaction) : State.Kept s₀ (s.setOrder o t) := by
  unfold State.setOrder; split <;> simp (maxDischargeDepth := 20) [h]

/-- A frame enters the DOWN insertion queue at a free place (R167). -/
theorem State.insertDown_kept (h : State.Kept s₀ s) (f : OwnFrame) (hf : s.downFree = true) : State.Kept s₀ (s.insertDown f) := by
  refine h.trans { State.Kept.refl s with down := fun _ => ?_ }
  have := of_decide_eq_true hf
  simp only [State.insertDown, State.updHtp, OutPort.insert, List.length_append, List.length_cons, List.length_nil]
  omega

@[simp] theorem State.makeReady_kept (h : State.Kept s₀ s) (o : AccessOwner) (op : AccessOp) : State.Kept s₀ (s.makeReady o op) := by
  unfold State.makeReady
  split
  · next hf => exact State.setOrder_kept (State.insertDown_kept h _ hf) _ _
  · exact State.setOrder_kept h _ _

@[simp] theorem State.endOrder_kept (h : State.Kept s₀ s) (o : AccessOwner) : State.Kept s₀ (s.endOrder o) := by
  have hk := State.setOrder_kept h o .idle
  refine hk.trans { State.Kept.refl (s.setOrder o .idle) with down := fun hd => ?_ }
  simpa [State.updHtp, State.endOrder] using hd

@[simp] theorem State.refreshConditions_kept (h : State.Kept s₀ s) : State.Kept s₀ s.refreshConditions := by
  unfold State.refreshConditions
  refine State.updCore_kept h (Core.updOh_kept (.refl _) ?_ ?_)
  · exact (((Oh.setCondition_kept _ _ _).trans (Oh.setCondition_kept _ _ _)).trans (Oh.setCondition_kept _ _ _)).trans
      (Oh.setCondition_kept _ _ _)
  · exact (((Oh.setCondition_counts _ _ _).trans (Oh.setCondition_counts _ _ _)).trans (Oh.setCondition_counts _ _ _)).trans
      (Oh.setCondition_counts _ _ _)

/-! ### The access queue and the arbiter -/

theorem length_insertBy {α : Type} (before : α → α → Bool) (x : α) (l : List α) : (insertBy before x l).length = l.length + 1 := by
  induction l with
  | nil => rfl
  | cons y ys ih => unfold insertBy; split <;> simp (maxDischargeDepth := 20) [ih]

/-- A request enters a queue with a free place (R22). -/
theorem State.enterQueue_kept (h : State.Kept s₀ s) (r : Request) (hq : s.ac.queue.length < 32) : State.Kept s₀ (s.enterQueue r) := by
  unfold State.enterQueue
  refine State.updLine_kept (State.updAc_kept h fun k => ⟨?_, k.2, k.3⟩) _ _
  rw [length_insertBy]; omega

theorem State.refusal_room {r : Request} (h : s.refusal r = none) : s.ac.queue.length < 32 := by
  unfold State.refusal at h
  repeat' split at h
  all_goals first | omega | (exact absurd h (by simp))

@[simp] theorem State.offerCore_kept (h : State.Kept s₀ s) (r : Request) : State.Kept s₀ (s.offerCore r).1 := by
  unfold State.offerCore
  split
  · exact h
  · next hr => exact State.enterQueue_kept h r (State.refusal_room hr)

theorem State.takeFromQueue_kept (h : State.Kept s₀ s) (r : Request) :
    State.Kept s₀ (s.updAc fun a => { a with queue := a.queue.erase r, departed := true }) :=
  State.updAc_kept h fun k => ⟨Nat.le_trans (List.length_erase_le) k.1, k.2, k.3⟩

theorem State.choosePair_le (s : State) (n : Nat) : s.choosePair n ≤ 1 := by unfold State.choosePair; split <;> decide

@[simp] theorem State.grant_kept (h : State.Kept s₀ s) (r : Request) (b : Nat) : State.Kept s₀ (s.grant r b) := by
  unfold State.grant
  refine State.makeReady_kept (State.setSlot_kept (State.updShelf_kept (State.updLine_kept (State.takeFromQueue_kept h r) _ _) _ ?_) b
    (by simp) (State.choosePair_le s _)) _ _
  exact ShelfRec.keeps_of (fun _ k => Nat.le_trans (Nat.sub_le _ _) k) fun _ k => k

@[simp] theorem State.visit_kept (h : State.Kept s₀ s) (r : Request) : State.Kept s₀ (s.visit r) := by
  unfold State.visit
  repeat' split
  all_goals simp (maxDischargeDepth := 20) [h]

@[simp] theorem State.walk_kept (h : State.Kept s₀ s) : State.Kept s₀ s.walk :=
  State.foldl_kept (fun s r => State.visit_kept (.refl s) r) _ h

@[simp] theorem State.offerRetest_kept (h : State.Kept s₀ s) (n : Nat) : State.Kept s₀ (s.offerRetest n).1 := by
  unfold State.offerRetest
  split
  · exact h
  · next t ht =>
    split
    · split
      · exact h
      · next w hw =>
        have ho := State.offerCore_kept h (s.retestRequest t.subject (s.routineProgramme t.subject) w.reason (some n))
        have hk : ∀ v : Retest, v.attempts = w.attempts → s₀.core.Sound → Ticket.Keeps fun t => { t with retest := some v } := by
          intro v hv k
          refine Ticket.keeps_of (fun _ => rfl) (fun _ => rfl) (fun _ h => h) (fun _ h => h) (fun _ h => h) fun _ _ u hu => ?_
          obtain rfl := Option.some.inj hu
          exact hv ▸ ((h.core.sound k).tc.each t (Tc.find_some ht).1).attempts w hw
        dsimp only
        split
        · exact { ho with core := Core.putTicket_keptIf ho.core n (hk _ rfl) }
        · exact State.retestAttempt_kept ho n false
        · exact { ho with core := Core.putTicket_keptIf ho.core n (hk _ rfl) }
    · exact h

@[simp] theorem State.offerRetests_kept (h : State.Kept s₀ s) (l : List Nat) : State.Kept s₀ (s.offerRetests l) := by
  induction l generalizing s with
  | nil => exact h
  | cons n l ih =>
    unfold State.offerRetests
    dsimp only
    split
    · exact State.offerRetest_kept h n
    · exact ih (State.offerRetest_kept h n)

theorem State.clearDeparted_kept (h : State.Kept s₀ s) : State.Kept s₀ (s.updAc fun a => { a with departed := false }) :=
  State.updAc_kept h fun k => ⟨k.1, k.2, k.3⟩

theorem State.clearWalk_kept (h : State.Kept s₀ s) : State.Kept s₀ (s.updAc fun a => { a with walkDue := false }) :=
  State.updAc_kept h fun k => ⟨k.1, k.2, k.3⟩

@[simp] theorem State.settleRounds_kept (n : Nat) (h : State.Kept s₀ s) : State.Kept s₀ (State.settleRounds n s) := by
  induction n generalizing s with
  | zero => exact h
  | succ n ih =>
    unfold State.settleRounds
    dsimp only
    generalize hu : (if s.ac.departed = true then
        (s.updAc fun a => { a with departed := false }).offerRetests (s.updAc fun a => { a with departed := false }).dueRetests
        else s) = u
    have hk : State.Kept s₀ u := by
      rw [← hu]; split
      · exact State.offerRetests_kept (State.clearDeparted_kept h) _
      · exact h
    split
    · exact ih (State.walk_kept (State.clearWalk_kept hk))
    · exact hk

@[simp] theorem State.settle_kept (h : State.Kept s₀ s) : State.Kept s₀ s.settle := State.settleRounds_kept 8 h

@[simp] theorem State.offer_kept (h : State.Kept s₀ s) (r : Request) : State.Kept s₀ (s.offer r).1 := by
  have hc := State.offerCore_kept h r
  unfold State.offer
  split
  · next he => rw [he] at hc; exact State.settle_kept hc
  · next he => rw [he] at hc; exact hc

@[simp] theorem State.offerAndDrop_kept (h : State.Kept s₀ s) (r : Request) : State.Kept s₀ (s.offerAndDrop r) := State.offer_kept h r

@[simp] theorem State.offerFallen_kept (h : State.Kept s₀ s) (n : Nat) : State.Kept s₀ (s.offerFallen n) :=
  State.settle_kept (State.offerRetest_kept h n)

@[simp] theorem State.examineIdleRetest_kept (h : State.Kept s₀ s) (l : Nat) : State.Kept s₀ (s.examineIdleRetest l) := by
  unfold State.examineIdleRetest
  repeat' split
  all_goals simp (maxDischargeDepth := 20) [h]

@[simp] theorem State.makeResult_kept (h : State.Kept s₀ s) (r : Result) : State.Kept s₀ (s.makeResult r) := by
  unfold State.makeResult
  refine State.updMs_kept h ?_ ?_ ?_ ?_
  all_goals try (split <;> rfl)
  intro k
  split
  · exact { k with results := by simp; omega, programme := k.programme }
  · exact k

@[simp] theorem State.resultOf_kept (h : State.Kept s₀ s) (r : Request) (b : Option Nat) (o : RunOutcome) :
    State.Kept s₀ (s.resultOf r b o) := State.makeResult_kept h _

@[simp] theorem State.beginRelease_kept (h : State.Kept s₀ s) (b : Nat) (c : Cause) : State.Kept s₀ (s.beginRelease b c) := by
  simp (maxDischargeDepth := 20) [State.beginRelease, h]

@[simp] theorem State.markEnded_kept (h : State.Kept s₀ s) (b : Nat) : State.Kept s₀ (s.markEnded b) :=
  State.updSlot_kept h b (by simp)

/-! ### The Line Watch and the endings of requests -/

@[simp] theorem State.countHit_kept (h : State.Kept s₀ s) (l : Nat) : State.Kept s₀ (s.countHit l) := State.updLine_kept h l _

@[simp] theorem State.offerHits_kept (h : State.Kept s₀ s) (l : Nat) : State.Kept s₀ (s.offerHits l) := State.offerAndDrop_kept h _

@[simp] theorem State.examineHits_kept (h : State.Kept s₀ s) (l : Nat) : State.Kept s₀ (s.examineHits l) := by
  unfold State.examineHits; split <;> simp (maxDischargeDepth := 20) [h]

@[simp] theorem State.examineLockout_kept (h : State.Kept s₀ s) (l : Nat) : State.Kept s₀ (s.examineLockout l) := by
  unfold State.examineLockout
  repeat' split
  all_goals simp (maxDischargeDepth := 20) [h]

@[simp] theorem State.examineReOffer_kept (h : State.Kept s₀ s) (l : Nat) : State.Kept s₀ (s.examineReOffer l) := by
  unfold State.examineReOffer; split <;> simp (maxDischargeDepth := 20) [h]

@[simp] theorem State.applyReport_kept (h : State.Kept s₀ s) (l : Nat) (c : CallState) : State.Kept s₀ (s.applyReport l c) := by
  unfold State.applyReport
  dsimp only
  split
  · exact h
  · split <;> simp (maxDischargeDepth := 20) [h]

@[simp] theorem State.lineReport_kept (h : State.Kept s₀ s) (l : Nat) (c : CallState) : State.Kept s₀ (s.lineReport l c) := by
  unfold State.lineReport
  repeat' split
  all_goals simp (maxDischargeDepth := 20) [h]

@[simp] theorem State.applyDeferred_kept (h : State.Kept s₀ s) (l : Nat) : State.Kept s₀ (s.applyDeferred l) := by
  unfold State.applyDeferred; split <;> simp (maxDischargeDepth := 20) [h]

@[simp] theorem State.lineIdle_kept (h : State.Kept s₀ s) (l : Nat) : State.Kept s₀ (s.lineIdle l) := by
  simp (maxDischargeDepth := 20) [State.lineIdle, h]

@[simp] theorem State.accessOver_kept (h : State.Kept s₀ s) (l : Nat) : State.Kept s₀ (s.accessOver l) := by
  simp (maxDischargeDepth := 20) [State.accessOver, h]

@[simp] theorem State.releaseHeld_kept (h : State.Kept s₀ s) (l : Nat) : State.Kept s₀ (s.releaseHeld l) := by
  have hf := State.foldl_kept (f := fun s x => if x.line = l then s.passDown x.frame else s)
    (fun s x => by split <;> simp) s.cg.held h
  exact hf.trans { State.Kept.refl _ with held := List.length_filter_le _ _ }

@[simp] theorem State.returnRetest_kept (h : State.Kept s₀ s) (r : Request) (p : Bool) : State.Kept s₀ (s.returnRetest r p) := by
  unfold State.returnRetest
  repeat' split
  all_goals simp (maxDischargeDepth := 20) [h]

@[simp] theorem State.markSkipped_kept (h : State.Kept s₀ s) (l : Nat) : State.Kept s₀ (s.markSkipped l) := State.updLine_kept h l _

@[simp] theorem State.endRequest_kept (h : State.Kept s₀ s) (r : Request) (b : Option Nat) (e : Ending) :
    State.Kept s₀ (s.endRequest r b e) := by
  unfold State.endRequest
  repeat' split
  all_goals simp (maxDischargeDepth := 20) [h]

@[simp] theorem State.endSlotRequest_kept (h : State.Kept s₀ s) (b : Nat) (e : Ending) : State.Kept s₀ (s.endSlotRequest b e) := by
  unfold State.endSlotRequest
  repeat' split
  all_goals simp (maxDischargeDepth := 20) [h]

@[simp] theorem State.dequeue_kept (h : State.Kept s₀ s) (r : Request) : State.Kept s₀ (s.dequeue r) :=
  State.updLine_kept (State.takeFromQueue_kept h r) _ _

@[simp] theorem State.expel_kept (h : State.Kept s₀ s) (rs : List Request) (e : Ending) : State.Kept s₀ (s.expel rs e) :=
  State.foldl_kept (fun s _ => State.lineIdle_kept (.refl s) _) _
    (State.foldl_kept (fun s r => State.endRequest_kept (State.dequeue_kept (.refl s) r) r none e) _ h)

@[simp] theorem State.quotaChanged_kept (h : State.Kept s₀ s) (w : Nat) : State.Kept s₀ (s.quotaChanged w) := by
  unfold State.quotaChanged
  dsimp only
  split
  · exact State.setQuota_kept h fun _ => _
  · split
    · exact State.setQuota_kept (State.expel_kept h _ _) fun _ => _
    · exact h

@[simp] theorem State.routineLeft_kept (h : State.Kept s₀ s) (r : Option Request) : State.Kept s₀ (s.routineLeft r) := by
  unfold State.routineLeft
  split
  · split
    · exact State.setQuota_kept h fun a => a.quotaInForce - 1
    · exact h
  · exact h

/-! ### Links and runs -/

theorem nextTag_lt (n : Nat) : nextTag n < 16 := Nat.mod_lt _ (by decide)

@[simp] theorem State.sendLink_kept (h : State.Kept s₀ s) (n : Nat) (m : LinkMsg) (t : Bool) : State.Kept s₀ (s.sendLink n m t) :=
  State.updTestSet_kept h n (by simp)

@[simp] theorem State.sendStream_kept (h : State.Kept s₀ s) (n : Nat) (on : Bool) : State.Kept s₀ (s.sendStream n on) := by
  unfold State.sendStream
  refine State.sendLink_kept (State.updTestSet_kept h n ?_) n _ _
  refine TestSet.keeps_of (fun _ k => k) (fun _ k => ?_) (fun _ k => k) fun _ k => k
  dsimp only; split; exacts [by decide, k]

@[simp] theorem State.sendSource_kept (h : State.Kept s₀ s) (n : Nat) (p : LeadPair) (m : SourceMode) (l sl : Int) (r : CurrentRange)
    (c : Coupling) (t : Bool) : State.Kept s₀ (s.sendSource n p m l sl r c t) := by
  simp (maxDischargeDepth := 20) [State.sendSource, h, nextTag_lt]

@[simp] theorem State.sourceOff_kept (h : State.Kept s₀ s) (n : Nat) : State.Kept s₀ (s.sourceOff n) := by
  simp (maxDischargeDepth := 20) [State.sourceOff, h]

@[simp] theorem State.askSource_kept (h : State.Kept s₀ s) (n : Nat) (st : Step) (a b : Int) : State.Kept s₀ (s.askSource n st a b) := by
  unfold State.askSource; split <;> simp (maxDischargeDepth := 20) [h]

@[simp] theorem State.stopStepTimers_kept (h : State.Kept s₀ s) (n : Nat) : State.Kept s₀ (s.stopStepTimers n) :=
  State.updTestSet_kept h n (by simp)

@[simp] theorem State.stopAnswerTimer_kept (h : State.Kept s₀ s) (n : Nat) : State.Kept s₀ (s.stopAnswerTimer n) :=
  State.updTestSet_kept h n (by simp)

@[simp] theorem State.enumerate_kept (h : State.Kept s₀ s) (n : Nat) : State.Kept s₀ (s.enumerate n) := by
  simp (maxDischargeDepth := 20) [State.enumerate, h]

@[simp] theorem State.probeSet_kept (h : State.Kept s₀ s) (n : Nat) : State.Kept s₀ (s.probeSet n) := by
  simp (maxDischargeDepth := 20) [State.probeSet, h]

@[simp] theorem State.goReady_kept (h : State.Kept s₀ s) (n : Nat) : State.Kept s₀ (s.goReady n) := by
  unfold State.goReady
  dsimp only
  split <;> simp (maxDischargeDepth := 20) [h]

@[simp] theorem State.agree_kept (h : State.Kept s₀ s) (n : Nat) (t : SetType) (k : KindSet) (r : RateSet) :
    State.Kept s₀ (s.agree n t k r) := by
  unfold State.agree
  dsimp only
  cases t <;> dsimp only <;> split <;> simp (maxDischargeDepth := 20) [h]

@[simp] theorem State.endIdentify_kept (h : State.Kept s₀ s) (n : Nat) : State.Kept s₀ (s.endIdentify n) := by
  simp (maxDischargeDepth := 20) [State.endIdentify, h]

@[simp] theorem State.endEnumeration_kept (h : State.Kept s₀ s) (n : Nat) : State.Kept s₀ (s.endEnumeration n) := by
  simp (maxDischargeDepth := 20) [State.endEnumeration, h]

@[simp] theorem State.reagree_kept (h : State.Kept s₀ s) (n : Nat) : State.Kept s₀ (s.reagree n) := by
  unfold State.reagree
  split
  · exact h
  · dsimp only
    repeat' split
    all_goals simp (maxDischargeDepth := 20) [h]

@[simp] theorem State.applyStep_kept (h : State.Kept s₀ s) (b : Nat) (st : Step) (r : Ramp) : State.Kept s₀ (s.applyStep b st r) := by
  unfold State.applyStep
  dsimp only
  split <;> simp (maxDischargeDepth := 20) [h]

/-- What is kept while the run of bus b is between two steps. -/
structure State.KeptBut (b : Nat) (s t : State) : Prop extends State.Frame s t where
  ms : s.ms.Sound → t.ms.SoundBut b

theorem State.Kept.but (h : State.Kept s₀ s) (b : Nat) : State.KeptBut b s₀ s := ⟨h.toFrame, fun k => (h.ms k).but b⟩

/-- An operation that leaves the sequencer alone. -/
theorem State.KeptBut.transMs {b : Nat} {t : State} (h : State.KeptBut b s₀ s) (k : State.Kept s t) (hm : t.ms = s.ms) :
    State.KeptBut b s₀ t := ⟨h.toFrame.trans k.toFrame, fun m => hm ▸ h.ms m⟩

/-- A run with no result of its step under way is no exception. -/
theorem State.KeptBut.kept {b : Nat} (h : State.KeptBut b s₀ s)
    (hb : s₀.ms.Sound → ∀ x, s.run b = some x → x.results.length < x.step) : State.Kept s₀ s :=
  ⟨h.toFrame, fun k => (h.ms k).sound (hb k)⟩

/-- The run of the bus that is changed. -/
theorem State.run_updRun_self (s : State) (b : Nat) (f : Run → Run) : (s.updRun b f).run b = (s.run b).map f := by
  simp [State.run, State.updRun, State.setRun, State.updMs]

/-- A change of the run of bus b alone. -/
theorem State.KeptBut.updRun {b : Nat} (h : State.KeptBut b s₀ s) {f : Run → Run}
    (hf : s₀.ms.Sound → ∀ x, s.run b = some x → (f x).step ≤ 12 ∧ (f x).results.length ≤ (f x).step ∧ (f x).lost ≤ 65535) :
    State.KeptBut b s₀ (s.updRun b f) := by
  refine { h with ms := fun k => { h.ms k with runs := Table.wf_set (h.ms k).runs, programme := (h.ms k).programme, other := ?_, run := ?_ } }
  · intro m hm x hx
    simp only [State.updRun, State.setRun, State.updMs, Table.get_set, if_neg hm] at hx
    exact (h.ms k).other m hm x hx
  · intro x hx
    obtain ⟨y, hy, rfl⟩ := Option.map_eq_some_iff.mp ((s.run_updRun_self b f).symm.trans hx)
    exact hf k y hy

/-- A step's result is the one result of the step under way (R72). -/
theorem State.record_kept (h : State.Kept s₀ s) (b : Nat) (x : StepResult) : State.KeptBut b s₀ (s.record b x) := by
  refine (h.but b).updRun fun k y hy => ?_
  have := (h.ms k).run b y hy
  exact ⟨this.1, by simpa using this.2, this.3⟩

/-- The steps that begin leave the run between two steps, or at a step that has no result. -/
theorem State.beginSteps_kept (b : Nat) (p : Programme) (n k : Nat) (h : State.KeptBut b s₀ s)
    (hk : s₀.ms.Sound → ∀ x, s.run b = some x → x.results.length < k) (hn : s₀.ms.Sound → n = 0 ∨ k + n ≤ 13) :
    State.KeptBut b s₀ (State.beginSteps b p n k s).1
      ∧ ((State.beginSteps b p n k s).2 = true → State.Kept s₀ (State.beginSteps b p n k s).1) := by
  induction n generalizing k s with
  | zero => exact ⟨h, fun e => absurd e (by simp [State.beginSteps])⟩
  | succ n ih =>
    unfold State.beginSteps
    split
    · exact ⟨h, fun e => absurd e (by simp)⟩
    · next st _ =>
      have hu : State.Kept s₀ (s.updRun b fun r => { r with step := k, retryUsed := false, ramp := .none }) := by
        refine State.KeptBut.kept (h.updRun fun m x hx => ⟨?_, Nat.le_of_lt (hk m x hx), ((h.ms m).run x hx).2.2⟩) fun m x hx => ?_
        · have := hn m; dsimp only; omega
        · obtain ⟨y, hy, rfl⟩ := Option.map_eq_some_iff.mp ((s.run_updRun_self b _).symm.trans hx)
          exact hk m y hy
      dsimp only
      split
      · refine ih (k + 1) (State.record_kept hu b _) (fun m x hx => ?_) fun m => ?_
        · obtain ⟨y, hy, rfl⟩ := Option.map_eq_some_iff.mp ((State.run_updRun_self _ b _).symm.trans hx)
          obtain ⟨z, hz, rfl⟩ := Option.map_eq_some_iff.mp ((State.run_updRun_self _ b _).symm.trans hy)
          have := hk m z hz
          simpa using this
        · have := hn m; omega
      · have ha := State.applyStep_kept hu b st st.firstRamp
        exact ⟨ha.but b, fun _ => ha⟩

@[simp] theorem State.restSource_kept (h : State.Kept s₀ s) (b : Nat) : State.Kept s₀ (s.restSource b) := by
  unfold State.restSource
  dsimp only
  split <;> simp (maxDischargeDepth := 20) [h]

@[simp] theorem State.runResult_kept (h : State.Kept s₀ s) (b : Nat) (r : Request) (x : Run) (o : RunOutcome) (f : Option FaultClass) :
    State.Kept s₀ (s.runResult b r x o f) := by
  unfold State.runResult
  dsimp only
  repeat' split
  all_goals simp (maxDischargeDepth := 20) [h]

@[simp] theorem State.stopStepTimers_ms (s : State) (n : Nat) : (s.stopStepTimers n).ms = s.ms := rfl

@[simp] theorem State.sourceOff_ms (s : State) (n : Nat) : (s.sourceOff n).ms = s.ms := rfl

@[simp] theorem State.sendStream_ms (s : State) (n : Nat) (on : Bool) : (s.sendStream n on).ms = s.ms := rfl

theorem State.restSource_ms (s : State) (b : Nat) : (s.restSource b).ms = s.ms := by
  unfold State.restSource
  dsimp only
  split <;> simp

/-- A change of the sequencer that leaves its tables alone. -/
theorem State.KeptBut.updMs {b : Nat} (h : State.KeptBut b s₀ s) {f : Ms → Ms} (hp : (f s.ms).programmes = s.ms.programmes)
    (hst : (f s.ms).steps = s.ms.steps) (hl : (f s.ms).limits = s.ms.limits) (hf : s.ms.SoundBut b → (f s.ms).SoundBut b) :
    State.KeptBut b s₀ (s.updMs f) :=
  ⟨h.toFrame.trans { State.Frame.refl s with programmes := hp, steps := hst, limits := hl : State.Frame s (s.updMs f) }, fun k => hf (h.ms k)⟩

/-- A run's RESULT joins the list where it is due and there is room (R88, R89). -/
theorem State.KeptBut.runResult {b : Nat} (h : State.KeptBut b s₀ s) (r : Request) (x : Run) (o : RunOutcome) (f : Option FaultClass) :
    State.KeptBut b s₀ (s.runResult b r x o f) := by
  have hm : ∀ r, State.KeptBut b s₀ (s.makeResult r) := by
    intro r
    refine h.updMs ?_ ?_ ?_ fun k => ?_
    all_goals try (split <;> rfl)
    split
    · exact { k with results := by simp; omega, programme := k.programme }
    · exact k
  unfold State.runResult
  dsimp only
  repeat' split
  all_goals first | exact hm _ | exact h

/-- A run that ends leaves no run behind (R82). -/
theorem State.KeptBut.clearRun {b : Nat} (h : State.KeptBut b s₀ s) : State.Kept s₀ (s.setRun b none) := by
  refine State.KeptBut.kept (h.updMs (f := fun m => { m with runs := Table.set none m.runs b none }) rfl rfl rfl fun k => { k with
    runs := Table.wf_set (k := b) (v := none) k.runs, programme := k.programme, other := fun m hm x hx => ?_, run := fun x hx => ?_ })
    fun _ x hx => ?_
  · rw [Table.get_set, if_neg hm] at hx
    exact k.other m hm x hx
  · simp at hx
  · simp [State.run, State.setRun, State.updMs] at hx

/-- The end of a run mends what its last result left. -/
theorem State.closeRun_mends {b : Nat} (h : State.KeptBut b s₀ s) (o : RunOutcome) : State.Kept s₀ (s.closeRun b o) := by
  unfold State.closeRun
  split
  · next r _ _ =>
    have h1 := h.transMs (State.restSource_kept (.refl s) b) (s.restSource_ms b)
    refine State.KeptBut.clearRun (State.KeptBut.runResult (State.KeptBut.transMs (State.KeptBut.transMs h1
      (State.updLine_kept (.refl _) r.line _) ?_) (State.handOver_kept (.refl _) r o _ _ _) ?_) _ _ _ _)
    all_goals rfl
  · exact h.clearRun

@[simp] theorem State.closeRun_kept (h : State.Kept s₀ s) (b : Nat) (o : RunOutcome) : State.Kept s₀ (s.closeRun b o) :=
  State.closeRun_mends (h.but b) o

@[simp] theorem State.afterLastRun_kept (h : State.Kept s₀ s) (b : Nat) : State.Kept s₀ (s.afterLastRun b) := by
  unfold State.afterLastRun; split <;> simp (maxDischargeDepth := 20) [h]

theorem State.startRun_kept (h : State.Kept s₀ s) (b p : Nat) :
    State.KeptBut b s₀ (s.startRun b p).1 ∧ ((s.startRun b p).2 = true → State.Kept s₀ (s.startRun b p).1) := by
  unfold State.startRun
  dsimp only
  generalize (((s.slot b).request.map fun r => (s.line r.line).channels).getD {}) = start
  have hr := State.setRun_kept h b (r := some { programme := p, start := start }) fun x hx => by
    obtain rfl := Option.some.inj hx; exact ⟨Nat.le_of_ble_eq_true rfl, Nat.zero_lt_one, Nat.zero_le _⟩
  split
  · exact ⟨hr.but b, fun e => absurd e (by simp)⟩
  · next q hq =>
    refine State.beginSteps_kept b q q.count 1 (hr.but b) (fun _ x hx => ?_) fun k => ?_
    · simp only [State.run, State.setRun, State.updMs, Table.get_set, if_true] at hx
      obtain rfl := Option.some.inj hx; exact Nat.zero_lt_one
    · have := (hr.ms k).programme p q hq; omega

theorem State.finishRun_mends {b : Nat} (h : State.KeptBut b s₀ s) : State.Kept s₀ (s.finishRun b) := by
  unfold State.finishRun
  split
  · next hn => exact h.kept fun _ x hx => absurd (hn.symm.trans hx) (by simp)
  · next x _ =>
    have hc := State.closeRun_mends h (s.ownOutcome x)
    dsimp only
    split
    · exact State.afterLastRun_kept hc b
    · next p _ =>
      have hs := State.startRun_kept (State.setPendingRun_kept hc b none) b p
      split
      · next ht => exact hs.2 ht
      · split
        · next hn => exact hs.1.kept fun _ x hx => absurd (hn.symm.trans hx) (by simp)
        · exact State.afterLastRun_kept (State.closeRun_mends hs.1 _) b

@[simp] theorem State.finishRun_kept (h : State.Kept s₀ s) (b : Nat) : State.Kept s₀ (s.finishRun b) :=
  State.finishRun_mends (h.but b)

@[simp] theorem State.startRunNow_kept (h : State.Kept s₀ s) (b p : Nat) : State.Kept s₀ (s.startRunNow b p) := by
  have hs := State.startRun_kept h b p
  unfold State.startRunNow
  dsimp only
  split
  · next ht => exact hs.2 ht
  · exact State.finishRun_mends hs.1

/-- The next step, or the end of the run, mends what a step's result left. -/
theorem State.nextStep_mends {b : Nat} (h : State.KeptBut b s₀ s) : State.Kept s₀ (s.nextStep b) := by
  unfold State.nextStep
  split
  · next hn => exact h.kept fun _ x hx => absurd (hn.symm.trans hx) (by simp)
  · next x hx =>
    split
    · exact State.finishRun_mends h
    · next p hp =>
      have hb := State.beginSteps_kept b p (p.count - x.step) (x.step + 1) h
        (fun k y hy => by
          obtain rfl := Option.some.inj (hx.symm.trans hy)
          exact Nat.lt_succ_of_le ((h.ms k).run x hx).2.1)
        fun k => by have := (h.ms k).programme _ p hp; omega
      dsimp only
      split
      · next ht => exact hb.2 ht
      · exact State.finishRun_mends hb.1

@[simp] theorem State.nextStep_kept (h : State.Kept s₀ s) (b : Nat) : State.Kept s₀ (s.nextStep b) :=
  State.nextStep_mends (h.but b)

@[simp] theorem State.checkStep_kept (h : State.Kept s₀ s) (b : Nat) : State.Kept s₀ (s.checkStep b) := by
  unfold State.checkStep
  split
  · exact h
  · next x p st _ =>
    have hr := State.record_kept (State.stopStepTimers_kept h b) b (s.ms.check x p st)
    dsimp only
    split
    · exact State.finishRun_mends hr
    · exact State.nextStep_mends hr

@[simp] theorem State.abandon_kept (h : State.Kept s₀ s) (b : Nat) (o : Bool) : State.Kept s₀ (s.abandon b o) := by
  unfold State.abandon
  split
  · exact h
  · split
    · exact State.nextStep_mends (State.record_kept (State.stopStepTimers_kept h b) b _)
    · simp (maxDischargeDepth := 20) [h]

@[simp] theorem State.cancelCurrent_kept (h : State.Kept s₀ s) (b : Nat) : State.Kept s₀ (s.cancelCurrent b) := by
  unfold State.cancelCurrent
  split
  · exact h
  · exact State.nextStep_mends (State.record_kept (State.stopStepTimers_kept h b) b _)

@[simp] theorem Run.enterAcquire_keeps : Run.Keeps Run.enterAcquire := ⟨fun _ => rfl, fun _ => rfl, fun _ h => h⟩

@[simp] theorem State.acquire_kept (h : State.Kept s₀ s) (b : Nat) (x : Sample) (g : Nat) : State.Kept s₀ (s.acquire b x g) := by
  unfold State.acquire
  split
  · exact h
  · dsimp only
    repeat' split
    all_goals simp (maxDischargeDepth := 20) [h]

@[simp] theorem State.deliver_kept (h : State.Kept s₀ s) (b : Nat) (x : Sample) (g : Nat) : State.Kept s₀ (s.deliver b x g) := by
  unfold State.deliver
  split
  · exact h
  · split
    · dsimp only; split <;> simp (maxDischargeDepth := 20) [h]
    · split <;> simp (maxDischargeDepth := 20) [h]
    all_goals simp (maxDischargeDepth := 20) [h]

@[simp] theorem State.endRunEarly_kept (h : State.Kept s₀ s) (b : Nat) (o : RunOutcome) : State.Kept s₀ (s.endRunEarly b o) := by
  unfold State.endRunEarly
  dsimp only
  split <;> simp (maxDischargeDepth := 20) [h]

/-! ### Slots and shelves -/

@[simp] theorem State.slotFree_kept (h : State.Kept s₀ s) (b : Nat) : State.Kept s₀ (s.slotFree b) := by
  unfold State.slotFree
  dsimp only
  repeat' split
  all_goals simp (maxDischargeDepth := 20) [h]

@[simp] theorem State.tellFree_kept (h : State.Kept s₀ s) (l : Nat) : State.Kept s₀ (s.tellFree l) := by
  simp (maxDischargeDepth := 20) [State.tellFree, h]

@[simp] theorem State.freeSlot_kept (h : State.Kept s₀ s) (b : Nat) : State.Kept s₀ (s.freeSlot b) := by
  unfold State.freeSlot; split <;> simp (maxDischargeDepth := 20) [h]

@[simp] theorem State.slotFault_kept (h : State.Kept s₀ s) (b : Nat) : State.Kept s₀ (s.slotFault b) := by
  unfold State.slotFault
  dsimp only
  split <;> simp (maxDischargeDepth := 20) [h]

@[simp] theorem State.tellFaulted_kept (h : State.Kept s₀ s) (l : Nat) : State.Kept s₀ (s.tellFaulted l) := by
  simp (maxDischargeDepth := 20) [State.tellFaulted, h]

@[simp] theorem State.endWithShelf_kept (h : State.Kept s₀ s) (b : Nat) : State.Kept s₀ (s.endWithShelf b) := by
  unfold State.endWithShelf
  dsimp only
  repeat' split
  all_goals simp (maxDischargeDepth := 20) [h]

@[simp] theorem State.faultSilent_kept (h : State.Kept s₀ s) (b : Nat) : State.Kept s₀ (s.faultSilent b) := by
  simp (maxDischargeDepth := 20) [State.faultSilent, h]

@[simp] theorem State.shelfGoesSilent_kept (h : State.Kept s₀ s) (n : Nat) : State.Kept s₀ (s.shelfGoesSilent n) := by
  unfold State.shelfGoesSilent
  dsimp only
  refine State.foldl_kept (fun s l => State.tellFaulted_kept (.refl s) l) _ ?_
  refine State.foldl_kept (fun s b => State.faultSilent_kept (.refl s) b) _ ?_
  refine State.foldl_kept (fun s b => State.endOrder_kept (.refl s) _) _ ?_
  simp (maxDischargeDepth := 20) [h]

@[simp] theorem State.countFailure_kept (h : State.Kept s₀ s) (n : Nat) : State.Kept s₀ (s.countFailure n) := by
  unfold State.countFailure
  dsimp only
  split <;> simp (maxDischargeDepth := 20) [h]

@[simp] theorem State.clearFailures_kept (h : State.Kept s₀ s) (n : Nat) : State.Kept s₀ (s.clearFailures n) := State.updShelf_kept h n (by simp)

@[simp] theorem State.recoverSlot_kept (h : State.Kept s₀ s) (b : Nat) : State.Kept s₀ (s.recoverSlot b) := by
  simp (maxDischargeDepth := 20) [State.recoverSlot, h]

@[simp] theorem State.shelfRecovers_kept (h : State.Kept s₀ s) (n : Nat) : State.Kept s₀ (s.shelfRecovers n) := by
  unfold State.shelfRecovers
  dsimp only
  refine State.foldl_kept (fun s l => State.accessOver_kept (.refl s) l) _ ?_
  have := State.foldl_kept (fun s b => State.recoverSlot_kept (.refl s) b) (s.slotsOn n (decide <| · = .faulted)) h
  simp (maxDischargeDepth := 20) [this]

@[simp] theorem State.probeShelf_kept (h : State.Kept s₀ s) (n : Nat) : State.Kept s₀ (s.probeShelf n) := by
  simp (maxDischargeDepth := 20) [State.probeShelf, h]

@[simp] theorem State.probeFails_kept (h : State.Kept s₀ s) (n : Nat) : State.Kept s₀ (s.probeFails n) := by
  unfold State.probeFails
  dsimp only
  split <;> simp (maxDischargeDepth := 20) [h]

@[simp] theorem State.retireSlot_kept (h : State.Kept s₀ s) (b : Nat) : State.Kept s₀ (s.retireSlot b) := by
  unfold State.retireSlot; split <;> simp (maxDischargeDepth := 20) [h]

@[simp] theorem State.retireShelf_kept (h : State.Kept s₀ s) (n : Nat) : State.Kept s₀ (s.retireShelf n) := by
  unfold State.retireShelf
  dsimp only
  refine State.foldl_kept (fun s l => State.tellFree_kept (.refl s) l) _ ?_
  refine State.oweWalk_kept (State.recovered_kept (State.updShelf_kept ?_ _ (by simp)) _ _)
  refine State.foldl_kept (fun s b => State.retireSlot_kept (.refl s) b) _ ?_
  simp (maxDischargeDepth := 20) [h]

@[simp] theorem State.operateDone_kept (h : State.Kept s₀ s) (b : Nat) : State.Kept s₀ (s.operateDone b) := by
  unfold State.operateDone
  split
  · simp (maxDischargeDepth := 20) [h]
  · dsimp only
    repeat' split
    all_goals simp (maxDischargeDepth := 20) [h]

@[simp] theorem State.operateFailed_kept (h : State.Kept s₀ s) (b : Nat) : State.Kept s₀ (s.operateFailed b) := by
  unfold State.operateFailed
  dsimp only
  repeat' split
  all_goals simp (maxDischargeDepth := 20) [h]

@[simp] theorem State.releaseDone_kept (h : State.Kept s₀ s) (b : Nat) : State.Kept s₀ (s.releaseDone b) := by
  unfold State.releaseDone
  repeat' split
  all_goals simp (maxDischargeDepth := 20) [h]

@[simp] theorem State.busFaults_kept (h : State.Kept s₀ s) (b : Nat) : State.Kept s₀ (s.busFaults b) := by
  unfold State.busFaults
  dsimp only
  split <;> simp (maxDischargeDepth := 20) [h]

@[simp] theorem State.releaseFailed_kept (h : State.Kept s₀ s) (b : Nat) : State.Kept s₀ (s.releaseFailed b) := by
  unfold State.releaseFailed
  dsimp only
  repeat' split
  all_goals simp (maxDischargeDepth := 20) [h]

@[simp] theorem State.transactionEnds_kept (h : State.Kept s₀ s) (o : AccessOwner) (op : AccessOp) (d : Bool) :
    State.Kept s₀ (s.transactionEnds o op d) := by
  unfold State.transactionEnds
  dsimp only
  split <;> simp (maxDischargeDepth := 20) [h]

@[simp] theorem State.accessConfirm_kept (h : State.Kept s₀ s) (n : Nat) (op : AccessOp) (b : Nat) (d : Bool) :
    State.Kept s₀ (s.accessConfirm n op b d) := by
  unfold State.accessConfirm
  repeat' split
  all_goals simp (maxDischargeDepth := 20) [h]

@[simp] theorem State.endHeld_kept (h : State.Kept s₀ s) (b : Nat) (r : RunOutcome) (i : Option RunOutcome) :
    State.Kept s₀ (s.endHeld b r i) := by
  unfold State.endHeld
  split
  · simp (maxDischargeDepth := 20) [h]
  · dsimp only; split <;> simp (maxDischargeDepth := 20) [h]

@[simp] theorem State.holdEnds_kept (h : State.Kept s₀ s) (b : Nat) : State.Kept s₀ (s.holdEnds b) := by
  simp (maxDischargeDepth := 20) [State.holdEnds, h]

@[simp] theorem State.withdraw_kept (h : State.Kept s₀ s) (b : Nat) (c : Cause) : State.Kept s₀ (s.withdraw b c) := by
  simp (maxDischargeDepth := 20) [State.withdraw, h]

@[simp] theorem State.markSlot_kept (h : State.Kept s₀ s) (b : Nat) (c : Cause) : State.Kept s₀ (s.markSlot b c) :=
  State.updSlot_kept h b (by simp)

@[simp] theorem State.preEmpt_kept (h : State.Kept s₀ s) (b : Nat) : State.Kept s₀ (s.preEmpt b) := by
  unfold State.preEmpt
  repeat' split
  all_goals simp (maxDischargeDepth := 20) [h]

@[simp] theorem State.setLost_kept (h : State.Kept s₀ s) (b : Nat) : State.Kept s₀ (s.setLost b) := by
  unfold State.setLost; split <;> simp (maxDischargeDepth := 20) [h]

@[simp] theorem State.setRestarted_kept (h : State.Kept s₀ s) (b : Nat) : State.Kept s₀ (s.setRestarted b) := by
  unfold State.setRestarted
  dsimp only
  repeat' split
  all_goals simp (maxDischargeDepth := 20) [h]

/-! ### Test sets -/

@[simp] theorem State.setGoesSilent_kept (h : State.Kept s₀ s) (n : Nat) : State.Kept s₀ (s.setGoesSilent n) := by
  simp (maxDischargeDepth := 20) [State.setGoesSilent, h]

@[simp] theorem State.setFails_kept (h : State.Kept s₀ s) (n : Nat) (f : Bool) : State.Kept s₀ (s.setFails n f) := by
  unfold State.setFails
  dsimp only
  split <;> simp (maxDischargeDepth := 20) [h]

@[simp] theorem State.restartSet_kept (h : State.Kept s₀ s) (n : Nat) : State.Kept s₀ (s.restartSet n) := by
  simp (maxDischargeDepth := 20) [State.restartSet, h]

@[simp] theorem State.identity_kept (h : State.Kept s₀ s) (n : Nat) (k : KindSet) (r : RateSet) : State.Kept s₀ (s.identity n k r) := by
  unfold State.identity; split <;> simp (maxDischargeDepth := 20) [h]

@[simp] theorem State.unanswered_kept (h : State.Kept s₀ s) (n : Nat) : State.Kept s₀ (s.unanswered n) := by
  unfold State.unanswered
  dsimp only
  split <;> simp (maxDischargeDepth := 20) [h]

@[simp] theorem State.identifyExpires_kept (h : State.Kept s₀ s) (n : Nat) : State.Kept s₀ (s.identifyExpires n) := by
  unfold State.identifyExpires; split <;> simp (maxDischargeDepth := 20) [h]

@[simp] theorem State.restartSampleTimeout_kept (h : State.Kept s₀ s) (n : Nat) : State.Kept s₀ (s.restartSampleTimeout n) :=
  State.updTestSet_kept h n (by simp)

@[simp] theorem State.deliverSample_kept (h : State.Kept s₀ s) (n : Nat) (x : Sample) (g : Nat) :
    State.Kept s₀ (s.deliverSample n x g) := by
  unfold State.deliverSample
  dsimp only
  split <;> simp (maxDischargeDepth := 20) [h]

@[simp] theorem State.readySample_kept (h : State.Kept s₀ s) (n : Nat) (x : Sample) : State.Kept s₀ (s.readySample n x) := by
  unfold State.readySample
  dsimp only
  split <;> simp (maxDischargeDepth := 20) [h, Nat.mod_lt]

@[simp] theorem State.silentSample_kept (h : State.Kept s₀ s) (n : Nat) : State.Kept s₀ (s.silentSample n) := by
  unfold State.silentSample
  dsimp only
  split <;> simp (maxDischargeDepth := 20) [h]

@[simp] theorem State.sample_kept (h : State.Kept s₀ s) (n : Nat) (x : Sample) : State.Kept s₀ (s.sample n x) := by
  unfold State.sample; split <;> simp (maxDischargeDepth := 20) [h]

@[simp] theorem State.disableSet_kept (h : State.Kept s₀ s) (n : Nat) : State.Kept s₀ (s.disableSet n) := by
  unfold State.disableSet
  dsimp only
  repeat' split
  all_goals simp (maxDischargeDepth := 20) [h]

@[simp] theorem State.enableSet_kept (h : State.Kept s₀ s) (n : Nat) : State.Kept s₀ (s.enableSet n) := by
  unfold State.enableSet; split <;> simp (maxDischargeDepth := 20) [h]

@[simp] theorem State.clearProbeSet_kept (h : State.Kept s₀ s) (n : Nat) : State.Kept s₀ (s.clearProbeSet n) := by
  unfold State.clearProbeSet
  repeat' split
  all_goals simp (maxDischargeDepth := 20) [h]

@[simp] theorem State.linkLeaves_kept (h : State.Kept s₀ s) (n : Nat) : State.Kept s₀ (s.linkLeaves n) := by
  refine State.updTestSet_kept h n (TestSet.keeps_of ?_ ?_ ?_ ?_)
  all_goals
    intro r k
    dsimp only
    split
    · exact k
    · split <;> exact k

end Sys2Proof.Machine
end

