-- ==== Sys2Proof/Laws/PerInstr.lean ====
section
/-! SUPPORT. What holds of every command as syntax, one lemma a command: the payload of an ORDER begins with its code, 1 to 13, and its
reference octet; a command that is no order has no payload (R199, R203). -/

namespace Sys2Proof.Laws.Orders

/-- An ORDER's payload begins with its code and its reference; no other command has a payload. -/
def Statement (i : Instr) : Prop :=
  (i.isOrder = true → ∃ code ref args, encodeOrder i = code :: ref :: args ∧ 1 ≤ code.toNat ∧ code.toNat ≤ 13)
    ∧ (i.isOrder = false → encodeOrder i = [])

/-- The payload of an order, given as its code, reference and arguments. -/
theorem of_order {i : Instr} {code ref : Byte} {args : Octets} (h : encodeOrder i = code :: ref :: args)
    (hc : 1 ≤ code.toNat ∧ code.toNat ≤ 13) : Statement i :=
  ⟨fun _ => ⟨code, ref, args, h, hc⟩, fun hn => by simp [Instr.isOrder, h] at hn⟩

/-- A command with no payload. -/
theorem of_event {i : Instr} (h : encodeOrder i = []) : Statement i :=
  ⟨fun hn => by simp [Instr.isOrder, h] at hn, fun _ => h⟩

theorem resetAssert : Statement (.resetAssert) := of_event rfl
theorem powerOn (straps : BitVec 6) : Statement (.powerOn straps) := of_event rfl
theorem configImageRead (octets : Octets) : Statement (.configImageRead octets) := of_event rfl
theorem storeReadTimeout : Statement (.storeReadTimeout) := of_event rfl
theorem frameEnd (port : Port) (octets : Octets) (mark : Option Byte) : Statement (.frameEnd port octets mark) := of_event rfl
theorem portFree (port : Port) : Statement (.portFree port) := of_event rfl
theorem loadParameters (ref : Byte) (record : ParametersArg) : Statement (.loadParameters ref record) := of_order rfl (by decide)
theorem loadLine (ref : Byte) (first : BitVec 16) (records : List LineArg) : Statement (.loadLine ref first records) := of_order rfl (by decide)
theorem loadShelf (ref : Byte) (records : List ShelfArg) : Statement (.loadShelf ref records) := of_order rfl (by decide)
theorem loadTreatment (ref : Byte) (records : List TreatmentArg) : Statement (.loadTreatment ref records) := of_order rfl (by decide)
theorem loadStatemap (ref : Byte) (records : List StatemapArg) : Statement (.loadStatemap ref records) := of_order rfl (by decide)
theorem loadProgramme (ref : Byte) (records : List ProgrammeArg) : Statement (.loadProgramme ref records) := of_order rfl (by decide)
theorem loadStep (ref : Byte) (records : List StepArg) : Statement (.loadStep ref records) := of_order rfl (by decide)
theorem loadLimit (ref : Byte) (records : List LimitArg) : Statement (.loadLimit ref records) := of_order rfl (by decide)
theorem loadSweeprange (ref : Byte) (records : List SweepRangeArg) : Statement (.loadSweeprange ref records) := of_order rfl (by decide)
theorem read (ref : Byte) (table : ReadTable) (index : BitVec 16) (count : Byte) : Statement (.read ref table index count) := of_order rfl (by decide)
theorem test (ref position : Byte) (line : BitVec 16) (programme flags : Byte) (hold wait : BitVec 16) : Statement (.test ref position line programme flags hold wait) := of_order rfl (by decide)
theorem run (ref token programme : Byte) : Statement (.run ref token programme) := of_order rfl (by decide)
theorem release (ref token : Byte) : Statement (.release ref token) := of_order rfl (by decide)
theorem cancelStep (ref token : Byte) : Statement (.cancelStep ref token) := of_order rfl (by decide)
theorem cancelRun (ref token : Byte) : Statement (.cancelRun ref token) := of_order rfl (by decide)
theorem ack (ref : Byte) (number : BitVec 16) : Statement (.ack ref number) := of_order rfl (by decide)
theorem clear (ref : Byte) (number : BitVec 16) : Statement (.clear ref number) := of_order rfl (by decide)
theorem sweepStart (ref : Byte) : Statement (.sweepStart ref) := of_order rfl (by decide)
theorem sweepStop (ref : Byte) : Statement (.sweepStop ref) := of_order rfl (by decide)
theorem sweepRate (ref : Byte) (increment : BitVec 16) : Statement (.sweepRate ref increment) := of_order rfl (by decide)
theorem summary (ref : Byte) : Statement (.summary ref) := of_order rfl (by decide)
theorem testsetEnable (ref set : Byte) : Statement (.testsetEnable ref set) := of_order rfl (by decide)
theorem testsetDisable (ref set : Byte) : Statement (.testsetDisable ref set) := of_order rfl (by decide)
theorem save (ref : Byte) : Statement (.save ref) := of_order rfl (by decide)
theorem restart (ref : Byte) : Statement (.restart ref) := of_order rfl (by decide)
theorem saveBlockAck : Statement (.saveBlockAck) := of_event rfl
theorem saveAckTimeout : Statement (.saveAckTimeout) := of_event rfl
theorem saveAnswerPlace : Statement (.saveAnswerPlace) := of_event rfl
theorem attentionPlace : Statement (.attentionPlace) := of_event rfl
theorem resultPlace : Statement (.resultPlace) := of_event rfl
theorem ticketNoticePlace : Statement (.ticketNoticePlace) := of_event rfl
theorem guardNoticePlace : Statement (.guardNoticePlace) := of_event rfl
theorem accessOrderPlace (owner : AccessOwner) : Statement (.accessOrderPlace owner) := of_event rfl
theorem confirmTimeout (owner : AccessOwner) : Statement (.confirmTimeout owner) := of_event rfl
theorem shelfProbeTimer (shelf : Fin 64) : Statement (.shelfProbeTimer shelf) := of_event rfl
theorem holdExpiry (slot : Fin 4) : Statement (.holdExpiry slot) := of_event rfl
theorem waitExpiry (line : Fin 8192) : Statement (.waitExpiry line) := of_event rfl
theorem linkFrameLeaves (link : Fin 4) : Statement (.linkFrameLeaves link) := of_event rfl
theorem identityReceived (link : Fin 4) (octets : Octets) : Statement (.identityReceived link octets) := of_event rfl
theorem sampleReceived (link : Fin 4) (octets : Octets) : Statement (.sampleReceived link octets) := of_event rfl
theorem identifyAnswerTimeout (link : Fin 4) : Statement (.identifyAnswerTimeout link) := of_event rfl
theorem silenceProbeTimer (link : Fin 4) : Statement (.silenceProbeTimer link) := of_event rfl
theorem silenceProbeTimeout (link : Fin 4) : Statement (.silenceProbeTimeout link) := of_event rfl
theorem firstTagWaitExpiry (link : Fin 4) : Statement (.firstTagWaitExpiry link) := of_event rfl
theorem sampleTimeout (link : Fin 4) : Statement (.sampleTimeout link) := of_event rfl
theorem settleEnd (slot : Fin 4) : Statement (.settleEnd slot) := of_event rfl
theorem lockoutDelayExpiry (line : Fin 8192) : Statement (.lockoutDelayExpiry line) := of_event rfl
theorem retestDue (number : BitVec 16) : Statement (.retestDue number) := of_event rfl
theorem pacingEvent : Statement (.pacingEvent) := of_event rfl
theorem timeBaseTick : Statement (.timeBaseTick) := of_event rfl
theorem markedOctetReceived (port : Port) (octet : Byte) : Statement (.markedOctetReceived port octet) := of_event rfl

end Sys2Proof.Laws.Orders
end

