-- ==== Sys2Proof/Laws/State.lean ====
section
/-! SUPPORT. The small lemmas of the state: what each field is after each update, and what a record read is after each record written. -/

namespace Sys2Proof.Machine

/-! ### Fields after the block updates -/

@[simp] theorem State.updCore_pending (s : State) (f : Core → Core) : (s.updCore f).pending = s.pending := rfl
@[simp] theorem State.updCore_resetInput (s : State) (f : Core → Core) : (s.updCore f).resetInput = s.resetInput := rfl
@[simp] theorem State.updCore_straps (s : State) (f : Core → Core) : (s.updCore f).straps = s.straps := rfl
@[simp] theorem State.updCore_core (s : State) (f : Core → Core) : (s.updCore f).core = f s.core := rfl
@[simp] theorem State.updCore_htp (s : State) (f : Core → Core) : (s.updCore f).htp = s.htp := rfl
@[simp] theorem State.updCore_cg (s : State) (f : Core → Core) : (s.updCore f).cg = s.cg := rfl
@[simp] theorem State.updCore_ac (s : State) (f : Core → Core) : (s.updCore f).ac = s.ac := rfl
@[simp] theorem State.updCore_ms (s : State) (f : Core → Core) : (s.updCore f).ms = s.ms := rfl
@[simp] theorem State.updCore_rs (s : State) (f : Core → Core) : (s.updCore f).rs = s.rs := rfl
@[simp] theorem State.updCore_csi (s : State) (f : Core → Core) : (s.updCore f).csi = s.csi := rfl

@[simp] theorem State.updAc_pending (s : State) (f : Ac → Ac) : (s.updAc f).pending = s.pending := rfl
@[simp] theorem State.updAc_resetInput (s : State) (f : Ac → Ac) : (s.updAc f).resetInput = s.resetInput := rfl
@[simp] theorem State.updAc_straps (s : State) (f : Ac → Ac) : (s.updAc f).straps = s.straps := rfl
@[simp] theorem State.updAc_core (s : State) (f : Ac → Ac) : (s.updAc f).core = s.core := rfl
@[simp] theorem State.updAc_htp (s : State) (f : Ac → Ac) : (s.updAc f).htp = s.htp := rfl
@[simp] theorem State.updAc_cg (s : State) (f : Ac → Ac) : (s.updAc f).cg = s.cg := rfl
@[simp] theorem State.updAc_ac (s : State) (f : Ac → Ac) : (s.updAc f).ac = f s.ac := rfl
@[simp] theorem State.updAc_ms (s : State) (f : Ac → Ac) : (s.updAc f).ms = s.ms := rfl
@[simp] theorem State.updAc_rs (s : State) (f : Ac → Ac) : (s.updAc f).rs = s.rs := rfl
@[simp] theorem State.updAc_csi (s : State) (f : Ac → Ac) : (s.updAc f).csi = s.csi := rfl

@[simp] theorem State.updMs_pending (s : State) (f : Ms → Ms) : (s.updMs f).pending = s.pending := rfl
@[simp] theorem State.updMs_resetInput (s : State) (f : Ms → Ms) : (s.updMs f).resetInput = s.resetInput := rfl
@[simp] theorem State.updMs_straps (s : State) (f : Ms → Ms) : (s.updMs f).straps = s.straps := rfl
@[simp] theorem State.updMs_core (s : State) (f : Ms → Ms) : (s.updMs f).core = s.core := rfl
@[simp] theorem State.updMs_htp (s : State) (f : Ms → Ms) : (s.updMs f).htp = s.htp := rfl
@[simp] theorem State.updMs_cg (s : State) (f : Ms → Ms) : (s.updMs f).cg = s.cg := rfl
@[simp] theorem State.updMs_ac (s : State) (f : Ms → Ms) : (s.updMs f).ac = s.ac := rfl
@[simp] theorem State.updMs_ms (s : State) (f : Ms → Ms) : (s.updMs f).ms = f s.ms := rfl
@[simp] theorem State.updMs_rs (s : State) (f : Ms → Ms) : (s.updMs f).rs = s.rs := rfl
@[simp] theorem State.updMs_csi (s : State) (f : Ms → Ms) : (s.updMs f).csi = s.csi := rfl

@[simp] theorem State.updRs_pending (s : State) (f : Rs → Rs) : (s.updRs f).pending = s.pending := rfl
@[simp] theorem State.updRs_resetInput (s : State) (f : Rs → Rs) : (s.updRs f).resetInput = s.resetInput := rfl
@[simp] theorem State.updRs_straps (s : State) (f : Rs → Rs) : (s.updRs f).straps = s.straps := rfl
@[simp] theorem State.updRs_core (s : State) (f : Rs → Rs) : (s.updRs f).core = s.core := rfl
@[simp] theorem State.updRs_htp (s : State) (f : Rs → Rs) : (s.updRs f).htp = s.htp := rfl
@[simp] theorem State.updRs_cg (s : State) (f : Rs → Rs) : (s.updRs f).cg = s.cg := rfl
@[simp] theorem State.updRs_ac (s : State) (f : Rs → Rs) : (s.updRs f).ac = s.ac := rfl
@[simp] theorem State.updRs_ms (s : State) (f : Rs → Rs) : (s.updRs f).ms = s.ms := rfl
@[simp] theorem State.updRs_rs (s : State) (f : Rs → Rs) : (s.updRs f).rs = f s.rs := rfl
@[simp] theorem State.updRs_csi (s : State) (f : Rs → Rs) : (s.updRs f).csi = s.csi := rfl

@[simp] theorem State.updHtp_pending (s : State) (f : Htp → Htp) : (s.updHtp f).pending = s.pending := rfl
@[simp] theorem State.updHtp_resetInput (s : State) (f : Htp → Htp) : (s.updHtp f).resetInput = s.resetInput := rfl
@[simp] theorem State.updHtp_straps (s : State) (f : Htp → Htp) : (s.updHtp f).straps = s.straps := rfl
@[simp] theorem State.updHtp_core (s : State) (f : Htp → Htp) : (s.updHtp f).core = s.core := rfl
@[simp] theorem State.updHtp_htp (s : State) (f : Htp → Htp) : (s.updHtp f).htp = f s.htp := rfl
@[simp] theorem State.updHtp_cg (s : State) (f : Htp → Htp) : (s.updHtp f).cg = s.cg := rfl
@[simp] theorem State.updHtp_ac (s : State) (f : Htp → Htp) : (s.updHtp f).ac = s.ac := rfl
@[simp] theorem State.updHtp_ms (s : State) (f : Htp → Htp) : (s.updHtp f).ms = s.ms := rfl
@[simp] theorem State.updHtp_rs (s : State) (f : Htp → Htp) : (s.updHtp f).rs = s.rs := rfl
@[simp] theorem State.updHtp_csi (s : State) (f : Htp → Htp) : (s.updHtp f).csi = s.csi := rfl

@[simp] theorem State.updCg_pending (s : State) (f : Cg → Cg) : (s.updCg f).pending = s.pending := rfl
@[simp] theorem State.updCg_resetInput (s : State) (f : Cg → Cg) : (s.updCg f).resetInput = s.resetInput := rfl
@[simp] theorem State.updCg_straps (s : State) (f : Cg → Cg) : (s.updCg f).straps = s.straps := rfl
@[simp] theorem State.updCg_core (s : State) (f : Cg → Cg) : (s.updCg f).core = s.core := rfl
@[simp] theorem State.updCg_htp (s : State) (f : Cg → Cg) : (s.updCg f).htp = s.htp := rfl
@[simp] theorem State.updCg_cg (s : State) (f : Cg → Cg) : (s.updCg f).cg = f s.cg := rfl
@[simp] theorem State.updCg_ac (s : State) (f : Cg → Cg) : (s.updCg f).ac = s.ac := rfl
@[simp] theorem State.updCg_ms (s : State) (f : Cg → Cg) : (s.updCg f).ms = s.ms := rfl
@[simp] theorem State.updCg_rs (s : State) (f : Cg → Cg) : (s.updCg f).rs = s.rs := rfl
@[simp] theorem State.updCg_csi (s : State) (f : Cg → Cg) : (s.updCg f).csi = s.csi := rfl

@[simp] theorem State.updCsi_pending (s : State) (f : Csi → Csi) : (s.updCsi f).pending = s.pending := rfl
@[simp] theorem State.updCsi_resetInput (s : State) (f : Csi → Csi) : (s.updCsi f).resetInput = s.resetInput := rfl
@[simp] theorem State.updCsi_straps (s : State) (f : Csi → Csi) : (s.updCsi f).straps = s.straps := rfl
@[simp] theorem State.updCsi_core (s : State) (f : Csi → Csi) : (s.updCsi f).core = s.core := rfl
@[simp] theorem State.updCsi_htp (s : State) (f : Csi → Csi) : (s.updCsi f).htp = s.htp := rfl
@[simp] theorem State.updCsi_cg (s : State) (f : Csi → Csi) : (s.updCsi f).cg = s.cg := rfl
@[simp] theorem State.updCsi_ac (s : State) (f : Csi → Csi) : (s.updCsi f).ac = s.ac := rfl
@[simp] theorem State.updCsi_ms (s : State) (f : Csi → Csi) : (s.updCsi f).ms = s.ms := rfl
@[simp] theorem State.updCsi_rs (s : State) (f : Csi → Csi) : (s.updCsi f).rs = s.rs := rfl
@[simp] theorem State.updCsi_csi (s : State) (f : Csi → Csi) : (s.updCsi f).csi = f s.csi := rfl

/-! ### Fields after the record updates -/

@[simp] theorem State.updLine_pending (s : State) (l : Nat) (f : LineRec → LineRec) : (s.updLine l f).pending = s.pending := rfl
@[simp] theorem State.updLine_resetInput (s : State) (l : Nat) (f : LineRec → LineRec) : (s.updLine l f).resetInput = s.resetInput := rfl
@[simp] theorem State.updLine_straps (s : State) (l : Nat) (f : LineRec → LineRec) : (s.updLine l f).straps = s.straps := rfl
@[simp] theorem State.updLine_htp (s : State) (l : Nat) (f : LineRec → LineRec) : (s.updLine l f).htp = s.htp := rfl
@[simp] theorem State.updLine_cg (s : State) (l : Nat) (f : LineRec → LineRec) : (s.updLine l f).cg = s.cg := rfl
@[simp] theorem State.updLine_ac (s : State) (l : Nat) (f : LineRec → LineRec) : (s.updLine l f).ac = s.ac := rfl
@[simp] theorem State.updLine_ms (s : State) (l : Nat) (f : LineRec → LineRec) : (s.updLine l f).ms = s.ms := rfl
@[simp] theorem State.updLine_rs (s : State) (l : Nat) (f : LineRec → LineRec) : (s.updLine l f).rs = s.rs := rfl
@[simp] theorem State.updLine_csi (s : State) (l : Nat) (f : LineRec → LineRec) : (s.updLine l f).csi = s.csi := rfl

@[simp] theorem State.updShelf_pending (s : State) (n : Nat) (f : ShelfRec → ShelfRec) : (s.updShelf n f).pending = s.pending := rfl
@[simp] theorem State.updShelf_resetInput (s : State) (n : Nat) (f : ShelfRec → ShelfRec) : (s.updShelf n f).resetInput = s.resetInput := rfl
@[simp] theorem State.updShelf_straps (s : State) (n : Nat) (f : ShelfRec → ShelfRec) : (s.updShelf n f).straps = s.straps := rfl
@[simp] theorem State.updShelf_htp (s : State) (n : Nat) (f : ShelfRec → ShelfRec) : (s.updShelf n f).htp = s.htp := rfl
@[simp] theorem State.updShelf_cg (s : State) (n : Nat) (f : ShelfRec → ShelfRec) : (s.updShelf n f).cg = s.cg := rfl
@[simp] theorem State.updShelf_ac (s : State) (n : Nat) (f : ShelfRec → ShelfRec) : (s.updShelf n f).ac = s.ac := rfl
@[simp] theorem State.updShelf_ms (s : State) (n : Nat) (f : ShelfRec → ShelfRec) : (s.updShelf n f).ms = s.ms := rfl
@[simp] theorem State.updShelf_rs (s : State) (n : Nat) (f : ShelfRec → ShelfRec) : (s.updShelf n f).rs = s.rs := rfl
@[simp] theorem State.updShelf_csi (s : State) (n : Nat) (f : ShelfRec → ShelfRec) : (s.updShelf n f).csi = s.csi := rfl

@[simp] theorem State.updTestSet_pending (s : State) (n : Nat) (f : TestSet → TestSet) : (s.updTestSet n f).pending = s.pending := rfl
@[simp] theorem State.updTestSet_resetInput (s : State) (n : Nat) (f : TestSet → TestSet) : (s.updTestSet n f).resetInput = s.resetInput := rfl
@[simp] theorem State.updTestSet_straps (s : State) (n : Nat) (f : TestSet → TestSet) : (s.updTestSet n f).straps = s.straps := rfl
@[simp] theorem State.updTestSet_htp (s : State) (n : Nat) (f : TestSet → TestSet) : (s.updTestSet n f).htp = s.htp := rfl
@[simp] theorem State.updTestSet_cg (s : State) (n : Nat) (f : TestSet → TestSet) : (s.updTestSet n f).cg = s.cg := rfl
@[simp] theorem State.updTestSet_ac (s : State) (n : Nat) (f : TestSet → TestSet) : (s.updTestSet n f).ac = s.ac := rfl
@[simp] theorem State.updTestSet_ms (s : State) (n : Nat) (f : TestSet → TestSet) : (s.updTestSet n f).ms = s.ms := rfl
@[simp] theorem State.updTestSet_rs (s : State) (n : Nat) (f : TestSet → TestSet) : (s.updTestSet n f).rs = s.rs := rfl
@[simp] theorem State.updTestSet_csi (s : State) (n : Nat) (f : TestSet → TestSet) : (s.updTestSet n f).csi = s.csi := rfl

@[simp] theorem State.updOh_pending (s : State) (f : Oh → Oh) : (s.updOh f).pending = s.pending := rfl
@[simp] theorem State.updOh_resetInput (s : State) (f : Oh → Oh) : (s.updOh f).resetInput = s.resetInput := rfl
@[simp] theorem State.updOh_straps (s : State) (f : Oh → Oh) : (s.updOh f).straps = s.straps := rfl
@[simp] theorem State.updOh_htp (s : State) (f : Oh → Oh) : (s.updOh f).htp = s.htp := rfl
@[simp] theorem State.updOh_cg (s : State) (f : Oh → Oh) : (s.updOh f).cg = s.cg := rfl
@[simp] theorem State.updOh_ac (s : State) (f : Oh → Oh) : (s.updOh f).ac = s.ac := rfl
@[simp] theorem State.updOh_ms (s : State) (f : Oh → Oh) : (s.updOh f).ms = s.ms := rfl
@[simp] theorem State.updOh_rs (s : State) (f : Oh → Oh) : (s.updOh f).rs = s.rs := rfl
@[simp] theorem State.updOh_csi (s : State) (f : Oh → Oh) : (s.updOh f).csi = s.csi := rfl

@[simp] theorem State.setSlot_pending (s : State) (b : Nat) (r : Slot) : (s.setSlot b r).pending = s.pending := rfl
@[simp] theorem State.setSlot_resetInput (s : State) (b : Nat) (r : Slot) : (s.setSlot b r).resetInput = s.resetInput := rfl
@[simp] theorem State.setSlot_straps (s : State) (b : Nat) (r : Slot) : (s.setSlot b r).straps = s.straps := rfl
@[simp] theorem State.setSlot_core (s : State) (b : Nat) (r : Slot) : (s.setSlot b r).core = s.core := rfl
@[simp] theorem State.setSlot_htp (s : State) (b : Nat) (r : Slot) : (s.setSlot b r).htp = s.htp := rfl
@[simp] theorem State.setSlot_cg (s : State) (b : Nat) (r : Slot) : (s.setSlot b r).cg = s.cg := rfl
@[simp] theorem State.setSlot_ms (s : State) (b : Nat) (r : Slot) : (s.setSlot b r).ms = s.ms := rfl
@[simp] theorem State.setSlot_rs (s : State) (b : Nat) (r : Slot) : (s.setSlot b r).rs = s.rs := rfl
@[simp] theorem State.setSlot_csi (s : State) (b : Nat) (r : Slot) : (s.setSlot b r).csi = s.csi := rfl

@[simp] theorem State.updSlot_pending (s : State) (b : Nat) (f : Slot → Slot) : (s.updSlot b f).pending = s.pending := rfl
@[simp] theorem State.updSlot_resetInput (s : State) (b : Nat) (f : Slot → Slot) : (s.updSlot b f).resetInput = s.resetInput := rfl
@[simp] theorem State.updSlot_straps (s : State) (b : Nat) (f : Slot → Slot) : (s.updSlot b f).straps = s.straps := rfl
@[simp] theorem State.updSlot_core (s : State) (b : Nat) (f : Slot → Slot) : (s.updSlot b f).core = s.core := rfl
@[simp] theorem State.updSlot_htp (s : State) (b : Nat) (f : Slot → Slot) : (s.updSlot b f).htp = s.htp := rfl
@[simp] theorem State.updSlot_cg (s : State) (b : Nat) (f : Slot → Slot) : (s.updSlot b f).cg = s.cg := rfl
@[simp] theorem State.updSlot_ms (s : State) (b : Nat) (f : Slot → Slot) : (s.updSlot b f).ms = s.ms := rfl
@[simp] theorem State.updSlot_rs (s : State) (b : Nat) (f : Slot → Slot) : (s.updSlot b f).rs = s.rs := rfl
@[simp] theorem State.updSlot_csi (s : State) (b : Nat) (f : Slot → Slot) : (s.updSlot b f).csi = s.csi := rfl

@[simp] theorem State.setRun_pending (s : State) (b : Nat) (r : Option Run) : (s.setRun b r).pending = s.pending := rfl
@[simp] theorem State.setRun_resetInput (s : State) (b : Nat) (r : Option Run) : (s.setRun b r).resetInput = s.resetInput := rfl
@[simp] theorem State.setRun_straps (s : State) (b : Nat) (r : Option Run) : (s.setRun b r).straps = s.straps := rfl
@[simp] theorem State.setRun_core (s : State) (b : Nat) (r : Option Run) : (s.setRun b r).core = s.core := rfl
@[simp] theorem State.setRun_htp (s : State) (b : Nat) (r : Option Run) : (s.setRun b r).htp = s.htp := rfl
@[simp] theorem State.setRun_cg (s : State) (b : Nat) (r : Option Run) : (s.setRun b r).cg = s.cg := rfl
@[simp] theorem State.setRun_ac (s : State) (b : Nat) (r : Option Run) : (s.setRun b r).ac = s.ac := rfl
@[simp] theorem State.setRun_rs (s : State) (b : Nat) (r : Option Run) : (s.setRun b r).rs = s.rs := rfl
@[simp] theorem State.setRun_csi (s : State) (b : Nat) (r : Option Run) : (s.setRun b r).csi = s.csi := rfl

@[simp] theorem State.updRun_pending (s : State) (b : Nat) (f : Run → Run) : (s.updRun b f).pending = s.pending := rfl
@[simp] theorem State.updRun_resetInput (s : State) (b : Nat) (f : Run → Run) : (s.updRun b f).resetInput = s.resetInput := rfl
@[simp] theorem State.updRun_straps (s : State) (b : Nat) (f : Run → Run) : (s.updRun b f).straps = s.straps := rfl
@[simp] theorem State.updRun_core (s : State) (b : Nat) (f : Run → Run) : (s.updRun b f).core = s.core := rfl
@[simp] theorem State.updRun_htp (s : State) (b : Nat) (f : Run → Run) : (s.updRun b f).htp = s.htp := rfl
@[simp] theorem State.updRun_cg (s : State) (b : Nat) (f : Run → Run) : (s.updRun b f).cg = s.cg := rfl
@[simp] theorem State.updRun_ac (s : State) (b : Nat) (f : Run → Run) : (s.updRun b f).ac = s.ac := rfl
@[simp] theorem State.updRun_rs (s : State) (b : Nat) (f : Run → Run) : (s.updRun b f).rs = s.rs := rfl
@[simp] theorem State.updRun_csi (s : State) (b : Nat) (f : Run → Run) : (s.updRun b f).csi = s.csi := rfl

@[simp] theorem State.setPendingRun_pending (s : State) (b : Nat) (p : Option Nat) : (s.setPendingRun b p).pending = s.pending := rfl
@[simp] theorem State.setPendingRun_resetInput (s : State) (b : Nat) (p : Option Nat) : (s.setPendingRun b p).resetInput = s.resetInput := rfl
@[simp] theorem State.setPendingRun_straps (s : State) (b : Nat) (p : Option Nat) : (s.setPendingRun b p).straps = s.straps := rfl
@[simp] theorem State.setPendingRun_core (s : State) (b : Nat) (p : Option Nat) : (s.setPendingRun b p).core = s.core := rfl
@[simp] theorem State.setPendingRun_htp (s : State) (b : Nat) (p : Option Nat) : (s.setPendingRun b p).htp = s.htp := rfl
@[simp] theorem State.setPendingRun_cg (s : State) (b : Nat) (p : Option Nat) : (s.setPendingRun b p).cg = s.cg := rfl
@[simp] theorem State.setPendingRun_ac (s : State) (b : Nat) (p : Option Nat) : (s.setPendingRun b p).ac = s.ac := rfl
@[simp] theorem State.setPendingRun_rs (s : State) (b : Nat) (p : Option Nat) : (s.setPendingRun b p).rs = s.rs := rfl
@[simp] theorem State.setPendingRun_csi (s : State) (b : Nat) (p : Option Nat) : (s.setPendingRun b p).csi = s.csi := rfl

@[simp] theorem State.insertUp_pending (s : State) (f : OwnFrame) : (s.insertUp f).pending = s.pending := rfl
@[simp] theorem State.insertUp_resetInput (s : State) (f : OwnFrame) : (s.insertUp f).resetInput = s.resetInput := rfl
@[simp] theorem State.insertUp_straps (s : State) (f : OwnFrame) : (s.insertUp f).straps = s.straps := rfl
@[simp] theorem State.insertUp_core (s : State) (f : OwnFrame) : (s.insertUp f).core = s.core := rfl
@[simp] theorem State.insertUp_cg (s : State) (f : OwnFrame) : (s.insertUp f).cg = s.cg := rfl
@[simp] theorem State.insertUp_ac (s : State) (f : OwnFrame) : (s.insertUp f).ac = s.ac := rfl
@[simp] theorem State.insertUp_ms (s : State) (f : OwnFrame) : (s.insertUp f).ms = s.ms := rfl
@[simp] theorem State.insertUp_rs (s : State) (f : OwnFrame) : (s.insertUp f).rs = s.rs := rfl
@[simp] theorem State.insertUp_csi (s : State) (f : OwnFrame) : (s.insertUp f).csi = s.csi := rfl

@[simp] theorem State.insertDown_pending (s : State) (f : OwnFrame) : (s.insertDown f).pending = s.pending := rfl
@[simp] theorem State.insertDown_resetInput (s : State) (f : OwnFrame) : (s.insertDown f).resetInput = s.resetInput := rfl
@[simp] theorem State.insertDown_straps (s : State) (f : OwnFrame) : (s.insertDown f).straps = s.straps := rfl
@[simp] theorem State.insertDown_core (s : State) (f : OwnFrame) : (s.insertDown f).core = s.core := rfl
@[simp] theorem State.insertDown_cg (s : State) (f : OwnFrame) : (s.insertDown f).cg = s.cg := rfl
@[simp] theorem State.insertDown_ac (s : State) (f : OwnFrame) : (s.insertDown f).ac = s.ac := rfl
@[simp] theorem State.insertDown_ms (s : State) (f : OwnFrame) : (s.insertDown f).ms = s.ms := rfl
@[simp] theorem State.insertDown_rs (s : State) (f : OwnFrame) : (s.insertDown f).rs = s.rs := rfl
@[simp] theorem State.insertDown_csi (s : State) (f : OwnFrame) : (s.insertDown f).csi = s.csi := rfl

@[simp] theorem State.passUp_pending (s : State) (f : Octets) : (s.passUp f).pending = s.pending := rfl
@[simp] theorem State.passUp_resetInput (s : State) (f : Octets) : (s.passUp f).resetInput = s.resetInput := rfl
@[simp] theorem State.passUp_straps (s : State) (f : Octets) : (s.passUp f).straps = s.straps := rfl
@[simp] theorem State.passUp_core (s : State) (f : Octets) : (s.passUp f).core = s.core := rfl
@[simp] theorem State.passUp_cg (s : State) (f : Octets) : (s.passUp f).cg = s.cg := rfl
@[simp] theorem State.passUp_ac (s : State) (f : Octets) : (s.passUp f).ac = s.ac := rfl
@[simp] theorem State.passUp_ms (s : State) (f : Octets) : (s.passUp f).ms = s.ms := rfl
@[simp] theorem State.passUp_rs (s : State) (f : Octets) : (s.passUp f).rs = s.rs := rfl
@[simp] theorem State.passUp_csi (s : State) (f : Octets) : (s.passUp f).csi = s.csi := rfl

@[simp] theorem State.passDown_pending (s : State) (f : Octets) : (s.passDown f).pending = s.pending := rfl
@[simp] theorem State.passDown_resetInput (s : State) (f : Octets) : (s.passDown f).resetInput = s.resetInput := rfl
@[simp] theorem State.passDown_straps (s : State) (f : Octets) : (s.passDown f).straps = s.straps := rfl
@[simp] theorem State.passDown_core (s : State) (f : Octets) : (s.passDown f).core = s.core := rfl
@[simp] theorem State.passDown_cg (s : State) (f : Octets) : (s.passDown f).cg = s.cg := rfl
@[simp] theorem State.passDown_ac (s : State) (f : Octets) : (s.passDown f).ac = s.ac := rfl
@[simp] theorem State.passDown_ms (s : State) (f : Octets) : (s.passDown f).ms = s.ms := rfl
@[simp] theorem State.passDown_rs (s : State) (f : Octets) : (s.passDown f).rs = s.rs := rfl
@[simp] theorem State.passDown_csi (s : State) (f : Octets) : (s.passDown f).csi = s.csi := rfl

/-! ### The block itself after a record update -/

@[simp] theorem State.updLine_core (s : State) (l : Nat) (f : LineRec → LineRec) : (s.updLine l f).core = s.core.updLine l f := rfl
@[simp] theorem State.updShelf_core (s : State) (n : Nat) (f : ShelfRec → ShelfRec) : (s.updShelf n f).core = s.core.updShelf n f := rfl
@[simp] theorem State.updTestSet_core (s : State) (n : Nat) (f : TestSet → TestSet) : (s.updTestSet n f).core = s.core.updTestSet n f :=
  rfl
@[simp] theorem State.updOh_core (s : State) (f : Oh → Oh) : (s.updOh f).core = s.core.updOh f := rfl

/-! ### Fields of the core -/

@[simp] theorem Core.updLine_timeMs (c : Core) (l : Nat) (f : LineRec → LineRec) : (c.updLine l f).timeMs = c.timeMs := rfl
@[simp] theorem Core.updLine_shelves (c : Core) (l : Nat) (f : LineRec → LineRec) : (c.updLine l f).shelves = c.shelves := rfl
@[simp] theorem Core.updLine_sets (c : Core) (l : Nat) (f : LineRec → LineRec) : (c.updLine l f).sets = c.sets := rfl
@[simp] theorem Core.updLine_tc (c : Core) (l : Nat) (f : LineRec → LineRec) : (c.updLine l f).tc = c.tc := rfl
@[simp] theorem Core.updLine_gm (c : Core) (l : Nat) (f : LineRec → LineRec) : (c.updLine l f).gm = c.gm := rfl
@[simp] theorem Core.updLine_oh (c : Core) (l : Nat) (f : LineRec → LineRec) : (c.updLine l f).oh = c.oh := rfl

@[simp] theorem Core.updShelf_timeMs (c : Core) (n : Nat) (f : ShelfRec → ShelfRec) : (c.updShelf n f).timeMs = c.timeMs := rfl
@[simp] theorem Core.updShelf_lines (c : Core) (n : Nat) (f : ShelfRec → ShelfRec) : (c.updShelf n f).lines = c.lines := rfl
@[simp] theorem Core.updShelf_sets (c : Core) (n : Nat) (f : ShelfRec → ShelfRec) : (c.updShelf n f).sets = c.sets := rfl
@[simp] theorem Core.updShelf_tc (c : Core) (n : Nat) (f : ShelfRec → ShelfRec) : (c.updShelf n f).tc = c.tc := rfl
@[simp] theorem Core.updShelf_gm (c : Core) (n : Nat) (f : ShelfRec → ShelfRec) : (c.updShelf n f).gm = c.gm := rfl
@[simp] theorem Core.updShelf_oh (c : Core) (n : Nat) (f : ShelfRec → ShelfRec) : (c.updShelf n f).oh = c.oh := rfl

@[simp] theorem Core.updTestSet_timeMs (c : Core) (n : Nat) (f : TestSet → TestSet) : (c.updTestSet n f).timeMs = c.timeMs := rfl
@[simp] theorem Core.updTestSet_lines (c : Core) (n : Nat) (f : TestSet → TestSet) : (c.updTestSet n f).lines = c.lines := rfl
@[simp] theorem Core.updTestSet_shelves (c : Core) (n : Nat) (f : TestSet → TestSet) : (c.updTestSet n f).shelves = c.shelves := rfl
@[simp] theorem Core.updTestSet_tc (c : Core) (n : Nat) (f : TestSet → TestSet) : (c.updTestSet n f).tc = c.tc := rfl
@[simp] theorem Core.updTestSet_gm (c : Core) (n : Nat) (f : TestSet → TestSet) : (c.updTestSet n f).gm = c.gm := rfl
@[simp] theorem Core.updTestSet_oh (c : Core) (n : Nat) (f : TestSet → TestSet) : (c.updTestSet n f).oh = c.oh := rfl

@[simp] theorem Core.updOh_timeMs (c : Core) (f : Oh → Oh) : (c.updOh f).timeMs = c.timeMs := rfl
@[simp] theorem Core.updOh_lines (c : Core) (f : Oh → Oh) : (c.updOh f).lines = c.lines := rfl
@[simp] theorem Core.updOh_shelves (c : Core) (f : Oh → Oh) : (c.updOh f).shelves = c.shelves := rfl
@[simp] theorem Core.updOh_sets (c : Core) (f : Oh → Oh) : (c.updOh f).sets = c.sets := rfl
@[simp] theorem Core.updOh_tc (c : Core) (f : Oh → Oh) : (c.updOh f).tc = c.tc := rfl
@[simp] theorem Core.updOh_gm (c : Core) (f : Oh → Oh) : (c.updOh f).gm = c.gm := rfl
@[simp] theorem Core.updOh_oh (c : Core) (f : Oh → Oh) : (c.updOh f).oh = f c.oh := rfl

@[simp] theorem Core.updTc_timeMs (c : Core) (f : Tc → Tc) : (c.updTc f).timeMs = c.timeMs := rfl
@[simp] theorem Core.updTc_lines (c : Core) (f : Tc → Tc) : (c.updTc f).lines = c.lines := rfl
@[simp] theorem Core.updTc_shelves (c : Core) (f : Tc → Tc) : (c.updTc f).shelves = c.shelves := rfl
@[simp] theorem Core.updTc_sets (c : Core) (f : Tc → Tc) : (c.updTc f).sets = c.sets := rfl
@[simp] theorem Core.updTc_tc (c : Core) (f : Tc → Tc) : (c.updTc f).tc = f c.tc := rfl
@[simp] theorem Core.updTc_gm (c : Core) (f : Tc → Tc) : (c.updTc f).gm = c.gm := rfl
@[simp] theorem Core.updTc_oh (c : Core) (f : Tc → Tc) : (c.updTc f).oh = c.oh := rfl

/-! ### A record read after a record written -/

@[simp] theorem Core.line_updLine (c : Core) (l k : Nat) (f : LineRec → LineRec) :
    (c.updLine l f).line k = if k = l then f (c.line l) else c.line k := Table.get_set _ _ _ _ _

@[simp] theorem State.line_updLine (s : State) (l k : Nat) (f : LineRec → LineRec) :
    (s.updLine l f).line k = if k = l then f (s.line l) else s.line k := Table.get_set _ _ _ _ _

@[simp] theorem State.shelf_updLine (s : State) (l k : Nat) (f : LineRec → LineRec) : (s.updLine l f).shelf k = s.shelf k := rfl
@[simp] theorem State.testSet_updLine (s : State) (l k : Nat) (f : LineRec → LineRec) : (s.updLine l f).testSet k = s.testSet k := rfl
@[simp] theorem State.slot_updLine (s : State) (l k : Nat) (f : LineRec → LineRec) : (s.updLine l f).slot k = s.slot k := rfl
@[simp] theorem State.run_updLine (s : State) (l k : Nat) (f : LineRec → LineRec) : (s.updLine l f).run k = s.run k := rfl
@[simp] theorem State.pendingRun_updLine (s : State) (l k : Nat) (f : LineRec → LineRec) : (s.updLine l f).pendingRun k = s.pendingRun k := rfl

@[simp] theorem Core.shelf_updShelf (c : Core) (n k : Nat) (f : ShelfRec → ShelfRec) :
    (c.updShelf n f).shelf k = if k = n then f (c.shelf n) else c.shelf k := Table.get_set _ _ _ _ _

@[simp] theorem State.shelf_updShelf (s : State) (n k : Nat) (f : ShelfRec → ShelfRec) :
    (s.updShelf n f).shelf k = if k = n then f (s.shelf n) else s.shelf k := Table.get_set _ _ _ _ _

@[simp] theorem State.line_updShelf (s : State) (n k : Nat) (f : ShelfRec → ShelfRec) : (s.updShelf n f).line k = s.line k := rfl
@[simp] theorem State.testSet_updShelf (s : State) (n k : Nat) (f : ShelfRec → ShelfRec) : (s.updShelf n f).testSet k = s.testSet k := rfl
@[simp] theorem State.slot_updShelf (s : State) (n k : Nat) (f : ShelfRec → ShelfRec) : (s.updShelf n f).slot k = s.slot k := rfl
@[simp] theorem State.run_updShelf (s : State) (n k : Nat) (f : ShelfRec → ShelfRec) : (s.updShelf n f).run k = s.run k := rfl
@[simp] theorem State.pendingRun_updShelf (s : State) (n k : Nat) (f : ShelfRec → ShelfRec) : (s.updShelf n f).pendingRun k = s.pendingRun k := rfl

@[simp] theorem Core.testSet_updTestSet (c : Core) (n k : Nat) (f : TestSet → TestSet) :
    (c.updTestSet n f).testSet k = if k = n then f (c.testSet n) else c.testSet k := Table.get_set _ _ _ _ _

@[simp] theorem State.testSet_updTestSet (s : State) (n k : Nat) (f : TestSet → TestSet) :
    (s.updTestSet n f).testSet k = if k = n then f (s.testSet n) else s.testSet k := Table.get_set _ _ _ _ _

@[simp] theorem State.line_updTestSet (s : State) (n k : Nat) (f : TestSet → TestSet) : (s.updTestSet n f).line k = s.line k := rfl
@[simp] theorem State.shelf_updTestSet (s : State) (n k : Nat) (f : TestSet → TestSet) : (s.updTestSet n f).shelf k = s.shelf k := rfl
@[simp] theorem State.slot_updTestSet (s : State) (n k : Nat) (f : TestSet → TestSet) : (s.updTestSet n f).slot k = s.slot k := rfl
@[simp] theorem State.run_updTestSet (s : State) (n k : Nat) (f : TestSet → TestSet) : (s.updTestSet n f).run k = s.run k := rfl
@[simp] theorem State.pendingRun_updTestSet (s : State) (n k : Nat) (f : TestSet → TestSet) : (s.updTestSet n f).pendingRun k = s.pendingRun k := rfl

@[simp] theorem State.slot_setSlot (s : State) (b k : Nat) (r : Slot) : (s.setSlot b r).slot k = if k = b then r else s.slot k :=
  Table.get_set _ _ _ _ _

@[simp] theorem State.slot_updSlot (s : State) (b k : Nat) (f : Slot → Slot) :
    (s.updSlot b f).slot k = if k = b then f (s.slot b) else s.slot k := Table.get_set _ _ _ _ _

@[simp] theorem State.run_setRun (s : State) (b k : Nat) (r : Option Run) : (s.setRun b r).run k = if k = b then r else s.run k :=
  Table.get_set _ _ _ _ _

@[simp] theorem State.run_updRun (s : State) (b k : Nat) (f : Run → Run) :
    (s.updRun b f).run k = if k = b then (s.run b).map f else s.run k := Table.get_set _ _ _ _ _

@[simp] theorem State.pendingRun_setPendingRun (s : State) (b k : Nat) (p : Option Nat) :
    (s.setPendingRun b p).pendingRun k = if k = b then p else s.pendingRun k := Table.get_set _ _ _ _ _

@[simp] theorem State.run_setPendingRun (s : State) (b k : Nat) (p : Option Nat) : (s.setPendingRun b p).run k = s.run k := rfl
@[simp] theorem State.pendingRun_setRun (s : State) (b k : Nat) (r : Option Run) : (s.setRun b r).pendingRun k = s.pendingRun k := rfl

end Sys2Proof.Machine
end

