-- ==== Sys2Proof/Laws/Settling.lean ====
section
/-! SUPPORT. The end of every command (R26, R122, R180, R196): a walk that is owed is made whole within the rounds allowed, nothing is owed
afterwards, and at a quiet moment the end of a command changes nothing. -/

namespace Sys2Proof.Machine

variable {s : State}

/-! ### What an order made ready leaves alone -/

@[simp] theorem State.setOrder_slotState (s : State) (o : AccessOwner) (t : Transaction) (k : Nat) :
    ((s.setOrder o t).slot k).state = (s.slot k).state := by
  cases o with
  | slot b => simp only [State.setOrder, State.slot_updSlot]; split <;> simp_all
  | shelf n => rfl

@[simp] theorem State.setOrder_walkDue (s : State) (o : AccessOwner) (t : Transaction) :
    (s.setOrder o t).ac.walkDue = s.ac.walkDue := by cases o <;> rfl

@[simp] theorem State.setOrder_departed (s : State) (o : AccessOwner) (t : Transaction) :
    (s.setOrder o t).ac.departed = s.ac.departed := by cases o <;> rfl

@[simp] theorem State.insertDown_slot (s : State) (f : OwnFrame) (k : Nat) : (s.insertDown f).slot k = s.slot k := rfl

@[simp] theorem State.makeReady_slotState (s : State) (o : AccessOwner) (op : AccessOp) (k : Nat) :
    ((s.makeReady o op).slot k).state = (s.slot k).state := by
  unfold State.makeReady; split <;> simp

@[simp] theorem State.makeReady_walkDue (s : State) (o : AccessOwner) (op : AccessOp) :
    (s.makeReady o op).ac.walkDue = s.ac.walkDue := by unfold State.makeReady; split <;> simp

@[simp] theorem State.makeReady_departed (s : State) (o : AccessOwner) (op : AccessOp) :
    (s.makeReady o op).ac.departed = s.ac.departed := by unfold State.makeReady; split <;> simp

/-! ### Grants -/

theorem State.grant_slotState (s : State) (r : Request) (b k : Nat) :
    ((s.grant r b).slot k).state = if k = b then .seizing else (s.slot k).state := by
  unfold State.grant
  simp only [State.makeReady_slotState, State.slot_setSlot]
  split <;> rfl

@[simp] theorem State.grant_walkDue (s : State) (r : Request) (b : Nat) : (s.grant r b).ac.walkDue = s.ac.walkDue := by
  simp [State.grant, State.setSlot]

@[simp] theorem State.grant_departed (s : State) (r : Request) (b : Nat) : (s.grant r b).ac.departed = true := by
  simp [State.grant, State.setSlot]

/-- How many of the four slots are FREE. -/
def State.freeSlots (s : State) : Nat := slotNumbers.countP fun b => decide ((s.slot b).state = .free)

theorem State.freeSlots_le (s : State) : s.freeSlots ≤ 4 := List.countP_le_length

/-- A grant takes a FREE slot. -/
theorem State.grant_freeSlots (s : State) (r : Request) (b : Nat) (hb : b ∈ slotNumbers) (hf : (s.slot b).state = .free) :
    (s.grant r b).freeSlots < s.freeSlots := by
  have h := s.grant_slotState r b
  simp only [slotNumbers, List.mem_cons, List.not_mem_nil, or_false] at hb
  unfold State.freeSlots slotNumbers
  rcases hb with rfl | rfl | rfl | rfl <;> simp [List.countP_cons, h, hf]

/-- A visit grants the request a FREE slot, or does nothing (R25–R27). -/
theorem State.visit_cases (s : State) (r : Request) :
    s.visit r = s ∨ ∃ b, b ∈ slotNumbers ∧ (s.slot b).state = .free ∧ s.visit r = s.grant r b := by
  unfold State.visit
  split
  · split
    · next b hb =>
      refine .inr ⟨b, List.mem_of_find?_eq_some hb, ?_, rfl⟩
      have := List.find?_some hb
      simp only [State.fitting, Bool.and_eq_true, decide_eq_true_eq] at this
      exact this.1.1
    · exact .inl rfl
  · exact .inl rfl

/-- A walk owes no walk, and one that grants leaves fewer FREE slots. -/
theorem State.visits (l : List Request) (s : State) :
    (l.foldl State.visit s).ac.walkDue = s.ac.walkDue
      ∧ (l.foldl State.visit s).freeSlots ≤ s.freeSlots
      ∧ ((l.foldl State.visit s).ac.departed = s.ac.departed ∨ (l.foldl State.visit s).freeSlots < s.freeSlots) := by
  induction l generalizing s with
  | nil => simp
  | cons r l ih =>
    have h := ih (s.visit r)
    rcases s.visit_cases r with hv | ⟨b, hb, hf, hv⟩
    · simpa [hv] using h
    · have hlt := s.grant_freeSlots r b hb hf
      simp only [List.foldl_cons, hv] at h ⊢
      refine ⟨by simpa using h.1, by omega, .inr (by omega)⟩

/-! ### Offers -/

@[simp] theorem State.enterQueue_slot (s : State) (r : Request) (k : Nat) : (s.enterQueue r).slot k = s.slot k := rfl

theorem State.offerCore_cases (s : State) (r : Request) :
    (s.refusal r = none ∧ s.offerCore r = (s.enterQueue r, none)) ∨ ∃ a, s.refusal r = some a ∧ s.offerCore r = (s, some a) := by
  unfold State.offerCore
  split
  · next a h => exact .inr ⟨a, h, rfl⟩
  · next h => exact .inl ⟨h, rfl⟩

theorem State.offerCore_slots (s : State) (r : Request) : (s.offerCore r).1.ac.slots = s.ac.slots := by
  rcases s.offerCore_cases r with ⟨_, h⟩ | ⟨_, _, h⟩
  · rw [h]; rfl
  · rw [h]

theorem State.offerCore_departed (s : State) (r : Request) : (s.offerCore r).1.ac.departed = s.ac.departed := by
  rcases s.offerCore_cases r with ⟨_, h⟩ | ⟨_, _, h⟩
  · rw [h]; rfl
  · rw [h]

theorem State.offerRetest_ac (s : State) (n : Nat) :
    (s.offerRetest n).1.ac.slots = s.ac.slots ∧ (s.offerRetest n).1.ac.departed = s.ac.departed := by
  unfold State.offerRetest
  repeat' (first | split | dsimp only)
  all_goals simp [State.offerCore_slots, State.offerCore_departed]

theorem State.offerRetests_ac (l : List Nat) (s : State) :
    (s.offerRetests l).ac.slots = s.ac.slots ∧ (s.offerRetests l).ac.departed = s.ac.departed := by
  induction l generalizing s with
  | nil => exact ⟨rfl, rfl⟩
  | cons n l ih =>
    unfold State.offerRetests
    have h := s.offerRetest_ac n
    dsimp only
    split
    · exact h
    · exact ⟨(ih _).1.trans h.1, (ih _).2.trans h.2⟩

theorem State.freeSlots_congr {s t : State} (h : s.ac.slots = t.ac.slots) : s.freeSlots = t.freeSlots := by
  have hk : ∀ k, s.slot k = t.slot k := fun k => by simp [State.slot, h]
  simp [State.freeSlots, hk]

/-! ### The end of a command -/

theorem State.settleRounds_of_settled {n : Nat} (h : s.settled) : s.settleRounds n = s := by
  obtain ⟨hw, hd⟩ := h
  cases n with
  | zero => rfl
  | succ n => simp [State.settleRounds, hw, hd]

/-- With nothing owed there is nothing to carry out. -/
@[simp] theorem State.settle_of_settled (h : s.settled) : s.settle = s := State.settleRounds_of_settled h

theorem State.settleRounds_settled (n : Nat) (s : State) (h : s.freeSlots + 2 ≤ n) : (s.settleRounds n).settled := by
  induction n generalizing s with
  | zero => omega
  | succ n ih =>
    unfold State.settleRounds
    dsimp only
    generalize hu : (if s.ac.departed = true then
        (s.updAc fun a => { a with departed := false }).offerRetests (s.updAc fun a => { a with departed := false }).dueRetests
        else s) = u
    have hk : u.ac.departed = false ∧ u.freeSlots = s.freeSlots := by
      rw [← hu]; split
      · have := State.offerRetests_ac (s.updAc fun a => { a with departed := false }).dueRetests
          (s.updAc fun a => { a with departed := false })
        exact ⟨this.2, State.freeSlots_congr this.1⟩
      · next hd => exact ⟨by simpa using hd, rfl⟩
    split
    · have hv := State.visits u.ac.queue (u.updAc fun a => { a with walkDue := false })
      have hf : (u.updAc fun a => { a with walkDue := false }).freeSlots = u.freeSlots := State.freeSlots_congr rfl
      rcases hv.2.2 with hd | hlt
      · have hs : (u.updAc fun a => { a with walkDue := false }).walk.settled := ⟨hv.1, hd.trans hk.1⟩
        rw [State.settleRounds_of_settled hs]; exact hs
      · refine ih _ ?_
        have : (u.updAc fun a => { a with walkDue := false }).walk.freeSlots < s.freeSlots := by
          rw [← hk.2, ← hf]; exact hlt
        omega
    · next hw => exact ⟨by simpa using hw, hk.1⟩

/-- Nothing is owed once the AC has settled. -/
@[simp] theorem State.settle_settled (s : State) : s.settle.settled :=
  State.settleRounds_settled 8 s (by have := s.freeSlots_le; omega)

@[simp] theorem State.refreshConditions_ac (s : State) : s.refreshConditions.ac = s.ac := rfl

@[simp] theorem State.examineReadiness_ac (s : State) : s.examineReadiness.ac = s.ac := by
  unfold State.examineReadiness; split <;> rfl

@[simp] theorem State.takeBadOrder_ac (s : State) : s.takeBadOrder.ac = s.ac := by
  unfold State.takeBadOrder
  split
  · rfl
  · split <;> rfl

/-- A command ends with nothing owed. -/
theorem State.finish_settled (s : State) : s.finish.settled := by
  simpa [State.settled, State.finish] using s.settle_settled

theorem State.examineReadiness_of_ready (h : s.core.oh.ready = true) : s.examineReadiness = s := by
  unfold State.examineReadiness
  split
  · rcases s with ⟨p, ri, st, c, htp, cg, ac, ms, rs, csi⟩
    rcases c with ⟨t, l, sh, se, tc, gm, oh⟩
    rcases oh
    simp_all [State.updOh, State.updCore, Core.updOh]
  · rfl

theorem Oh.setCondition_of_shown {o : Oh} {f : Flag} {on : Bool} (h : o.current.has f = on) : o.setCondition f on = o := by
  simp [Oh.setCondition, h]

/-- Conditions that are shown as they are need no refreshing. -/
theorem State.refreshConditions_of_shown (h : s.ConditionsShown) : s.refreshConditions = s := by
  unfold State.refreshConditions
  dsimp only
  have e : ((((s.core.oh.setCondition .shelfSilent s.core.anyShelfSilent).setCondition .testSetSilent s.core.anySetSilent).setCondition
      .busFaulted s.anyFaulted).setCondition .ticketsFull (decide (256 ≤ s.core.tc.tickets.length))) = s.core.oh := by
    rw [Oh.setCondition_of_shown (f := .shelfSilent) h.shelf, Oh.setCondition_of_shown (f := .testSetSilent) h.testSet,
      Oh.setCondition_of_shown (f := .busFaulted) h.bus, Oh.setCondition_of_shown (f := .ticketsFull) h.table]
  simp only [State.updOh, State.updCore, Core.updOh, e]

theorem State.takeBadOrder_of_empty (h : s.htp.latch = none) : s.takeBadOrder = s := by
  simp [State.takeBadOrder, h]

/-- At a quiet moment the end of a command changes nothing. -/
theorem State.finish_of_quiet (h : s.Quiet) : s.finish = s := by
  simp only [State.finish, State.settle_of_settled h.settled, State.refreshConditions_of_shown h.conditions]
  rw [State.examineReadiness_of_ready h.ready, State.takeBadOrder_of_empty h.latch]

/-! ### Orders at a quiet moment -/

/-- An order that comes while the OH can take one is judged at once. -/
theorem State.takeOrder_of_takes (h : s.Takes) (i : Instr) (judge : State → State) : s.takeOrder i judge = judge s := by
  simp [State.takeOrder, h.quiet.latch, h.ohReady, State.judgeOrder, h.quiet.ready]

/-- The step of an order command at such a moment. -/
theorem State.orderCommand_of_takes (h : s.Takes) (i : Instr) (judge : State → State) :
    s.orderCommand i judge = .next (judge s).finish := by
  simp [State.orderCommand, State.command, State.whenLive, h.quiet.live, State.takeOrder_of_takes h]

/-- The step of a command that is no order. -/
theorem State.command_of_live (h : s.resetInput = false) (f : State → State) : s.command f = .next (f s).finish := by
  simp [State.command, State.whenLive, h]

/-! ### Answers -/

/-- The ANSWER to an order is one frame more in the UP insertion queue, and nothing else (R178). -/
theorem State.answer_eq (s : State) {i : Instr} {code ref : Byte} {args : Octets} (h : encodeOrder i = code :: ref :: args) (a : Answer)
    (d : Octets) : s.answer i a d = s.withUpFrame (s.answerFrame i a d) := by
  simp [State.answer, State.answerTo, State.withUpFrame, State.answerFrame, State.insertUp, State.updHtp, OutPort.insert,
    State.toControl, h]

/-- A frame more in the UP insertion queue leaves a quiet moment quiet. -/
theorem State.Quiet.withUpFrame (h : s.Quiet) (f : OwnFrame) : (s.withUpFrame f).Quiet :=
  ⟨h.live, h.settled, h.latch, h.ready, h.conditions.1, h.conditions.2, h.conditions.3, h.conditions.4⟩

end Sys2Proof.Machine
end

