-- ==== Sys2Proof/Tests/Slice0.lean ====
section
/-! SUPPORT. Tests of the model: the checks of `wellFormed`, orders written out as octets, one step of a command with the result the manual
gives, and for every statement of Obligations.lean that has hypotheses a state and operands that meet them, clause by clause. -/

namespace Sys2Proof.Tests

-- Many kernel evaluations at once would each hold a thread of their own: one after another they need none.
set_option Elab.async false

open Sys2Proof.Machine

/-! ### Helpers -/

/-- The quiet moment, as a check that can be evaluated. -/
def quiet (s : State) : Bool :=
  !s.resetInput && !s.ac.walkDue && !s.ac.departed && s.htp.latch.isNone && s.core.oh.ready
    && s.core.oh.current.shelfSilent == s.core.anyShelfSilent && s.core.oh.current.testSetSilent == s.core.anySetSilent
    && s.core.oh.current.busFaulted == s.anyFaulted && s.core.oh.current.ticketsFull == decide (256 ≤ s.core.tc.tickets.length)

theorem quiet_of {s : State} (h : quiet s = true) : s.Quiet := by
  simp only [quiet, Bool.and_eq_true, beq_iff_eq, Bool.not_eq_true', Option.isNone_iff_eq_none] at h
  obtain ⟨⟨⟨⟨⟨⟨⟨⟨h1, h2⟩, h3⟩, h4⟩, h5⟩, h6⟩, h7⟩, h8⟩, h9⟩ := h
  exact ⟨h1, ⟨h2, h3⟩, h4, h5, ⟨h6, h7, h8, h9⟩⟩

theorem quiets {l : List State} (h : l.all quiet = true) : ∀ s ∈ l, s.Quiet := fun s hs => quiet_of (List.all_eq_true.mp h s hs)

/-- The moment an order is taken at, as a check. -/
def takes (s : State) : Bool := quiet s && s.ohReady

theorem takings {l : List State} (h : l.all takes = true) : ∀ s ∈ l, s.Takes := fun s hs => by
  have := List.all_eq_true.mp h s hs
  simp only [takes, Bool.and_eq_true] at this
  exact ⟨quiet_of this.1, this.2⟩

/-- The moment an ACCESS_CONFIRM can come, as a check. -/
def hears (s : State) : Bool := quiet s && decide (s.receiver .down = .hunting ∧ 65 ≤ s.core.oh.station ∧ s.core.oh.station ≤ 126)

theorem hearings {l : List State} (h : l.all hears = true) : ∀ s ∈ l, s.Hears := fun s hs => by
  have := List.all_eq_true.mp h s hs
  simp only [hears, Bool.and_eq_true, decide_eq_true_eq] at this
  exact ⟨quiet_of this.1, this.2.1, this.2.2⟩

/-- A line with nothing to offer, as a check. -/
def rests (s : State) (l : Nat) : Bool :=
  decide ((s.line l).lockoutStart = none ∧ (s.line l).reOffer = false ∧ (s.line l).hits + 1 < s.core.oh.params.hitsThreshold
    ∧ 0 < s.core.oh.params.lockoutDelay)

theorem rests_of {s : State} {l : Nat} (h : rests s l = true) : s.LineRests l := by
  obtain ⟨h1, h2, h3, h4⟩ := of_decide_eq_true h
  exact ⟨h1, h2, h3, h4⟩

theorem noRetests_of {s : State} (h : (s.core.tc.tickets.all fun k => k.retest.isNone) = true) : s.noRetests := fun k hk =>
  Option.isNone_iff_eq_none.mp (List.all_eq_true.mp h k hk)

/-- The steps between two numbers cannot be run, as a check. -/
theorem stepsVoid_of {s : State} {b k j : Nat} {p : Programme}
    (h : ((List.range j).all fun i => decide (i ≤ k) || (s.ms.stepOf p i).any (s.stepVoid b)) = true) : s.stepsVoid b p k j :=
  fun i hk hj => by
    have := List.all_eq_true.mp h i (List.mem_range.mpr hj)
    simp only [Bool.or_eq_true, decide_eq_true_eq, Option.any_eq_true] at this
    obtain h | h := this
    · omega
    · exact h

/-- No group of the line's cable stands or is near, as a check. -/
theorem far_of {c : Core} {l : Nat}
    (h : ([2 * (c.line l).group, 2 * (c.line l).group + 1].all fun key =>
      (c.groupTicket key).isNone && decide ((c.qualifying key).length + 1 < c.oh.params.groupThreshold)) = true) : c.farFromGroup l :=
  fun key hk => by
    have := List.all_eq_true.mp h key (by simp only [List.mem_cons, List.not_mem_nil, or_false]; omega)
    simpa [Option.isNone_iff_eq_none] using this

/-- A sound state, as a check. -/
def sound (s : State) : Bool :=
  decide (s.core.tc.tickets.length ≤ 256 ∧ 1 ≤ s.core.tc.counter ∧ s.core.tc.counter ≤ 65535
      ∧ (s.core.tc.tickets.map (·.number)).Nodup ∧ s.core.tc.notices.Nodup
      ∧ (∀ t ∈ s.core.tc.tickets, (1 ≤ t.number ∧ t.number ≤ 65535) ∧ t.occurrences ≤ 255 ∧ t.reopened ≤ 15 ∧ t.lastValues.length ≤ 4
          ∧ (t.retest.map (·.attempts)).getD 0 ≤ 3 ∧ (t.noticePending = true → t.number ∈ s.core.tc.notices))
      ∧ ∀ n ∈ s.core.tc.notices, ∃ t ∈ s.core.tc.tickets, t.number = n ∧ t.noticePending = true)
    && decide (s.core.oh.count1 = (s.core.tc.tickets.countP fun t => decide (t.counts = some 1))
      ∧ s.core.oh.count2 = (s.core.tc.tickets.countP fun t => decide (t.counts = some 2))
      ∧ s.core.oh.count3 = (s.core.tc.tickets.countP fun t => t.counts.any fun v => decide (v ≠ 1 ∧ v ≠ 2))
      ∧ 1 ≤ s.core.oh.tokenCounter ∧ s.core.oh.tokenCounter ≤ 255
      ∧ s.core.oh.sweepRunning = s.rs.running ∧ s.core.oh.passCount = s.rs.passCount)
    && decide ((∀ e ∈ s.core.shelves, e.2.freePairs ≤ 2 ∧ e.2.failures ≤ 3)
      ∧ (∀ e ∈ s.core.sets, e.2.tag < 16 ∧ e.2.expected < 256 ∧ e.2.failures ≤ 3 ∧ e.2.attempt ≤ 3)
      ∧ (∀ e ∈ s.ac.slots, e.2.attempt ≤ 3 ∧ e.2.pair ≤ 1)
      ∧ (∀ e ∈ s.ms.programmes, (e.2.map (·.count)).getD 0 ≤ 12)
      ∧ ∀ e ∈ s.ms.runs, (e.2.all fun x => decide (x.step ≤ 12 ∧ x.results.length < x.step ∧ x.lost ≤ 65535)) = true)
    && (Table.wf {} s.core.lines && Table.wf {} s.core.shelves && Table.wf {} s.core.sets && Table.wf [] s.core.gm.members
      && Table.wf {} s.rs.ranges && Table.wf none s.ms.programmes && Table.wf none s.ms.steps && Table.wf {} s.ms.limits
      && Table.wf none s.ms.runs && Table.wf none s.ms.pendingRuns && Table.wf {} s.ac.slots && Table.wf {} s.htp.treatment
      && Table.wf none s.htp.stateMap)
    && decide (s.rs.accumulator < 2 ^ 24 ∧ s.rs.increment ≤ 65535 ∧ s.rs.pendingIncrement.getD 0 ≤ 65535 ∧ s.rs.passCount < 65536
      ∧ s.ms.results.length ≤ 64 ∧ s.ac.queue.length ≤ 32 ∧ s.htp.up.insertion.length ≤ 16 ∧ s.htp.down.insertion.length ≤ 16
      ∧ s.cg.held.length ≤ 8 ∧ s.cg.waiting.length ≤ 8)

theorem sound_of {s : State} (h : sound s = true) : s.Sound := by
  simp only [sound, Bool.and_eq_true, decide_eq_true_eq] at h
  obtain ⟨⟨⟨⟨⟨a1, a2, a3, a4, a5, a6, a7⟩, b1, b2, b3, b4, b5, b6, b7⟩, c1, c2, c3, c4, c5⟩,
    ⟨⟨⟨⟨⟨⟨⟨⟨⟨⟨⟨w1, w2⟩, w3⟩, w4⟩, w5⟩, w6⟩, w7⟩, w8⟩, w9⟩, w10⟩, w11⟩, w12⟩, w13⟩, d1, d2, d3, d4, d5, d6, d7, d8, d9, d10⟩ := h
  exact
    { core :=
        { tc :=
            { tickets := a1, counter := ⟨a2, a3⟩, numbers := a4
              each := fun t ht =>
                let ⟨h1, h2, h3, h4, h5, _⟩ := a6 t ht
                ⟨h1, h2, h3, h4, fun w hw => by simpa [hw] using h5⟩
              notices := a5
              pending := fun n => ⟨a7 n, fun ⟨t, ht, hn, hp⟩ => hn ▸ (a6 t ht).2.2.2.2.2 hp⟩ }
          oh := ⟨b1, b2, b3, b4, b5⟩
          shelf := Table.get_all ⟨by decide, by decide⟩ fun e h => ⟨(c1 e h).1, (c1 e h).2⟩
          testSet := Table.get_all ⟨by decide, by decide, by decide, by decide⟩ fun e h =>
            ⟨(c2 e h).1, (c2 e h).2.1, (c2 e h).2.2.1, (c2 e h).2.2.2⟩
          lines := w1, shelves := w2, sets := w3, groups := w4 }
      rs := ⟨d1, d2, fun i hi => by simpa [hi] using d3, d4, w5⟩
      ms :=
        { results := d5, programmes := w6, steps := w7, limits := w8, runs := w9, pendingRuns := w10
          programme := fun n p => Table.get_all (d := none) (P := fun v : Option Programme => v = some p → p.count ≤ 12) (fun h => nomatch h)
            (fun e h k => by simpa [k] using c4 e h) n
          run := fun b x => Table.get_all (d := none) (P := fun v : Option Run => v = some x → x.Sound) (fun h => nomatch h)
            (fun e h k => by
              have := c5 e h
              simp only [k, Option.all_some, decide_eq_true_eq] at this
              exact ⟨this.1, this.2.1, this.2.2⟩) b }
      ac := ⟨d6, w11, Table.get_all (d := ({} : Slot)) (P := fun v => v.attempt ≤ 3 ∧ v.pair ≤ 1) (by decide) c3⟩
      htp := ⟨d7, d8, w12, w13⟩
      cg := ⟨d9, d10⟩
      running := b6
      passCount := b7 }

theorem sounds {l : List State} (h : l.all sound = true) : ∀ s ∈ l, s.Sound := fun s hs => sound_of (List.all_eq_true.mp h s hs)

/-- What a step's next state shows, `none` where there is none. -/
def shows {α : Type} (o : Host.Outcome State Fault Refusal) (f : State → α) : Option α :=
  match o with
  | .next s => some (f s)
  | .fault _ | .refused _ => none

/-- A READY part with nothing loaded. -/
def idle : State := { csi := { imageAwaited := false }, core := { oh := { ready := true } } }

def allKinds : KindSet := { dcv := true, acv := true, resIns := true, resLoop := true, cap := true }

/-- A KEEP request of the desk for line 5. -/
def desk : Request :=
  { cls := .desk, line := 5, programme := none, kinds := {}, token := some 1, position := some 0, keep := true, hold := 300, wait := 60,
    waitDue := some 0 }

/-- Shelf 0 SERVING and set 0 READY with every kind agreed. -/
def serving : State :=
  (idle.updShelf 0 fun h => { h with fitted := true, state := .serving }).updTestSet 0 fun t =>
    { t with state := .ready, type := some .full, agreedKinds := some allKinds, agreedRate := some .r1000 }

/-- Shelf 0 SERVING, and no set READY. -/
def unserved : State := idle.updShelf 0 fun h => { h with fitted := true, state := .serving }

/-- A slot in this state carries the request for line 5. -/
def access (st : SlotState) : State :=
  (((serving.setSlot 0 { state := st, request := some desk, attempt := 1, holdDue := some 0 }).updLine 5
    fun r => { r with access := .inAccess 0 }).updShelf 0 fun h => { h with freePairs := 1 })

/-- The request waits in the queue, with no set READY. -/
def queued : State :=
  (((idle.updShelf 0 fun h => { h with fitted := true, state := .serving }).updAc fun a => { a with queue := [desk] }).updLine 5
    fun r => { r with access := .queued })

def dcvStep : Step :=
  { kind := .dcv, pair := .tg, level := 0, slope := 1, settle := 5, samples := 4, limitSet := none, faultClass := .foreignVoltage,
    onFail := .goOn }

/-- A programme of two steps is loaded. -/
def loaded (s : State) : State := ((s.setStep (0, some dcvStep)).setStep (1, some dcvStep)).setProgramme (0, some { first := 0, count := 2 })

/-- The access runs step 1 of it. -/
def running : State :=
  (loaded (access .held)).setRun 0 (some { programme := 0, phase := .acquire })

/-- A LINE ticket OPEN on line 5, numbered 1. -/
def openTicket : Ticket :=
  { number := 1, kind := .line, subject := 5, cls := .fault .groundT, severity := 2, state := .opened, firstSeen := 0, lastSeen := 0 }

/-- The part with these tickets. -/
def ticketed (s : State) (ts : List Ticket) : State := s.updCore fun c => { c with tc := { c.tc with tickets := ts } }

def shelfTicket : Ticket :=
  { number := 2, kind := .shelf, subject := 0, cls := .fault .shelfSilent, severity := 3, state := .opened, firstSeen := 0, lastSeen := 0 }

/-- Shelf 0 SILENT and shown so. -/
def silentShelf : State :=
  ((idle.updShelf 0 fun h => { h with fitted := true, state := .silent, failures := 3, probeDue := some 0 }).updOh fun o =>
    { o with current := { shelfSilent := true } })

/-- Set 0 SILENT and shown so. -/
def silentSet (attempt : Nat) (answer : Option Nat) : State :=
  ((idle.updTestSet 0 fun t => { t with state := .silent, failures := 3, attempt := attempt, probeDue := some 0, answerDue := answer }).updOh
    fun o => { o with current := { testSetSilent := true } })

/-- A frame of kind 0x20 from shelf 1 to station 0, and one of the same kind down to shelf 1. -/
def upFrame : Octets := highwayFrame 0 1 0x20 [0, 5, 1]
def downFrame : Octets := highwayFrame 1 0 0x20 [0, 5, 1]

/-- Kind 0x20 has this treatment, line at 0 and state at 2; state code 1 is IDLE. -/
def treated (t : Treatment) (s : State) : State :=
  (s.setTreatment (0x20, { treatment := t, lineOffset := 0, stateOffset := 2 })).setMapEntry (1, some .idle)

/-! ### The checks of `wellFormed`, each refusing an ill-formed command -/

theorem test_wellFormed_accepts : (Instr.summary 1).wellFormed = true ∧ (Instr.loadShelf 1 [⟨0, 1⟩]).wellFormed = true
    ∧ (Instr.frameEnd .up [1] none).wellFormed = true ∧ (Instr.loadLine 1 0 [⟨0, 1, 0⟩]).wellFormed = true := by decide

theorem test_wellFormed_no_octets : (Instr.frameEnd .up [] none).wellFormed = false := by decide
theorem test_wellFormed_long_frame : (Instr.frameEnd .up (List.replicate 126 0) none).wellFormed = false := by decide +kernel
theorem test_wellFormed_no_lines : (Instr.loadLine 1 0 []).wellFormed = false := by decide
theorem test_wellFormed_25_lines : (Instr.loadLine 1 0 (List.replicate 25 ⟨0, 1, 0⟩)).wellFormed = false := by decide
theorem test_wellFormed_no_shelves : (Instr.loadShelf 1 []).wellFormed = false := by decide
theorem test_wellFormed_no_treatments : (Instr.loadTreatment 1 []).wellFormed = false := by decide
theorem test_wellFormed_no_states : (Instr.loadStatemap 1 []).wellFormed = false := by decide
theorem test_wellFormed_no_programmes : (Instr.loadProgramme 1 []).wellFormed = false := by decide
theorem test_wellFormed_no_steps : (Instr.loadStep 1 []).wellFormed = false := by decide
theorem test_wellFormed_no_limits : (Instr.loadLimit 1 []).wellFormed = false := by decide
theorem test_wellFormed_no_ranges : (Instr.loadSweeprange 1 []).wellFormed = false := by decide
theorem test_wellFormed_long_payload : (Instr.loadShelf 1 (List.replicate 60 ⟨0, 1⟩)).wellFormed = false := by decide +kernel

/-! ### Orders written out as octets (R199, R203) -/

theorem test_decode_no_word : decodeTableWord 32 0 = none := by decide
theorem test_decode_load_line : decodeOrder [1, 9, 2, 1, 0x01, 0x00, 3, 1, 0xFF] = some (.loadLine 9 256 [⟨3, 1, 0xFF⟩]) := by decide
theorem test_decode_read : decodeOrder [2, 9, 11, 0, 2, 1] = some (.read 9 .slot 2 1) := by decide
theorem test_decode_test : decodeOrder [3, 9, 2, 0x12, 0x34, 7, 4, 0, 30, 1, 0] = some (.test 9 2 0x1234 7 4 30 256) := by decide
theorem test_decode_cancel : decodeOrder [6, 9, 5, 1] = some (.cancelRun 9 5) ∧ decodeOrder [6, 9, 5, 2] = none := by decide
theorem test_decode_sweep : decodeOrder [9, 9, 2, 0x05, 0xDC] = some (.sweepRate 9 1500) ∧ decodeOrder [9, 9, 0] = some (.sweepStart 9) := by
  decide
theorem test_decode_bad : decodeOrder [10, 9, 0] = none ∧ decodeOrder [14, 9] = none ∧ decodeOrder [1, 9, 3, 0] = none := by decide

/-! ### One step of a command, against the manual -/

/-- R13: with a window of 60 s and a start at 1,000 s, a hit at 1,060 s counts and a hit at 1,061 s restarts the window. -/
theorem test_hits_window :
    (((idle.updCore fun c => { c with timeMs := 1060000 }).updLine 5 fun r => { r with hits := 3, hitsStart := some 1000 }).countHit 5).line 5
        = { hits := 4, hitsStart := some 1000 }
    ∧ (((idle.updCore fun c => { c with timeMs := 1061000 }).updLine 5 fun r => { r with hits := 3, hitsStart := some 1000 }).countHit 5).line 5
        = { hits := 1, hitsStart := some 1061 } := by decide +kernel

/-- R92: a mean of −18,121.09 nA becomes −18,121 nA and one of 2.5 nA becomes 3 nA. -/
theorem test_rounding : rounded (-1812109) 100 = -18121 ∧ rounded 25 10 = 3 ∧ rounded (-25) 10 = -3 := by decide

/-- R93, R94, R100: a voltage overload replaces a DCV and an ACV value; with the current mark set too, the table computes them (log 42). -/
theorem test_both_overloads :
    figureOf dcvStep { sv := 40, overV := some false } {} 0 = { value := -327670, quals := { overrange := true } }
    ∧ figureOf dcvStep { sv := 40, overI := true, overV := some false } {} 0 = { value := 100 }
    ∧ figureOf { dcvStep with kind := .acv } { sv2 := 4, overI := true, overV := some true } {} 0 = { value := 10 } := by decide +kernel

/-- R197: the octet 0x81 with its marker, a start bit of 0 before them and a stop bit of 1 behind them. -/
theorem test_character : (Character.mk true 0x81).bits = [false, true, true, false, false, false, false, false, false, true, true]
    ∧ lineCharacters 0 (frameBits [0x81, 0x7F] ++ idleFill 3) = [⟨true, 0x81⟩, ⟨false, 0x7F⟩] := by decide

/-- R203: the codes of a shelf's states. -/
theorem test_shelf_codes :
    [ShelfState.unfitted, .probing, .serving, .silent].map ShelfState.code = [0, 1, 2, 3] := by decide

/-- The ACV worked case of section 5: isqrt of 320,000,000 is 17,888. -/
theorem test_isqrt : isqrt 320000000 = 17888 ∧ isqrt 0 = 0 ∧ isqrt 15 = 3 ∧ isqrt 16 = 4 := by decide +kernel

/-- R179: a value below a parameter's range is clamped to its least, one above it to its greatest. -/
theorem test_clamps : clamp 4 64 0 = 4 ∧ clamp 4 64 255 = 64 ∧ clamp 10 300 60 = 60 ∧ clampRate 999 = .r500 ∧ clampRate 0 = .r250 := by
  decide

/-- R103: with low 100, high 120 and h = 50 a FAIL channel has effective limits 150 and 60, and 110 is FAIL. -/
theorem test_hysteresis :
    verdictOf .resLoop (some { unit := .ohm, low := some 100, high := some 120, hysteresis := 50 }) .fail .loop 110 = .fail
    ∧ verdictOf .resLoop (some { unit := .ohm, low := some 100, high := some 120, hysteresis := 50 }) .good .loop 120 = .good := by decide

/-- R184: the token after 255 is 1. -/
theorem test_next_token : nextToken 255 = 1 ∧ nextToken 1 = 2 := by decide

/-- R58: the tag counts modulo 16. -/
theorem test_next_tag : nextTag 15 = 0 ∧ sampleGap 2 250 = 8 := by decide

/-- R149: the sum 16,777,216 makes a pacing event and leaves 0. -/
theorem test_tick :
    shows (exec .timeBaseTick { idle with rs := { running := true, increment := 16, accumulator := 16777200 } })
      (fun t => (t.rs.accumulator, t.rs.eventDue, t.core.timeMs)) = some (0, true, 1) := by decide +kernel

/-- R179, R196: straps of 1 give station 65, straps of 63 give 100. -/
theorem test_station : stationOf {} 1 = 65 ∧ stationOf {} 63 = 100 ∧ stationOf {} 0 = 100 ∧ stationOf {} 62 = 126 := by decide

/-- R158: a frame with one octet changed is defective. -/
theorem test_good_frame : goodFrame upFrame = true ∧ goodFrame (upFrame.set 4 1) = false ∧ goodFrame (upFrame.take 7) = false := by
  decide +kernel

/-- R27: the grant of a TEST of line 5 takes slot 0 and pair 0. -/
theorem test_test_grants :
    shows (exec (.test 7 0 5 0xFF 2 0 0) serving) (fun t => ((t.slot 0).state, (t.slot 0).pair, (t.line 5).access, (t.shelf 0).freePairs))
      = some (.seizing, 0, .inAccess 0, 1) := by decide +kernel

/-- R44: RELEASE of a HELD access. -/
theorem test_release :
    shows (exec (.release 7 1) (access .held)) (fun t => ((t.slot 0).state, (t.slot 0).cause)) = some (.releasing, some .deskRelease) := by
  decide +kernel

/-- R22 test 1: TEST of a line on an UNFITTED shelf is refused SHELF_SILENT, the code of R203. -/
theorem test_test_refused :
    shows (exec (.test 7 0 5 0xFF 2 0 0) idle) (fun t => t.htp.up.insertion.map fun f => f.octets.take 7)
      = some [[0, 100, kindAnswer, 3, 3, 7, 11]] := by decide +kernel

/-- R191: SUMMARY puts the current conditions back in the latch. -/
theorem test_summary :
    shows (exec (.summary 7) (silentShelf.updOh fun o => { o with latch := { shelfSilent := true, groupFormed := true }, attentionSent := true }))
      (fun t => (t.core.oh.latch, t.core.oh.attentionSent)) = some ({ shelfSilent := true }, false) := by decide +kernel

/-- R36: the probe of a SILENT shelf falls due again 10 s later. -/
theorem test_shelf_probe :
    shows (exec (.shelfProbeTimer 0) silentShelf) (fun t => ((t.shelf 0).probeDue, (t.shelf 0).order))
      = some (some 10000, .placed .releaseAll none) := by decide +kernel

/-- R39: a hold limit that runs out makes the RESULT ABORTED_HOLD. -/
theorem test_hold_expiry :
    shows (exec (.holdExpiry 0) (access .held)) (fun t => ((t.slot 0).cause, t.ms.results.map (·.outcome)))
      = some (some .holdExpired, [.abortedHold]) := by decide +kernel

/-- R168: with the strict mark set a passing frame goes before an inserted one. -/
theorem test_strict_mark :
    shows (exec (.portFree .up) (idle.updHtp fun h => { h with up := { pass := [[1]], insertion := [⟨[2], none⟩], strict := true } }))
      (fun t => t.htp.up.sending) = some (some .passing) := by decide +kernel

/-- R157: a marked octet begins a frame. -/
theorem test_marked_octet :
    shows (exec (.markedOctetReceived .up 9) idle) (fun t => t.htp.upReceiver) = some (.receiving [9]) := by decide +kernel

/-- R10: a report on a line in a live access is deferred. -/
theorem test_report_deferred :
    shows (exec (.frameEnd .down upFrame none) (treated .lineState (access .held))) (fun t => ((t.line 5).deferred, (t.line 5).callState))
      = some (some .idle, .unknown) := by decide +kernel

/-- R171 test 3: a CALL_SEIZE on a DESK access is refused, and GUARD_REFUSED latched. -/
theorem test_seize_refused :
    shows (exec (.frameEnd .up downFrame none) (treated .callSeize (access .held)))
      (fun t => (t.core.oh.latch.guardRefused, t.htp.down.pass, t.htp.up.insertion.length)) = some (true, [], 1) := by decide +kernel

/-- R53, R54: three tries unanswered and no sample seen make the set ABSENT. -/
theorem test_absent :
    shows (exec (.identifyAnswerTimeout 0) (idle.updTestSet 0 fun t => { t with attempt := 3, answerDue := some 0 }))
      (fun t => (t.testSet 0).state) = some .absent := by decide +kernel

/-- R60: the sample's index plus 1 becomes the expected one, also under an old tag. -/
theorem test_sample_index :
    (access .held).readySample 0 { index := 255, tag := 9, voltage := 0, current := 0, overV := false, overI := false }
      = (access .held).updTestSet 0 fun t => { t with expected := 0 } := by decide +kernel

/-! ### Witnesses: the hypotheses of each statement are met, clause by clause -/

theorem witness_FrontCommandIsExecuted : ({ idle with pending := [.timeBaseTick] } : State).pending = .timeBaseTick :: []
    ∧ idle.pending = [] := by decide

/-- A LINE ticket OPEN on line 5 with its notice pending, a run of two steps at its first, and a ROUTINE request in the queue. -/
def atWork : State :=
  (((running.updCore fun c => { c with tc := { c.tc with tickets := [{ openTicket with noticePending := true }], notices := [1] } }).updOh
      fun o => { o with count2 := 1 }).updAc fun a => { a with queue := [{ desk with cls := .routine, line := 6 }] }).updLine 6
    fun r => { r with access := .queued }

theorem atWork_sound : atWork.Sound := sound_of (by decide +kernel)

theorem witness_StepKeepsSound : atWork.Sound ∧ ∃ t, step { atWork with pending := [.timeBaseTick] } = .next t ∧ t ≠ atWork :=
  ⟨atWork_sound, _, rfl, by decide +kernel⟩

theorem witness_NothingIsOwedBetweenCommands :
    atWork.settled ∧ ∃ t, step { atWork with pending := [.timeBaseTick] } = .next t ∧ t ≠ atWork :=
  ⟨⟨by decide, by decide⟩, _, rfl, by decide +kernel⟩

theorem witness_OrdersDecodeToThemselves : (Instr.loadLine 1 8191 [⟨127, 1, 0xFF⟩]).isOrder = true
    ∧ (Instr.loadLine 1 8191 [⟨127, 1, 0xFF⟩]).wellFormed = true := by decide

theorem witness_ResetHoldsThePartStill : ({ idle with resetInput := true } : State).resetInput = true
    ∧ ∀ straps, Instr.timeBaseTick ≠ .powerOn straps := ⟨rfl, fun _ h => nomatch h⟩

/-- An image of these table sections, and one of the SHELF table with shelf 5 fitted. -/
def image (body : Octets) : Octets :=
  let signed := [0x5C] ++ octets2 (BitVec.ofNat 16 body.length) ++ body
  signed ++ octets2 (crc16 signed)

def shelfImage : Octets := image [3, 0, 1, 5, 1]

/-- The part as the release of reset leaves it, and at 50 ms. -/
theorem reset_waits : State.reset.settled ∧ State.reset.ConditionsShown := ⟨⟨rfl, rfl⟩, ⟨rfl, rfl, rfl, rfl⟩⟩

theorem witness_InvalidImageLeavesDefaults : State.reset.settled ∧ State.reset.resetInput = false ∧ State.reset.htp.latch = none
    ∧ State.reset.csi.imageAwaited = true ∧ State.reset.loadImage [] = none
    ∧ 50 ≤ (State.reset.updCore fun c => { c with timeMs := 50 }).core.timeMs
    ∧ ({ State.reset with csi := { stored := .invalid } } : State).storeReadable = false := ⟨reset_waits.1, by decide⟩

theorem witness_ValidImageIsApplied : State.reset.settled ∧ State.reset.resetInput = false ∧ State.reset.htp.latch = none
    ∧ State.reset.csi.imageAwaited = true ∧ State.reset.storeReadable = true
    ∧ (State.reset.loadImage shelfImage).map (fun u => (u.shelf 5).fitted) = some true
    ∧ imageBody shelfImage = some [3, 0, 1, 5, 1] := ⟨reset_waits.1, by decide +kernel⟩

/-- A save that waits for block k. -/
def saved (k : Nat) : State := idle.updCsi fun c => { c with stored := .invalid, saving := some { ref := 1, block := k, octets := [], ackDue := 0 } }

theorem witness_SaveWritesBlockByBlock : (∀ s ∈ [saved 956, saved 957], s.Quiet) ∧ (∀ s ∈ [idle, saved 5], s.Takes)
    ∧ idle.csi.saving = none ∧ (saved 5).csi.saving.isSome = true
    ∧ ∀ k, (saved k).csi.saving = some { ref := 1, block := k, octets := [], ackDue := 0 } ∧ 0 ≤ (saved k).core.timeMs :=
  ⟨quiets (by decide +kernel), takings (by decide +kernel), rfl, rfl, fun _ => ⟨rfl, Nat.zero_le _⟩⟩

theorem witness_FramesPassOrDrop :
    (∀ s ∈ [idle, treated .drop idle, treated .callSeize idle, treated .lineState idle], s.Quiet)
    ∧ upFrame ≠ [] ∧ frameOctets upFrame = upFrame ∧ goodFrame [1] = false ∧ goodFrame upFrame = true
    ∧ (upFrame.getD 0 0).toNat ≠ idle.core.oh.station ∧ (idle.htp.entry 0x20).treatment = .pass
    ∧ ((treated .drop idle).htp.entry 0x20).treatment = .drop ∧ ((treated .callSeize idle).htp.entry 0x20).treatment = .callSeize
    ∧ lineAt (framePayload (highwayFrame 0 1 0x20 [0x20, 0])) 0 = none
    ∧ (treated .lineState idle).htp.report ((treated .lineState idle).htp.entry 0x20) (framePayload (highwayFrame 0 1 0x20 [0, 5, 2])) = none :=
  ⟨quiets (by decide +kernel), by decide +kernel⟩

/-- An ORDER frame for the part, SUMMARY. -/
def order : Octets := highwayFrame 100 0 kindOrder (encodeOrder (.summary 7))

/-- The part with that ORDER in its latch and n frames in its UP queue. -/
def latched (n : Nat) : State :=
  idle.updHtp fun h => { h with latch := some order, up := { insertion := List.replicate n { octets := [1] } } }

theorem latched_waits (n : Nat) : (latched n).settled ∧ (latched n).ConditionsShown := ⟨⟨rfl, rfl⟩, ⟨rfl, rfl, rfl, rfl⟩⟩

theorem witness_LatchTakesOneOrder : (∀ s ∈ [idle], s.Quiet) ∧ (∀ n, (latched n).settled ∧ (latched n).ConditionsShown)
    ∧ frameOctets order = order ∧ goodFrame order = true
    ∧ (order.getD 0 0).toNat = idle.core.oh.station ∧ order.getD 2 0 = kindOrder ∧ (decodeOrder (framePayload order)).isSome = true
    ∧ framePayload order = 10 :: 7 :: [] ∧ (latched 13).htp.up.insertion.length < 14 ∧ 14 ≤ (latched 14).htp.up.insertion.length
    ∧ (latched 13).ohReady = true ∧ framePayload order = encodeOrder (.summary 7) :=
  ⟨quiets (by decide +kernel), latched_waits, by decide +kernel⟩

theorem witness_OrdersAreAnsweredNotReady : State.reset.settled ∧ State.reset.ConditionsShown ∧ State.reset.resetInput = false
    ∧ State.reset.htp.latch = none ∧ State.reset.ohReady = true ∧ State.reset.core.oh.ready = false
    ∧ State.reset.csi.imageAwaited = true ∧ State.reset.core.startSettled = false :=
  ⟨reset_waits.1, reset_waits.2, by decide +kernel⟩

theorem witness_LineStateFrameIsTaken :
    (∀ s ∈ [treated .lineState idle, treated .lineState (access .held)], s.Quiet) ∧ frameOctets upFrame = upFrame ∧ goodFrame upFrame = true
    ∧ (upFrame.getD 0 0).toNat ≠ idle.core.oh.station
    ∧ (treated .lineState idle).htp.report ((treated .lineState idle).htp.entry 0x20) (framePayload upFrame) = some (5, .idle)
    ∧ ((treated .lineState idle).line 5).access = .none
    ∧ ((treated .lineState (access .held)).line 5).access = .inAccess 0 ∧ (treated .lineState (access .held)).slotLive 0 = true :=
  ⟨quiets (by decide +kernel), by decide +kernel⟩

/-- Line 5, in this call state, has n hits in a window that stands, and a re-offer may be owed to it. -/
def hit (s : State) (was : CallState) (n : Nat) (reOffer : Bool) : State :=
  (treated .lineState s).updLine 5 fun r => { r with callState := was, hits := n, hitsStart := some 0, reOffer := reOffer }

/-- The same, and the code of the frame's state is LOCKOUT. -/
def hitLockout : State := (hit unserved .idle 3 false).setMapEntry (1, some .lockout)

/-- A change that is counted, one at the threshold, one with a re-offer owed, one refused, one from LOCKOUT and one to LOCKOUT. -/
theorem witness_LineStateFrameIsTaken_hits :
    (∀ s ∈ [hit unserved .inCall 3 false, hit unserved .inCall 11 false, hit unserved .inCall 3 true, hit idle .inCall 11 false,
        hit unserved .lockout 3 false, hitLockout], s.Quiet)
    ∧ (∀ st n owed, (hit unserved st n owed).noRetests) ∧ (hit idle .inCall 11 false).noRetests
    ∧ (∀ s ∈ [hit unserved .inCall 3 false, hit unserved .inCall 11 false, hit unserved .inCall 3 true, hit idle .inCall 11 false,
        hit unserved .lockout 3 false], s.htp.report (s.htp.entry 0x20) (framePayload upFrame) = some (5, .idle)
          ∧ (s.line 5).callState ≠ .idle ∧ (s.line 5).access = .none ∧ (s.line 5).hitsStart = some 0 ∧ ¬0 + s.core.oh.params.hitsWindow < s.now
          ∧ ∀ b ∈ slotNumbers, ¬((s.slot b).state = .free ∧ (s.testSet b).state = .ready))
    ∧ hitLockout.htp.report (hitLockout.htp.entry 0x20) (framePayload upFrame) = some (5, .lockout)
    ∧ (hitLockout.line 5).callState ≠ .lockout ∧ ((hit unserved .lockout 3 false).line 5).callState = .lockout
    ∧ (idle.line 5).hitsStart = none ∧ idle.core.oh.params.hitsThreshold = 11 + 1
    ∧ (∀ s ∈ [hit unserved .inCall 11 false, hit unserved .inCall 3 true],
        s.refusal (s.retestRequest 5 (s.routineProgramme 5) .hits none) = none)
    ∧ (hit idle .inCall 11 false).refusal ((hit idle .inCall 11 false).retestRequest 5 0 .hits none) ≠ none :=
  ⟨quiets (by decide +kernel), fun _ _ _ => noRetests_of rfl, noRetests_of rfl,
    by decide +kernel⟩

/-- Both receivers hold part of a frame. -/
def collecting : State := idle.updHtp fun h => { h with upReceiver := .receiving [1, 2], downReceiver := .receiving [3] }

theorem witness_MarkedOctetBeginsAFrame : (∀ s ∈ [idle, collecting], s.Quiet) ∧ idle.htp.upReceiver = .hunting
    ∧ idle.htp.downReceiver = .hunting ∧ collecting.htp.upReceiver = .receiving [1, 2] ∧ collecting.htp.downReceiver = .receiving [3]
    ∧ goodFrame [1, 2] = false ∧ goodFrame [3] = false := ⟨quiets (by decide +kernel), by decide +kernel⟩

/-- The OPERATE of slot 0, and the RELEASE_ALL of shelf 0, are being sent. -/
def operateSent : State :=
  ((access .seizing).updSlot 0 fun r => { r with order := .placed .operate none }).updHtp fun h =>
    { h with down := { sending := some (.inserted { octets := [1], owner := some (.slot 0) }) } }

def releaseAllSent : State :=
  (idle.updShelf 0 fun h => { h with order := .placed .releaseAll none }).updHtp fun h =>
    { h with down := { sending := some (.inserted { octets := [1], owner := some (.shelf 0) }) } }

theorem witness_ArbiterChoosesTheNextFrame : (∀ s ∈ [operateSent, releaseAllSent, idle], s.Quiet)
    ∧ (operateSent.outPort .down).sending = some (.inserted { octets := [1], owner := some (.slot 0) })
    ∧ operateSent.order (.slot 0) = .placed .operate none ∧ Table.wf {} operateSent.core.shelves = true
    ∧ (releaseAllSent.outPort .down).sending = some (.inserted { octets := [1], owner := some (.shelf 0) })
    ∧ releaseAllSent.order (.shelf 0) = .placed .releaseAll none ∧ Table.wf {} releaseAllSent.core.shelves = true
    ∧ (idle.outPort .down).sending = none :=
  ⟨quiets (by decide +kernel), by decide +kernel⟩

/-! ### LOAD and READ -/

/-- A PARAMETERS record of the defaults with this station and this report-routine octet. -/
def parameters (station report : Byte) : ParametersArg :=
  { station := station, hitsThreshold := 12, hitsWindow := 60, lockoutDelay := 15, lockoutProgramme := 31, defaultProgramme := 31,
    holdLimit := 20, routineQuota := 4, maximumRate := 1000, enabledKinds := 31, reportRoutine := report, trendShift := 2, degradeLevel := 0,
    confirmDelay := 20, groupThreshold := 6, groupWindow := 600 }

theorem witness_ParametersAreLoaded : (∀ s ∈ [serving], s.Takes) ∧ serving.csi.saving = none
    ∧ (∀ n ∈ [(0 : Byte), 65, 126], n = 0 ∨ (65 ≤ n.toNat ∧ n.toNat ≤ 126)) ∧ (parameters 65 1).lockoutProgramme.toNat ≤ 31
    ∧ (parameters 65 1).defaultProgramme.toNat ≤ 31 ∧ (parameters 65 1).reportRoutine.toNat ≤ 1 ∧ ¬(parameters 65 2).reportRoutine.toNat ≤ 1 :=
  ⟨takings (by decide +kernel), by decide⟩

/-- ROUTINE requests for four lines wait. -/
def routines : State :=
  [5, 6, 7, 8].foldl (fun s l =>
    (s.updAc fun a => { a with queue := a.queue ++ [{ desk with cls := .routine, line := l, token := none, position := none }] }).updLine l
      fun r => { r with access := .queued }) unserved

/-- Line 5 has stood in LOCKOUT for 12 s. -/
def lockedFor12 : State :=
  (unserved.updCore fun c => { c with timeMs := 12000 }).updLine 5 fun r => { r with callState := .lockout, lockoutStart := some 0 }

/-- Set 0 offers every kind and agrees none, and a request for DCV on line 6 waits. -/
def offering : State :=
  ((serving.updTestSet 0 fun t => { t with offeredKinds := some allKinds, agreedKinds := some {} }).updAc fun a =>
    { a with queue := [{ desk with line := 6, kinds := { dcv := true } }] }).updLine 6 fun r => { r with access := .queued, callState := .idle }

/-- The records: a quota of 2 and of 8, a lockout delay of 10 s, and DCV as the one kind enabled. -/
theorem witness_ParametersAreLoaded_changes : (∀ s ∈ [routines, lockedFor12, offering], s.Takes)
    ∧ (∀ s ∈ [routines, lockedFor12, offering], s.noRetests)
    ∧ (∀ s ∈ [routines, lockedFor12], ∀ b ∈ slotNumbers, ¬((s.slot b).state = .free ∧ (s.testSet b).state = .ready))
    ∧ routines.ac.queue.Nodup ∧ (∀ l, (routines.line l).lockoutStart = none)
    ∧ max 1 (min 8 ({ parameters 65 1 with routineQuota := 2 } : ParametersArg).routineQuota.toNat) < routines.core.oh.params.routineQuota
    ∧ routines.core.oh.params.routineQuota < max 1 (min 8 ({ parameters 65 1 with routineQuota := 8 } : ParametersArg).routineQuota.toNat)
    ∧ routines.core.oh.params.lockoutDelay = max 5 (min 120 (parameters 65 1).lockoutDelay.toNat)
    ∧ max 5 (min 120 ({ parameters 65 1 with lockoutDelay := 10 } : ParametersArg).lockoutDelay.toNat) = 10
    ∧ lockedFor12.core.oh.params.lockoutDelay ≠ 10 ∧ Table.wf {} lockedFor12.core.lines = true
    ∧ (∀ q ∈ lockedFor12.ac.queue, (lockedFor12.line q.line).access ≠ .none)
    ∧ (lockedFor12.line 5).lockoutStart = some 0 ∧ (lockedFor12.line 5).callState = .lockout ∧ 0 + 10 ≤ lockedFor12.now
    ∧ (lockedFor12.line 5).access = .none ∧ (lockedFor12.shelf (shelfOf 5)).state = .serving
    ∧ lockedFor12.ac.queue.length + (lockedFor12.core.lines.countP fun e => e.2.lockoutStart.isSome) ≤ 32
    ∧ offering.core.oh.params.enabledKinds ≠ kindsOfByte 1 ∧ (offering.testSet 0).offeredKinds = some allKinds
    ∧ (offering.testSet 0).agreedKinds ≠ some (allKinds.inter (kindsOfByte 1)) ∧ (offering.testSet 0).agreedRate = some .r1000
    ∧ (offering.testSet 0).state = .ready ∧ (offering.slot 0).state = .free
    ∧ offering.ac.queue = [{ desk with line := 6, kinds := { dcv := true } }]
    ∧ offering.grantable { desk with line := 6, kinds := { dcv := true } } = true
    ∧ (allKinds.inter (kindsOfByte 1)).contains { dcv := true } = true :=
  ⟨takings (by decide +kernel), fun s hs => noRetests_of (by revert s; decide +kernel), by decide +kernel, by decide +kernel,
    Table.get_all (d := ({} : LineRec)) (P := fun v => v.lockoutStart = none) rfl (by decide +kernel), by decide +kernel⟩

theorem witness_LinesAreLoaded : (∀ s ∈ [serving], s.Takes) ∧ serving.csi.saving = none ∧ 1 ≤ [LineArg.mk 127 1 0xFF].length
    ∧ (8191 : BitVec 16).toNat + [LineArg.mk 127 1 0xFF].length ≤ 8192
    ∧ ∀ r ∈ [LineArg.mk 127 1 0xFF], r.group.toNat ≤ 127 ∧ r.routineEnabled.toNat ≤ 1 ∧ (r.programme.toNat ≤ 31 ∨ r.programme = 0xFF) :=
  ⟨takings (by decide +kernel), by decide⟩

theorem witness_ShelfIsProbedOrRetired : (∀ s ∈ [serving], s.Takes) ∧ serving.csi.saving = none ∧ (serving.shelf 63).fitted = false
    ∧ (serving.shelf 0).fitted = true ∧ Table.wf {} serving.core.shelves = true
    ∧ (63 : Byte).toNat ≤ 63 ∧ decide ((1 : Byte) = 1) = (serving.shelf 0).fitted := ⟨takings (by decide +kernel), by decide +kernel⟩

/-- A DESK request for line 6 waits, slot 0 is HELD or SEIZING with no run, and an order for its line is held. -/
def retiring (st : SlotState) : State :=
  ((((access st).updAc fun a => { a with queue := [{ desk with line := 6, token := some 2 }] }).updLine 6
    fun r => { r with access := .queued }).updCg fun g => { g with held := [{ frame := downFrame, line := 5, seize := true }] })

/-- Slot 0 is FAULTED, and the shelf and the bus have tickets that stand. -/
def retiringFaulted : State :=
  ((ticketed (access .faulted) [shelfTicket, { shelfTicket with number := 3, kind := .bus, cls := .fault .accessRelay }]).updShelf 0
    fun h => { h with ticket := some 2 }).updOh fun o => { o with count3 := 2, current := { busFaulted := true } }

theorem witness_ShelfIsProbedOrRetired_retired :
    (∀ s ∈ [retiring .held, retiring .seizing, retiringFaulted, atWork], s.Takes)
    ∧ ((retiring .held).Sound ∧ (retiring .seizing).Sound ∧ retiringFaulted.Sound ∧ atWork.Sound)
    ∧ (retiring .held).noRetests ∧ retiringFaulted.noRetests
    ∧ (∀ s ∈ [retiring .held, retiring .seizing, retiringFaulted, atWork], s.csi.saving = none ∧ (s.shelf 0).fitted = true
        ∧ (s.slot 0).state ≠ .free ∧ (s.slot 0).line.map shelfOf = some 0 ∧ (s.slot 0).ended = false ∧ s.ms.results.length ≤ 28)
    ∧ (∀ s ∈ [retiring .held, retiring .seizing], (∀ q ∈ s.ac.queue, shelfOf q.line = 0) ∧ s.run 0 = none
        ∧ { desk with line := 6, token := some 2 } ∈ s.ac.queue ∧ (s.slot 0).request = some desk
        ∧ { frame := downFrame, line := 5, seize := true } ∈ s.cg.held ∧ (s.slot 0).line = some 5)
    ∧ (atWork.run 0).isSome = true ∧ retiringFaulted.ac.queue = [] ∧ (∀ b ∈ slotNumbers, (retiringFaulted.slot b).state = .free ∨
        (retiringFaulted.slot b).state = .faulted)
    ∧ (retiringFaulted.shelf 0).ticket = some 2 ∧ retiringFaulted.core.ticket 2 = some shelfTicket ∧ shelfTicket.parent = none
    ∧ shelfTicket.state.standing = true ∧ retiringFaulted.core.tc.tickets.find? (fun u => decide (u.kind = .bus ∧ u.subject = 0))
        = some { shelfTicket with number := 3, kind := .bus, cls := .fault .accessRelay } :=
  ⟨takings (by decide +kernel), ⟨sound_of (by decide +kernel), sound_of (by decide +kernel), sound_of (by decide +kernel), atWork_sound⟩,
    noRetests_of (by decide), noRetests_of (by decide), by decide +kernel⟩

theorem witness_TreatmentsStatesAndRangesAreLoaded : (∀ s ∈ [idle], s.Takes) ∧ idle.csi.saving = none
    ∧ (∀ r ∈ [TreatmentArg.mk 0x20 4 118 119, ⟨0x20, 1, 0, 2⟩],
        r.treatment.toNat ≤ 4 ∧ r.lineOffset.toNat ≤ 118 ∧ r.stateOffset.toNat ≤ 119)
    ∧ (∀ r ∈ [StatemapArg.mk 15 15, ⟨0, 1⟩, ⟨1, 5⟩],
        r.index.toNat ≤ 15 ∧ ((1 ≤ r.callState.toNat ∧ r.callState.toNat ≤ 5) ∨ r.callState.toNat = 15))
    ∧ ∀ r ∈ [SweepRangeArg.mk 15 8191 8191 1, ⟨0, 0, 8191, 0⟩],
        r.range.toNat ≤ 15 ∧ r.first.toNat ≤ r.last.toNat ∧ r.last.toNat ≤ 8191 ∧ r.enabled.toNat ≤ 1 :=
  ⟨takings (by decide +kernel), by decide⟩

/-- A STEP record that names a kind, and one that empties its entry. -/
def stepRecord (kind : Byte) : StepArg :=
  { step := 9, kind := kind, leadPair := 2, level := 0x80000000, slope := 0, settle := 2001, sampleCount := 0, limitSet := 0xFF,
    faultClass := 8, onFail := 1 }

theorem witness_MeasurementTablesAreLoaded : (∀ s ∈ [running], s.Takes) ∧ running.csi.saving = none ∧ running.stepInUse 9 = false
    ∧ (stepRecord 4).kind.toNat ≤ 4 ∧ (stepRecord 0xFF).kind = 0xFF ∧ running.ms.stepNamed 9 = false
    ∧ 5 ∉ running.programmesInUse
    ∧ (∀ k, k < min 12 2 → 0 + k ≤ 255 ∧ (running.ms.step (0 + k)).isSome = true)
    ∧ min 999999999 (1000 : BitVec 32).toNat ≤ min 999999999 (0xFFFFFFFE : BitVec 32).toNat := ⟨takings (by decide +kernel), by decide +kernel⟩

/-- The record at the front is refused. -/
theorem refusedAt_front {α β : Type} {judge : α → Judged β} {r : α} {rs : List α} {a : Answer} (h : judge r = .error a) :
    refusedAt judge (r :: rs) 0 a := ⟨⟨r, rfl, h⟩, fun _ h => nomatch h⟩

theorem witness_LoadIsAllOrNothing : (∀ s ∈ [running, saved 5], s.Takes) ∧ running.csi.saving = none ∧ (saved 5).csi.saving.isSome = true
    ∧ refusedAt judgeNumberedLine (numberedLines 8191 [⟨0, 0, 0⟩, ⟨0, 0, 0⟩]) 1 .badArg
    ∧ judgeShelf ⟨64, 1⟩ = .error .badArg ∧ judgeTreatment ⟨1, 5, 0, 0⟩ = .error .badArg ∧ judgeStatemap ⟨0, 6⟩ = .error .badArg
    ∧ running.judgeProgramme ⟨0, 0, 1⟩ = .error .inUse ∧ running.judgeStep { stepRecord 0 with step := 1 } = .error .inUse
    ∧ judgeLimit ⟨0, 3, 0, 0, 0⟩ = .error .badArg ∧ judgeSweepRange ⟨0, 2, 1, 1⟩ = .error .badArg
    ∧ running.stepInUse 1 = true ∧ 0 ∈ running.programmesInUse := by
  refine ⟨takings (by decide +kernel), rfl, rfl, ⟨⟨_, rfl, by decide +kernel⟩, fun m h r hr => ?_⟩, by decide +kernel⟩
  obtain rfl : m = 0 := by omega
  cases hr
  exact ⟨_, rfl⟩

/-- Every table that READ reads has a record at the greatest of its indices. -/
theorem witness_ReadTellsTheRecords : (∀ s ∈ [atWork], s.Takes) ∧ atWork.core.ticket 1 = some { openTicket with noticePending := true }
    ∧ atWork.ms.programme 0 = some { first := 0, count := 2 } ∧ atWork.ms.programme 31 = none ∧ atWork.ms.step 1 = some dcvStep
    ∧ atWork.ms.step 255 = none ∧ (atWork.slot 0).request = some desk
    ∧ (ReadTable.slot, 3) ∈ [(ReadTable.line, 8191), (.slot, 3)] := ⟨takings (by decide +kernel), by decide +kernel⟩

/-! ### The desk's orders -/

/-- TEST of line 6 by desk position 2, KEEP, on the default limits. -/
def testOf6 (s : State) : Request := s.deskRequest 2 6 0xFF 2 0 0 (s.freeToken 255 s.core.oh.tokenCounter)

theorem witness_TestIsQueued : (∀ s ∈ [access .held], s.Takes) ∧ (access .held).testArgsOk 2 6 0xFF 2 = true
    ∧ (access .held).refusal (testOf6 (access .held)) = none
    ∧ ∀ b ∈ slotNumbers, ¬(((access .held).slot b).state = .free ∧ ((access .held).testSet b).state = .ready) :=
  ⟨takings (by decide +kernel), by decide +kernel⟩

/-- The arguments that a TEST is refused for, each at a boundary value, and a refusal of the AC. -/
theorem witness_TestIsQueued_refused : (∀ s ∈ [serving, idle], s.Takes)
    ∧ serving.testArgsOk 8 6 0xFF 2 = false ∧ serving.testArgsOk 2 8192 0xFF 2 = false ∧ serving.testArgsOk 2 6 32 2 = false
    ∧ serving.testArgsOk 2 6 31 2 = false ∧ serving.testArgsOk 2 6 0xFF 0 = false ∧ (loaded serving).testArgsOk 7 8191 0 0 = true
    ∧ idle.testArgsOk 2 6 0xFF 2 = true ∧ idle.refusal (testOf6 idle) = some .shelfSilent := ⟨takings (by decide +kernel), by decide +kernel⟩

theorem witness_TestIsGranted : (∀ s ∈ [serving], s.Takes) ∧ serving.testArgsOk 2 6 0xFF 2 = true ∧ serving.refusal (testOf6 serving) = none
    ∧ serving.ac.queue = [] ∧ serving.grantable (testOf6 serving) = true
    ∧ slotNumbers.find? (fun k => serving.fitting (testOf6 serving) k) = some 0 := ⟨takings (by decide +kernel), by decide +kernel⟩

theorem witness_OfferedRequestIsJudgedInOrder : serving.refusal (testOf6 serving) = none ∧ idle.refusal (testOf6 idle) = some .shelfSilent := by
  decide +kernel

theorem witness_RunIsJudgedAndTaken : (∀ s ∈ [loaded (access .held), running], s.Takes) ∧ idle.tokenLive 1 = false
    ∧ (loaded (access .held)).tokenLive 1 = true ∧ 31 < (32 : Byte).toNat ∧ (loaded (access .held)).ms.programme 31 = none
    ∧ running.judgeRun 1 0 = .ok 0 ∧ (running.run 0).isSome = true
    ∧ (loaded (access .held)).judgeRun 1 0 = .ok 0 ∧ (loaded (access .held)).run 0 = none
    ∧ (loaded (access .held)).ms.programme 0 = some { first := 0, count := 2 } ∧ (loaded (access .held)).ms.step 0 = some dcvStep
    ∧ (loaded (access .held)).stepVoid 0 dcvStep = false ∧ ((loaded (access .held)).slot 0).request = some desk :=
  ⟨takings (by decide +kernel), by decide +kernel⟩

/-- A set that agrees nothing, and a pending-run slot that is full. -/
def unable : State := (loaded (access .held)).updTestSet 0 fun t => { t with agreedKinds := some {} }
def fullUp : State := running.setPendingRun 0 (some 0)

/-- The tests of RUN: a request that waits, a slot that seizes, a set that agrees nothing, a pending-run slot that is full. -/
theorem witness_RunIsJudgedAndTaken_tests :
    (loaded queued).tokenLive 1 = true ∧ (loaded queued).deskSlot 1 = none ∧ (loaded queued).ms.programme 0 ≠ none
      ∧ (loaded (access .seizing)).deskSlot 1 = some 0 ∧ ((loaded (access .seizing)).slot 0).state ≠ .held
      ∧ unable.deskSlot 1 = some 0 ∧ (unable.slot 0).state = .held ∧ (unable.testSet 0).agreedKinds = some {}
      ∧ ({} : KindSet).contains (unable.ms.requiredKinds (some 0)) = false
      ∧ fullUp.deskSlot 1 = some 0 ∧ (fullUp.slot 0).state = .held ∧ (fullUp.testSet 0).state = .ready
      ∧ (fullUp.testSet 0).agreedKinds = some allKinds ∧ allKinds.contains (fullUp.ms.requiredKinds (some 0)) = true
      ∧ (fullUp.run 0).isSome = true ∧ (fullUp.pendingRun 0).isSome = true ∧ running.pendingRun 0 = none := by decide +kernel

/-- A CAP step that fails the range pre-check. -/
def voidStep : Step := { dcvStep with kind := .cap, level := 150000, slope := 100 }

/-- Programme 0 with no step that can be run, with its second step alone, and empty. -/
def voidAll (s : State) : State := ((loaded s).setStep (0, some voidStep)).setStep (1, some voidStep)
def voidFirst (s : State) : State := (loaded s).setStep (0, some voidStep)
def empty (s : State) : State := (loaded s).setProgramme (0, some { first := 0, count := 0 })

/-- A run whose steps cannot be run, one whose second can, and an empty one. -/
theorem witness_RunIsJudgedAndTaken_ends :
    (∀ s ∈ [voidAll (access .held), voidFirst (access .held), empty (access .held)], s.Takes)
    ∧ (voidAll (access .held)).stepsVoid 0 { first := 0, count := 2 } 0 3 ∧ (voidFirst (access .held)).stepsVoid 0 { first := 0, count := 2 } 0 2
    ∧ (empty (access .held)).stepsVoid 0 { first := 0, count := 0 } 0 1
    ∧ (∀ s ∈ [voidAll (access .held), voidFirst (access .held), empty (access .held)], s.judgeRun 1 0 = .ok 0 ∧ s.run 0 = none
        ∧ s.pendingRun 0 = none ∧ (s.slot 0).request = some desk ∧ (s.testSet 0).state = .ready)
    ∧ (∀ s ∈ [voidAll (access .held), voidFirst (access .held)], s.ms.programme 0 = some { first := 0, count := 2 })
    ∧ (empty (access .held)).ms.programme 0 = some { first := 0, count := 0 }
    ∧ (voidFirst (access .held)).ms.stepOf { first := 0, count := 2 } 2 = some dcvStep
    ∧ (voidFirst (access .held)).stepVoid 0 dcvStep = false :=
  ⟨takings (by decide +kernel), stepsVoid_of (by decide +kernel), stepsVoid_of (by decide +kernel), stepsVoid_of (by decide +kernel),
    by decide +kernel⟩

theorem witness_ReleaseAndCancelEndTheAccess : (∀ s ∈ [access .held, queued, idle], s.Takes) ∧ (access .held).deskSlot 1 = some 0
    ∧ ((access .held).slot 0).state = .held
    ∧ queued.deskSlot 1 = none ∧ queued.deskQueued 1 = some desk ∧ queued.core.tc.tickets = []
    ∧ (queued.line desk.line).lockoutStart = none ∧ queued.ms.results.length < 64 ∧ idle.tokenLive 1 = false :=
  ⟨takings (by decide +kernel), by decide +kernel⟩

theorem witness_CancelStepSkipsTheStep : (∀ s ∈ [running, queued, access .held, idle], s.Takes) ∧ running.deskSlot 1 = some 0
    ∧ (running.slot 0).state = .held
    ∧ running.stepUnderWay 0 = some ({ programme := 0, phase := .acquire }, { first := 0, count := 2 }, dcvStep)
    ∧ running.ms.stepOf { first := 0, count := 2 } 2 = some dcvStep ∧ running.stepVoid 0 dcvStep = false
    ∧ queued.tokenLive 1 = true ∧ queued.deskSlot 1 = none ∧ (access .held).run 0 = none ∧ idle.tokenLive 1 = false :=
  ⟨takings (by decide +kernel), by decide +kernel⟩

/-- The access runs the last step, with nothing pending, with programme 0 pending, and with an empty programme 1 pending. -/
def runningLast : State := running.setRun 0 (some { programme := 0, step := 2, phase := .acquire })
def runningLastThen (q : Nat) : State := (runningLast.setProgramme (1, some { first := 0, count := 0 })).setPendingRun 0 (some q)

theorem witness_CancelStepSkipsTheStep_last :
    (∀ s ∈ [runningLast, runningLastThen 0, runningLastThen 1], s.Takes)
    ∧ (∀ s ∈ [runningLast, runningLastThen 0, runningLastThen 1], s.deskSlot 1 = some 0 ∧ (s.slot 0).state = .held
        ∧ s.stepUnderWay 0 = some ({ programme := 0, step := 2, phase := .acquire }, { first := 0, count := 2 }, dcvStep)
        ∧ (s.slot 0).request = some desk ∧ (s.testSet 0).state = .ready)
    ∧ runningLast.stepsVoid 0 { first := 0, count := 2 } 2 3 ∧ runningLast.pendingRun 0 = none
    ∧ (runningLastThen 0).pendingRun 0 = some 0 ∧ (runningLastThen 0).ms.programme 0 = some { first := 0, count := 2 }
    ∧ (runningLastThen 0).stepsVoid 0 { first := 0, count := 2 } 0 1 ∧ (runningLastThen 0).ms.stepOf { first := 0, count := 2 } 1 = some dcvStep
    ∧ (runningLastThen 0).stepVoid 0 dcvStep = false ∧ (runningLastThen 1).pendingRun 0 = some 1
    ∧ (runningLastThen 1).ms.programme 1 = some { first := 0, count := 0 } ∧ (runningLastThen 1).stepsVoid 0 { first := 0, count := 0 } 0 1 :=
  ⟨takings (by decide +kernel), by decide +kernel, stepsVoid_of (by decide +kernel), rfl, rfl, by decide +kernel,
    stepsVoid_of (by decide +kernel), by decide +kernel, by decide +kernel, rfl, by decide +kernel, stepsVoid_of (by decide +kernel)⟩

/-- A ticket of every kind that ACK tells apart. -/
def tickets : List Ticket :=
  [openTicket, { openTicket with parent := some 2 }, { openTicket with state := .provisional },
    { openTicket with state := .acknowledged }, { openTicket with state := .verifying }, { openTicket with state := .closing }]

theorem witness_TicketIsAcknowledged : (∀ s ∈ idle :: tickets.map (fun t => ticketed idle [t]), s.Takes) ∧ idle.core.ticket 1 = none
    ∧ ∀ t ∈ tickets, (ticketed idle [t]).core.ticket 1 = some t := ⟨takings (by decide +kernel), by decide +kernel⟩

theorem witness_ClearSendsToVerification :
    let s := ticketed unserved [openTicket]
    let h := ticketed silentShelf [shelfTicket]
    (∀ x ∈ [s, h, ticketed unserved [{ openTicket with parent := some 2 }]], x.Takes)
      ∧ s.core.ticket 1 = some openTicket ∧ openTicket.parent = none ∧ openTicket.state.standing = true
      ∧ s.refusal (s.retestRequest 5 (s.routineProgramme 5) .verify (some 1)) = none
      ∧ (∀ b ∈ slotNumbers, ¬((s.slot b).state = .free ∧ (s.testSet b).state = .ready)) ∧ s.core.ticket 2 = none
      ∧ h.core.ticket 2 = some shelfTicket ∧ shelfTicket.parent = none ∧ shelfTicket.state.standing = true
      ∧ shelfTicket.subject < 64 ∧ (h.shelf 0).order = .idle ∧ (h.shelf 0).state = .silent :=
  ⟨takings (by decide +kernel), by decide +kernel⟩

def degradingTicket : Ticket := { openTicket with cls := .fault .degrading, severity := 1 }

def busTicket : Ticket := { shelfTicket with number := 1, kind := .bus, cls := .fault .accessRelay }

def setTicket : Ticket := { shelfTicket with number := 1, kind := .testSet, cls := .fault .testSetSilent }

/-- The bus of slot 0 is FAULTED, its shelf in this state, and its ticket stands. -/
def busIn (st : ShelfState) : State :=
  ((ticketed (access .faulted) [busTicket]).updShelf 0 fun h => { h with state := st }).updOh fun o =>
    { o with current := { busFaulted := true, shelfSilent := decide (st = .silent) } }

/-- Set 0 is in this state, and its ticket stands. -/
def setTicketed (st : SetState) (attempt : Nat) : State :=
  ((ticketed idle [setTicket]).updTestSet 0 fun t => { t with state := st, attempt := attempt }).updOh fun o =>
    { o with current := { testSetSilent := decide (st = .silent) } }

/-- A GROUP ticket with two children, of lines 5 and 6, and a ticket that stands alone. -/
def groupTicket : Ticket := { openTicket with kind := .group, subject := 3, cls := .family .wet, childCount := 2 }
def childOf (n l : Nat) : Ticket := { openTicket with number := n, subject := l, parent := some 1 }
def grouped : State := ticketed unserved [groupTicket, childOf 2 5, childOf 3 6, { openTicket with number := 4, subject := 7 }]

/-- CLEAR on a DEGRADING, a BUS, a TEST_SET and a GROUP ticket. -/
theorem witness_ClearSendsToVerification_kinds :
    (∀ s ∈ [ticketed unserved [degradingTicket], busIn .serving, busIn .silent, busIn .probing, setTicketed .silent 0, setTicketed .silent 1,
        setTicketed .absent 0, setTicketed .probing 1, grouped], s.Takes)
    ∧ (∀ s ∈ [ticketed unserved [degradingTicket], grouped],
        ∀ b ∈ slotNumbers, ¬((s.slot b).state = .free ∧ (s.testSet b).state = .ready))
    ∧ (ticketed unserved [degradingTicket]).core.ticket 1 = some degradingTicket
    ∧ (ticketed unserved [degradingTicket]).refusal ((ticketed unserved [degradingTicket]).retestRequest 5 0 .verify (some 1)) = none
    ∧ (∀ st ∈ [ShelfState.serving, .silent, .probing], (busIn st).core.ticket 1 = some busTicket ∧ ((busIn st).slot 0).state = .faulted
        ∧ ((busIn st).slot 0).line = some 5 ∧ ((busIn st).shelf (shelfOf 5)).state = st ∧ ((busIn st).slot 0).order = .idle
        ∧ ((busIn st).shelf (shelfOf 5)).order = .idle)
    ∧ (∀ st ∈ [SetState.silent, .absent, .probing], ∀ n ∈ [0, 1], (setTicketed st n).core.ticket 1 = some setTicket
        ∧ ((setTicketed st n).testSet 0).state = st ∧ ((setTicketed st n).testSet 0).attempt = n)
    ∧ (∀ t ∈ [degradingTicket, busTicket, setTicket, groupTicket], t.parent = none ∧ t.state.standing = true ∧ t.subject ≤ 5)
    ∧ grouped.core.ticket 1 = some groupTicket ∧ (grouped.core.tc.tickets.map (·.number)).Nodup
    ∧ grouped.core.tc.tickets.filter (fun k => decide (k.parent = some 1) && k.state.standing) = [childOf 2 5, childOf 3 6]
    ∧ (∀ k ∈ [childOf 2 5, childOf 3 6], k.kind = .line ∧ (grouped.line k.subject).access = .none
        ∧ (grouped.shelf (shelfOf k.subject)).state = .serving) ∧ grouped.ac.queue = [] :=
  ⟨takings (by decide +kernel), by decide +kernel⟩

theorem witness_SweepOrdersAreTaken : ∀ s ∈ [idle], s.Takes := takings (by decide +kernel)
theorem witness_SummaryTellsAndRelatches : ∀ s ∈ [serving], s.Takes := takings (by decide +kernel)

/-- Set 3 in this state. -/
def setIn (st : SetState) : State := idle.updTestSet 3 fun t => { t with state := st }

theorem witness_TestSetsAreEnabledAndDisabled : (∀ s ∈ [access .held, silentSet 0 none, setIn .disabled, setIn .absent], s.Takes)
    ∧ ((access .held).testSet 0).state = .ready ∧ ((access .held).testSet 3).state = .probing ∧ ((access .held).slot 0).state = .held
    ∧ ((silentSet 0 none).testSet 0).state = .silent ∧ ((setIn .disabled).testSet 3).state = .disabled
    ∧ ((setIn .absent).testSet 3).state = .absent := ⟨takings (by decide +kernel), by decide +kernel⟩

theorem witness_RestartClearsTheWork : (∀ s ∈ [atWork], s.Takes) ∧ atWork.Sound ∧ atWork.noRetests
    ∧ (atWork.shelf 0).fitted = true ∧ ((access .faulted).slot 0).state = .faulted ∧ (atWork.testSet 0).state = .ready
    ∧ (atWork.testSet 1).state ≠ .ready ∧ (atWork.slot 0).state = .held ∧ (atWork.slot 0).line = some 5 ∧ atWork.ac.queue ≠ [] :=
  ⟨takings (by decide +kernel), atWork_sound, noRetests_of (by decide), by decide +kernel⟩

/-! ### Placings -/

/-- The UP queue holds n frames. -/
def crowded (n : Nat) (s : State) : State := s.updHtp fun h => { h with up := { insertion := List.replicate n { octets := [1] } } }

def answerWaits (n : Nat) : State := crowded n (idle.updOh fun o => { o with waiting := [.saveAnswer 7 .accepted] })
def attentionWaits (n : Nat) : State := crowded n (idle.updOh fun o => { o with waiting := [.attention] })

/-- A RESULT of no steps. -/
def someResult : Result :=
  { token := 1, position := 0, line := 5, bus := none, cls := .desk, programme := none, outcome := .cancelled, fault := none, steps := [] }

def resultWaits (n : Nat) : State := crowded n (idle.updMs fun m => { m with results := [someResult] })

def notice : GuardNotice := { refusedKind := 0x20, seize := true, line := 5, reason := .deskTest }

def noticeWaits (n : Nat) : State := crowded n (idle.updCg fun g => { g with waiting := [notice] })

theorem witness_WaitingFramesArePlaced :
    (∀ s ∈ [13, 14].flatMap (fun n => [answerWaits n, attentionWaits n, resultWaits n]) ++ [noticeWaits 15, noticeWaits 16], s.Quiet)
    ∧ (∀ n ∈ [13, 14], (answerWaits n).core.oh.waiting = .saveAnswer 7 .accepted :: []
      ∧ (attentionWaits n).core.oh.waiting = .attention :: [] ∧ (resultWaits n).ms.results = someResult :: [])
    ∧ ∀ n ∈ [15, 16], (noticeWaits n).cg.waiting = notice :: [] := ⟨quiets (by decide +kernel), by decide +kernel⟩

/-- The notice of this ticket waits. -/
def noticed (t : Ticket) : State := idle.updCore fun c => { c with tc := { c.tc with tickets := [t], notices := [1] } }

theorem witness_TicketNoticeIsPlaced : (∀ s ∈ tickets.map noticed, s.Quiet)
    ∧ ∀ t ∈ tickets, (noticed t).core.tc.notices = 1 :: [] ∧ (noticed t).core.ticket 1 = some t
      ∧ (noticed t).htp.up.insertion.length < 14 := ⟨quiets (by decide +kernel), by decide +kernel⟩

/-- The notice of a CLOSING ticket of this kind on subject 0 waits, and the line, the shelf and the set numbered 0 name it. -/
def closing (kind : TicketKind) : State :=
  (((noticed { openTicket with kind := kind, subject := 0, state := .closing }).updLine 0 fun r => { r with ticket := some 1 }).updShelf 0
    fun h => { h with ticket := some 1 }).updTestSet 0 fun t => { t with ticket := some 1 }

theorem witness_TicketNoticeIsPlaced_closing : (∀ s ∈ [TicketKind.line, .shelf, .testSet].map closing, s.Quiet)
    ∧ ∀ k ∈ [TicketKind.line, .shelf, .testSet], (closing k).core.tc.notices = 1 :: []
      ∧ (closing k).core.ticket 1 = some { openTicket with kind := k, subject := 0, state := .closing }
      ∧ ((closing k).line 0).ticket = some 1 ∧ ((closing k).shelf 0).ticket = some 1 ∧ ((closing k).testSet 0).ticket = some 1 :=
  ⟨quiets (by decide +kernel), by decide +kernel⟩

/-- The OPERATE of slot 0 waits for a place, with n frames in the DOWN queue. -/
def operateWaits (n : Nat) : State :=
  ((access .seizing).updSlot 0 fun r => { r with order := .waiting .operate }).updHtp fun h =>
    { h with down := { insertion := List.replicate n { octets := [1] } } }

theorem witness_AccessOrdersAreMade : (∀ s ∈ [operateWaits 15, operateWaits 16, silentShelf], s.Quiet)
    ∧ (∀ n ∈ [15, 16], (operateWaits n).order (.slot 0) = .waiting .operate ∧ (operateWaits n).htp.down.insertion.length = n)
    ∧ ((access .held).slot 0).line = some 5 ∧ (silentShelf.shelf 0).state = .silent
    ∧ (silentShelf.shelf 0).probeDue = some 0 ∧ 0 ≤ silentShelf.core.timeMs := ⟨quiets (by decide +kernel), by decide +kernel⟩

/-! ### Test access -/

/-- The order of slot 0 in this state is outstanding, at this attempt. -/
def ordered (st : SlotState) (op : AccessOp) (attempt : Nat) : State :=
  (access st).updSlot 0 fun r => { r with attempt := attempt, order := .placed op (some 0) }

/-- The RELEASE_ALL of shelf 0 in this state is outstanding, at this failure count. -/
def probed (s : State) (st : ShelfState) (failures : Nat) : State :=
  s.updShelf 0 fun h => { h with fitted := true, state := st, failures := failures, order := .placed .releaseAll (some 0) }

/-- An order whose timer has run out fails with the timeout, and with CONTACT_FAULT. -/
theorem fails_timeout {s : State} {o : AccessOwner} {op : AccessOp} {due : Nat} (shelf bus : Nat) (h : s.order o = .placed op (some due))
    (hd : due ≤ s.core.timeMs) : s.fails o op shelf bus (.confirmTimeout o) := .inl ⟨rfl, due, h, hd⟩

theorem fails_contact {s : State} {o : AccessOwner} {op : AccessOp} {due : Option Nat} (shelf bus : Nat) (hs : s.Hears)
    (h : s.order o = .placed op due) : s.fails o op shelf bus (.frameEnd .down (s.confirmFrame shelf op bus true) none) :=
  .inr ⟨rfl, hs, due, h⟩

/-- A failed RELEASE, at the second and the third attempt. -/
theorem witness_FailedReleaseIsRepeated : (∀ n ∈ [2, 3], (ordered .releasing .release n).Hears
      ∧ (ordered .releasing .release n).fails (.slot 0) .release (shelfOf 5) 0 (.confirmTimeout (.slot 0))
      ∧ (ordered .releasing .release n).fails (.slot 0) .release (shelfOf 5) 0
          (.frameEnd .down ((ordered .releasing .release n).confirmFrame (shelfOf 5) .release 0 true) none))
    ∧ ∀ n ∈ [2, 3], ((ordered .releasing .release n).slot 0).state = .releasing
      ∧ ((ordered .releasing .release n).slot 0).line = some 5 ∧ ((ordered .releasing .release n).slot 0).attempt = n
      ∧ ((ordered .releasing .release n).shelf (shelfOf 5)).failures ≤ 1 :=
  ⟨fun n hn => by
      have hq := hearings (l := [2, 3].map (ordered .releasing .release)) (by decide +kernel) _ (List.mem_map_of_mem hn)
      have ho : ∀ n ∈ [2, 3], (ordered .releasing .release n).order (.slot 0) = .placed .release (some 0) := by decide +kernel
      exact ⟨hq, fails_timeout _ _ (ho n hn) (Nat.zero_le _), fails_contact _ _ hq (ho n hn)⟩, by decide +kernel⟩

/-- A RELEASE with DONE, with nothing to offer. -/
theorem witness_FailedReleaseIsRepeated_done : (∀ s ∈ [ordered .releasing .release 1], s.Hears)
    ∧ (ordered .releasing .release 1).LineRests 5 ∧ (ordered .releasing .release 1).noRetests
    ∧ ((ordered .releasing .release 1).slot 0).request = some desk ∧ desk.line < 8192
    ∧ ((ordered .releasing .release 1).slot 0).order = .placed .release (some 0) ∧ (ordered .releasing .release 1).ac.queue = [] :=
  ⟨hearings (by decide +kernel), rests_of (by decide +kernel), noRetests_of (by decide), by decide +kernel⟩

/-- A failed OPERATE, of a slot marked and of one unmarked. -/
theorem witness_FailedReleaseIsRepeated_operate :
    let s := ordered .seizing .operate 1
    let marked := s.updSlot 0 fun r => { r with mark := some .deskRelease }
    (∀ x ∈ [s, marked], x.Quiet) ∧ s.fails (.slot 0) .operate (shelfOf 5) 0 (.confirmTimeout (.slot 0))
      ∧ (s.slot 0).state = .seizing ∧ (s.slot 0).request = some desk ∧ (s.shelf (shelfOf 5)).failures ≤ 1 ∧ (s.slot 0).mark = none
      ∧ (s.slot 0).ended = false ∧ desk.cls = .desk ∧ s.ms.results.length < 64 ∧ (marked.slot 0).mark.isSome = true :=
  ⟨quiets (by decide +kernel), fails_timeout _ _ (by decide +kernel) (Nat.zero_le _), by decide +kernel⟩

/-- A RELEASE_ALL that fails: a shelf that probes, at its second and third failure, and a SILENT one. -/
theorem witness_FailedReleaseIsRepeated_probe :
    (∀ s ∈ [probed idle .probing 1, probed idle .probing 2, probed silentShelf .silent 3], s.Hears
      ∧ s.fails (.shelf 0) .releaseAll 0 0 (.confirmTimeout (.shelf 0)))
    ∧ (∀ n ∈ [1, 2], ((probed idle .probing n).shelf 0).state = .probing ∧ ((probed idle .probing n).shelf 0).failures = n
      ∧ ((probed idle .probing n).shelf 0).ticket = none ∧ (probed idle .probing n).core.tc.tickets.length < 256
      ∧ (probed idle .probing n).ac.queue = [] ∧ ∀ b ∈ slotNumbers, ((probed idle .probing n).slot b).line.map shelfOf ≠ some 0)
    ∧ ((probed silentShelf .silent 3).shelf 0).state = .silent :=
  ⟨fun s hs => by
      have hq := hearings (l := [probed idle .probing 1, probed idle .probing 2, probed silentShelf .silent 3]) (by decide +kernel) s hs
      have ho : ∀ s ∈ [probed idle .probing 1, probed idle .probing 2, probed silentShelf .silent 3],
          s.order (.shelf 0) = .placed .releaseAll (some 0) := by decide +kernel
      exact ⟨hq, fails_timeout _ _ (ho s hs) (Nat.zero_le _)⟩, by decide +kernel⟩

/-- Shelf 0, with slot 0 FAULTED and a ticket standing, has its RELEASE_ALL outstanding. -/
def recovering : State :=
  probed (((ticketed (access .faulted) [shelfTicket]).updShelf 0 fun h => { h with ticket := some 2 }).updOh fun o =>
    { o with count3 := 1, current := { busFaulted := true } }) .probing 0

/-- Shelf 0 of the part at work probes at its third failure. -/
def failingShelf : State := probed atWork .probing 2

/-- A RELEASE_ALL with DONE, and the third failure of one. -/
theorem witness_FailedReleaseIsRepeated_shelf :
    (∀ s ∈ [recovering, failingShelf], s.Hears) ∧ recovering.Sound ∧ failingShelf.Sound ∧ recovering.noRetests
    ∧ (∀ b ∈ slotNumbers, ∀ l, (recovering.slot b).state = .faulted → (recovering.slot b).line = some l → recovering.LineRests l)
    ∧ recovering.order (.shelf 0) = .placed .releaseAll (some 0) ∧ recovering.ac.queue = [] ∧ (recovering.slot 0).state = .faulted
    ∧ (recovering.slot 0).line = some 5 ∧ (recovering.shelf 0).ticket = some 2 ∧ recovering.core.ticket 2 = some shelfTicket
    ∧ failingShelf.order (.shelf 0) = .placed .releaseAll (some 0) ∧ (failingShelf.shelf 0).failures = 2
    ∧ (failingShelf.slot 0).state = .held ∧ (failingShelf.slot 0).line.map shelfOf = some 0 :=
  ⟨hearings (by decide +kernel), sound_of (by decide +kernel), sound_of (by decide +kernel), noRetests_of (by decide),
    fun b hb l hf hl => by
      have h5 : ∀ b ∈ slotNumbers, (recovering.slot b).state = .faulted → (recovering.slot b).line = some 5 := by decide +kernel
      obtain rfl := Option.some.inj ((h5 b hb hf).symm.trans hl)
      exact rests_of (by decide +kernel), by decide +kernel⟩

/-- Slot 0's order is outstanding at this attempt, and the SERVING shelf has failed twice. -/
def failedTwice (st : SlotState) (op : AccessOp) (attempt : Nat) : State :=
  (ordered st op attempt).updShelf 0 fun h => { h with failures := 2 }

/-- The third failure of a SERVING shelf: an OPERATE's, a RELEASE's at the second and at the third attempt, and a RELEASE_ALL's. -/
theorem witness_FailedReleaseIsRepeated_third :
    (∀ s ∈ [failedTwice .seizing .operate 1, failedTwice .releasing .release 2, failedTwice .releasing .release 3], s.Quiet)
    ∧ (∀ s ∈ [failedTwice .seizing .operate 1, failedTwice .releasing .release 2, failedTwice .releasing .release 3], s.Sound)
    ∧ (failedTwice .seizing .operate 1).fails (.slot 0) .operate 0 0 (.confirmTimeout (.slot 0))
    ∧ (∀ n ∈ [2, 3], (failedTwice .releasing .release n).fails (.slot 0) .release 0 0 (.confirmTimeout (.slot 0)))
    ∧ (∀ s ∈ [failedTwice .seizing .operate 1, failedTwice .releasing .release 2, failedTwice .releasing .release 3],
        (s.shelf 0).failures = 2 ∧ (s.shelf 0).state = .serving ∧ (s.slot 0).request = some desk ∧ (s.slot 0).line = some 5
        ∧ shelfOf 5 = 0 ∧ (s.slot 0).ended = false ∧ s.run 0 = none ∧ s.ms.results = [])
    ∧ ((failedTwice .seizing .operate 1).slot 0).state = .seizing
    ∧ (∀ n ∈ [2, 3], ((failedTwice .releasing .release n).slot 0).state = .releasing ∧ ((failedTwice .releasing .release n).slot 0).attempt = n)
    ∧ (probed idle .probing 2).Sound ∧ (probed unserved .serving 2).Sound ∧ (probed unserved .serving 2).Quiet
    ∧ (probed unserved .serving 2).fails (.shelf 0) .releaseAll 0 0 (.confirmTimeout (.shelf 0)) :=
  ⟨quiets (by decide +kernel), sounds (by decide +kernel),
    fails_timeout _ _ (by decide +kernel) (Nat.zero_le _),
    fun n hn => fails_timeout (due := 0) _ _
      ((by decide +kernel : ∀ n ∈ [2, 3], (failedTwice .releasing .release n).order (.slot 0) = .placed .release (some 0)) n hn)
      (Nat.zero_le _),
    by decide +kernel, by decide +kernel, by decide +kernel, sound_of (by decide +kernel), sound_of (by decide +kernel),
    quiet_of (by decide +kernel), fails_timeout _ _ (by decide +kernel) (Nat.zero_le _)⟩

/-- The request of slot 0 has had its ending. -/
def ended (s : State) : State := s.updSlot 0 fun r => { r with ended := true }

/-- RELEASE and CANCEL on a slot SEIZING, its OPERATE sent or waiting, its request ended or not, and on one RELEASING. -/
theorem witness_ReleaseAndCancelEndTheAccess_live :
    (∀ s ∈ [ordered .seizing .operate 1, ended (ordered .seizing .operate 1), operateWaits 16, ordered .releasing .release 1], s.Takes)
    ∧ (∀ s ∈ [ordered .seizing .operate 1, ended (ordered .seizing .operate 1), operateWaits 16, ordered .releasing .release 1],
        s.deskSlot 1 = some 0 ∧ (s.slot 0).request = some desk ∧ s.ms.results.length < 64)
    ∧ (∀ s ∈ [ordered .seizing .operate 1, ended (ordered .seizing .operate 1), operateWaits 16], (s.slot 0).state = .seizing)
    ∧ ((ordered .seizing .operate 1).slot 0).order = .placed .operate (some 0) ∧ ((ordered .seizing .operate 1).slot 0).ended = false
    ∧ ((ended (ordered .seizing .operate 1)).slot 0).ended = true
    ∧ ((operateWaits 16).slot 0).order = .waiting .operate ∧ (operateWaits 16).ac.queue = [] ∧ (operateWaits 16).noRetests
    ∧ (operateWaits 16).LineRests 5 ∧ ((ordered .releasing .release 1).slot 0).state = .releasing :=
  ⟨takings (by decide +kernel), by decide +kernel, by decide +kernel, by decide +kernel, by decide +kernel, by decide +kernel,
    by decide +kernel, by decide +kernel, noRetests_of (by decide), rests_of (by decide +kernel), by decide +kernel⟩

theorem witness_HoldLimitReleasesTheSlot : (∀ s ∈ [access .held], s.Quiet) ∧ ((access .held).slot 0).state = .held
    ∧ ((access .held).slot 0).holdDue = some 0 ∧ 0 ≤ (access .held).core.timeMs ∧ (access .held).run 0 = none
    ∧ ((access .held).slot 0).ended = false ∧ ((access .held).slot 0).request = some desk ∧ desk.cls = .desk
    ∧ (access .held).ms.results.length < 64 := ⟨quiets (by decide +kernel), by decide +kernel⟩

/-- The ROUTINE request for line 5 waits. -/
def routineWaits : State := queued.updAc fun a => { a with queue := [{ desk with cls := .routine }] }

theorem witness_WaitLimitEndsTheRequest : (∀ s ∈ [queued, routineWaits], s.Quiet)
    ∧ queued.ac.queue.find? (fun q => decide (q.line = 5)) = some desk
    ∧ desk.waitDue = some 0 ∧ 0 ≤ queued.core.timeMs ∧ queued.core.tc.tickets = [] ∧ (queued.line 5).lockoutStart = none
    ∧ desk.reason = none ∧ routineWaits.ac.queue.find? (fun q => decide (q.line = 5)) = some { desk with cls := .routine } :=
  ⟨quiets (by decide +kernel), by decide +kernel⟩

/-- The OPERATE of slot 0 is outstanding: of a request without a programme, of one with a programme, of one marked for release, and with the
set ABSENT. -/
def seizing : State := ordered .seizing .operate 1
def seizingToRun : State := (loaded seizing).updSlot 0 fun r => { r with request := some { desk with programme := some 0 } }
def seizingMarked : State := seizing.updSlot 0 fun r => { r with mark := some .deskRelease }
def seizingNoSet : State := seizing.updTestSet 0 fun t => { t with state := .absent }

theorem witness_ConfirmedOperateHolds :
    (∀ s ∈ [seizing, seizingToRun, seizingMarked, seizingNoSet], s.Hears)
    ∧ (∀ s ∈ [seizing, seizingToRun, seizingMarked, seizingNoSet], (s.slot 0).state = .seizing
        ∧ (s.slot 0).order = .placed .operate (some 0) ∧ (s.slot 0).ended = false ∧ (s.shelf (shelfOf 5)).failures ≤ 1
        ∧ s.ms.results.length < 64)
    ∧ desk.line < 8192 ∧ desk.programme = none ∧ desk.cls = .desk
    ∧ (∀ s ∈ [seizing, seizingMarked, seizingNoSet], (s.slot 0).request = some desk)
    ∧ (∀ s ∈ [seizing, seizingToRun, seizingNoSet], (s.slot 0).mark = none)
    ∧ (∀ s ∈ [seizing, seizingToRun], (s.testSet 0).state = .ready) ∧ (seizingNoSet.testSet 0).state ≠ .ready
    ∧ (seizingMarked.slot 0).mark = some .deskRelease
    ∧ (seizingToRun.slot 0).request = some { desk with programme := some 0 }
    ∧ seizingToRun.ms.programme 0 = some { first := 0, count := 2 } ∧ seizingToRun.ms.step 0 = some dcvStep
    ∧ seizingToRun.stepVoid 0 dcvStep = false := ⟨hearings (by decide +kernel), by decide +kernel⟩

/-- The OPERATE of a request is outstanding whose programme has no step that can be run, is empty, or is not loaded. -/
theorem witness_ConfirmedOperateHolds_ends :
    (∀ s ∈ [voidAll seizingToRun, empty seizingToRun, seizingToRun.setProgramme (0, none)], s.Hears)
    ∧ (voidAll seizingToRun).stepsVoid 0 { first := 0, count := 2 } 0 3 ∧ (empty seizingToRun).stepsVoid 0 { first := 0, count := 0 } 0 1
    ∧ (∀ s ∈ [voidAll seizingToRun, empty seizingToRun, seizingToRun.setProgramme (0, none)], (s.slot 0).state = .seizing
        ∧ (s.slot 0).request = some { desk with programme := some 0 } ∧ (s.slot 0).order = .placed .operate (some 0)
        ∧ (s.slot 0).mark = none ∧ (s.testSet 0).state = .ready ∧ s.pendingRun 0 = none)
    ∧ (voidAll seizingToRun).ms.programme 0 = some { first := 0, count := 2 }
    ∧ (empty seizingToRun).ms.programme 0 = some { first := 0, count := 0 } ∧ (seizingToRun.setProgramme (0, none)).ms.programme 0 = none :=
  ⟨hearings (by decide +kernel), stepsVoid_of (by decide +kernel), stepsVoid_of (by decide +kernel), by decide +kernel⟩

/-! ### Test sets and runs -/

/-- This frame is to leave link 0. -/
def sending (f : LinkFrame) : State := serving.updTestSet 0 fun t => { t with sending := [f] }

/-- Frames of every kind that the statement tells apart. -/
def linkFrames : List LinkFrame :=
  [{ msg := .identify, timed := true }, { msg := .source 1 .tg .level 5 0 .low .dc, timed := true }, { msg := .stream true },
    { msg := .agree .r250 {} }, { msg := .identify }]

theorem witness_LinkFrameStartsItsTimer : (∀ s ∈ linkFrames.map sending, s.Quiet)
    ∧ ∀ f ∈ linkFrames, ((sending f).testSet 0).sending = f :: [] := ⟨quiets (by decide +kernel), by decide +kernel⟩

/-- The access that runs is not to be kept. -/
def runningOnce : State := running.updSlot 0 fun r => { r with request := some { desk with keep := false } }

theorem witness_IdentityMakesASetReady :
    (∀ s ∈ [idle, running, runningOnce, access .held, silentSet 0 none, setIn .disabled, setIn .absent],
      s.Quiet) ∧ (∀ s ∈ [idle, running, runningOnce, access .held, silentSet 0 none, setIn .disabled, setIn .absent],
      s.csi.imageAwaited = false)
    ∧ parseIdentity (identityOctets 31 6) = some (allKinds, { r500 := true, r250 := true })
    ∧ parseIdentity (identityOctets 31 0) = some (allKinds, {})
    ∧ (idle.testSet 3).state = .probing ∧ ((silentSet 0 none).testSet 0).state = .silent ∧ ((setIn .disabled).testSet 3).state = .disabled
    ∧ ((setIn .absent).testSet 3).state = .absent
    ∧ (∀ s ∈ [running, runningOnce, access .held], (s.testSet 0).state = .ready ∧ (s.slot 0).state = .held)
    ∧ (running.slot 0).request = some desk ∧ desk.keep = true ∧ ((access .held).run 0) = none
    ∧ (runningOnce.slot 0).request = some { desk with keep := false } ∧ (runningOnce.run 0).isSome = true :=
  ⟨quiets (by decide +kernel), by decide +kernel⟩

def capStep : Step := { dcvStep with kind := .cap }

/-- The run waits for its last sample, and for the last of the up ramp of a CAP step. -/
def lastSample : State := (loaded (access .held)).setRun 0 (some { programme := 0, phase := .acquire, taken := 3 })
def lastOfRamp : State :=
  ((loaded (access .held)).setStep (0, some capStep)).setRun 0 (some { programme := 0, phase := .acquire, taken := 3, ramp := .up })

theorem witness_SampleIsAccumulated : (∀ s ∈ [running, access .held, lastSample, lastOfRamp], s.Quiet)
    ∧ (∀ s ∈ [running, access .held, lastSample, lastOfRamp], s.csi.imageAwaited = false ∧ (s.testSet 0).state = .ready
      ∧ (s.testSet 0).tag = 0 ∧ min 65535 (0 + (1 + 256 - (s.testSet 0).expected % 256) % 256) ≤ dcvStep.samples / 4)
    ∧ parseSample (sampleOctets 1 0 100 100 0) =
        some { index := 1, tag := 0, voltage := 100, current := 100, overV := false, overI := false }
    ∧ parseSample (sampleOctets 1 9 100 100 0) =
        some { index := 1, tag := 9, voltage := 100, current := 100, overV := false, overI := false }
    ∧ (access .held).run 0 = none
    ∧ running.stepUnderWay 0 = some ({ programme := 0, phase := .acquire }, { first := 0, count := 2 }, dcvStep)
    ∧ 0 + 1 < dcvStep.samples
    ∧ lastSample.stepUnderWay 0 = some ({ programme := 0, phase := .acquire, taken := 3 }, { first := 0, count := 2 }, dcvStep)
    ∧ dcvStep.samples ≤ 3 + 1 ∧ lastSample.ms.stepOf { first := 0, count := 2 } 2 = some dcvStep ∧ lastSample.stepVoid 0 dcvStep = false
    ∧ dcvStep.onFail = .goOn
    ∧ lastOfRamp.stepUnderWay 0 =
        some ({ programme := 0, phase := .acquire, taken := 3, ramp := .up }, { first := 0, count := 2 }, capStep) :=
  ⟨quiets (by decide +kernel), by decide +kernel⟩

/-- The run of slot 0 is so. -/
def runIs (x : Run) (s : State) : State := s.setRun 0 (some x)

/-- A step of no settle time, and one that fails above 10 mV and then ends the run. -/
def atOnce : Step := { dcvStep with settle := 0 }
def ending : Step := { dcvStep with limitSet := some 0, onFail := .finish }

/-- The last sample of the last step is to come, of a step that does not end a run and of one that does. -/
def lastOfRun : State := runIs { programme := 0, step := 2, phase := .acquire, taken := 3 } lastSample
def lastFails : State :=
  (lastSample.setStep (0, some ending)).setLimit (0, { unit := .millivolt, low := none, high := some 10, hysteresis := 0 })

/-- The three ways into an acquisition; a loss, for the first and the second time; the last sample of a run, with and without a run that
is pending, and of a step that ends the run by its failure. The sample of index 3 leaves a gap of 3. -/
theorem witness_SampleIsAccumulated_ends :
    (∀ s ∈ [runIs { programme := 0, phase := .settle, settleEnd := some 0 } running, (runIs { programme := 0 } running).setStep (0, some atOnce),
        runIs { programme := 0, phase := .acquire, retryUsed := true } running, lastOfRun, lastOfRun.setPendingRun 0 (some 0), lastFails],
      s.Quiet)
    ∧ running.acquires { programme := 0, phase := .acquire } { programme := 0, phase := .acquire } dcvStep
    ∧ running.acquires { programme := 0, phase := .settle, settleEnd := some 0 } { programme := 0, phase := .acquire, settleEnd := some 0 } dcvStep
    ∧ running.acquires { programme := 0 } { programme := 0, phase := .acquire, settleEnd := some 0 } atOnce
    ∧ ((runIs { programme := 0 } running).setStep (0, some atOnce)).stepUnderWay 0 = some ({ programme := 0 }, { first := 0, count := 2 }, atOnce)
    ∧ parseSample (sampleOctets 3 0 100 100 0) =
        some { index := 3, tag := 0, voltage := 100, current := 100, overV := false, overI := false }
    ∧ dcvStep.samples / 4 < min 65535 (0 + (3 + 256 - (running.testSet 0).expected % 256) % 256)
    ∧ (runIs { programme := 0, phase := .acquire, retryUsed := true } running).stepUnderWay 0 =
        some ({ programme := 0, phase := .acquire, retryUsed := true }, { first := 0, count := 2 }, dcvStep)
    ∧ (∀ s ∈ [lastOfRun, lastOfRun.setPendingRun 0 (some 0)], (s.slot 0).request = some desk ∧ s.stepUnderWay 0 =
        some ({ programme := 0, step := 2, phase := .acquire, taken := 3 }, { first := 0, count := 2 }, dcvStep))
    ∧ lastOfRun.pendingRun 0 = none ∧ lastOfRun.stepsVoid 0 { first := 0, count := 2 } 2 3
    ∧ lastFails.stepUnderWay 0 = some ({ programme := 0, phase := .acquire, taken := 3 }, { first := 0, count := 2 }, ending)
    ∧ ending.onFail = .finish ∧ (lastFails.ms.check { programme := 0, phase := .acquire, taken := 3, working := { sv := 100, si := 100 } }
        { first := 0, count := 2 } ending).verdict = .fail :=
  ⟨quiets (by decide +kernel), .inl ⟨.inl rfl, rfl⟩, .inr (.inl ⟨rfl, ⟨0, rfl, by decide +kernel⟩, rfl⟩), .inr (.inr ⟨rfl, rfl, rfl⟩),
    by decide +kernel, by decide +kernel, by decide +kernel, by decide +kernel, by decide +kernel, by decide +kernel,
    stepsVoid_of (by decide +kernel), by decide +kernel⟩

/-- The answer timer of set 0's enumeration has run out at this try. -/
def unanswered (attempt : Nat) (seen : Bool) : State :=
  idle.updTestSet 0 fun t => { t with attempt := attempt, answerDue := some 0, samplesSeen := seen }

theorem witness_UnansweredIdentifyIsRepeated :
    (∀ s ∈ [2, 3].flatMap (fun n => [unanswered n false, unanswered n true]), s.Quiet)
    ∧ ∀ n ∈ [2, 3], ∀ seen ∈ [false, true], ((unanswered n seen).testSet 0).state = .probing
      ∧ ((unanswered n seen).testSet 0).answerDue = some 0 ∧ 0 ≤ (unanswered n seen).core.timeMs
      ∧ ((unanswered n seen).testSet 0).attempt = n ∧ ((unanswered n seen).testSet 0).samplesSeen = seen :=
  ⟨quiets (by decide +kernel), by decide +kernel⟩

theorem witness_SilentSetIsProbed : (∀ s ∈ [silentSet 0 none, silentSet 1 (some 0)], s.Quiet)
    ∧ (∀ s ∈ [silentSet 0 none, silentSet 1 (some 0)], (s.testSet 0).state = .silent ∧ (s.testSet 0).probeDue = some 0
      ∧ 0 ≤ s.core.timeMs)
    ∧ ((silentSet 0 none).testSet 0).attempt = 0 ∧ ((silentSet 1 (some 0)).testSet 0).attempt ≠ 0
    ∧ ((silentSet 1 (some 0)).testSet 0).answerDue = some 0 := ⟨quiets (by decide +kernel), by decide +kernel⟩

/-- Both timers of set 0's step have run out, with this failure count. -/
def failing (n : Nat) : State :=
  (access .held).updTestSet 0 fun t => { t with failures := n, firstTagDue := some 0, sampleDue := some 0 }

theorem witness_TestSetFailuresAreCounted : (∀ s ∈ [1, 2].map failing, s.Quiet) ∧ ∀ n ∈ [1, 2], ((failing n).testSet 0).state = .ready
    ∧ ((failing n).testSet 0).firstTagDue = some 0 ∧ ((failing n).testSet 0).sampleDue = some 0 ∧ 0 ≤ (failing n).core.timeMs
    ∧ ((failing n).testSet 0).failures = n ∧ ((failing n).slot 0).state = .held ∧ (failing n).run 0 = none :=
  ⟨quiets (by decide +kernel), by decide +kernel⟩

/-- The same at the second failure with a step under way, in APPLY under the SOURCE that opened the stream, or in ACQUIRE. -/
def failingRun (phase : Phase) (retryUsed : Bool) : State :=
  runIs { programme := 0, phase := phase, retryUsed := retryUsed, opener := true } (loaded (failing 1))

theorem witness_TestSetFailuresAreCounted_run :
    (∀ s ∈ [failingRun .apply false, failingRun .apply true, failingRun .acquire false, failingRun .acquire true], s.Quiet)
    ∧ (∀ ph ∈ [Phase.apply, .acquire], ∀ u ∈ [false, true], ((failingRun ph u).testSet 0).failures = 1
        ∧ ((failingRun ph u).testSet 0).firstTagDue = some 0 ∧ ((failingRun ph u).testSet 0).sampleDue = some 0
        ∧ ((failingRun ph u).testSet 0).state = .ready ∧ ((failingRun ph u).slot 0).request = some desk
        ∧ (failingRun ph u).stepUnderWay 0 =
            some ({ programme := 0, phase := ph, retryUsed := u, opener := true }, { first := 0, count := 2 }, dcvStep)) :=
  ⟨quiets (by decide +kernel), by decide +kernel⟩

/-- The step under way has reached its settle end. -/
def settling : State := (loaded (access .held)).setRun 0 (some { programme := 0, phase := .settle, settleEnd := some 0 })

theorem witness_SettleEndBeginsAcquisition : (∀ s ∈ [settling], s.Quiet)
    ∧ settling.run 0 = some { programme := 0, phase := .settle, settleEnd := some 0 } ∧ 0 ≤ settling.core.timeMs :=
  ⟨quiets (by decide +kernel), by decide +kernel⟩

/-- The first sample under the tag is to come, and one before the settle end. -/
theorem witness_SettleEndBeginsAcquisition_sample :
    (∀ s ∈ [runIs { programme := 0 } running, runIs { programme := 0, phase := .settle, settleEnd := some 5 } running], s.Quiet)
    ∧ (∀ x ∈ [({ programme := 0 } : Run), { programme := 0, phase := .settle, settleEnd := some 5 }],
        (runIs x running).csi.imageAwaited = false ∧ ((runIs x running).testSet 0).state = .ready ∧ ((runIs x running).testSet 0).tag = 0
        ∧ (runIs x running).stepUnderWay 0 = some (x, { first := 0, count := 2 }, dcvStep) ∧ (runIs x running).core.timeMs < 5)
    ∧ 0 < dcvStep.settle := ⟨quiets (by decide +kernel), by decide +kernel⟩

/-! ### The Line Watch, retests and the sweep -/

/-- Line 5 has a hits window begun at 1,000 s, at this moment. -/
def watched (now : Nat) : State :=
  (idle.updCore fun c => { c with timeMs := 1000 * now }).updLine 5 fun r => { r with hits := 3, hitsStart := some 1000 }

theorem witness_HitIsCountedInTheWindow : ((watched 1060).line 5).hitsStart = some 1000
    ∧ (watched 1060).now ≤ 1000 + (watched 1060).params.hitsWindow ∧ ((watched 1061).line 5).hitsStart = some 1000
    ∧ 1000 + (watched 1061).params.hitsWindow < (watched 1061).now ∧ (idle.line 5).hitsStart = none
    ∧ (((watched 1060).countHit 5).line 5).hits < (watched 1060).params.hitsThreshold
    ∧ CallState.inCall ≠ ((watched 1060).line 5).callState := by decide +kernel

/-- Line 5 has stood in LOCKOUT for the lockout delay. -/
def lockedOut (s : State) : State :=
  (s.updCore fun c => { c with timeMs := 15000 }).updLine 5 fun r => { r with callState := .lockout, lockoutStart := some 0 }

/-- The ticket on line 5 has a CONFIRM retest that falls due. -/
def dueTicket : Ticket := { openTicket with retest := some { reason := .confirm, due := .dueAt 0 } }

theorem witness_DueRetestsAreOffered : (∀ s ∈ [lockedOut unserved, lockedOut idle, ticketed unserved [dueTicket]], s.Quiet)
    ∧ ((lockedOut unserved).line 5).lockoutStart = some 0 ∧ ((lockedOut unserved).line 5).callState = .lockout
    ∧ 0 + (lockedOut unserved).core.oh.params.lockoutDelay ≤ (lockedOut unserved).now ∧ ((lockedOut unserved).line 5).access = .none
    ∧ (∀ b ∈ slotNumbers, ¬(((lockedOut unserved).slot b).state = .free ∧ ((lockedOut unserved).testSet b).state = .ready))
    ∧ (lockedOut unserved).refusal ((lockedOut unserved).retestRequest 5 0 .lockout none) = none
    ∧ (lockedOut idle).refusal ((lockedOut idle).retestRequest 5 0 .lockout none) ≠ none
    ∧ (ticketed unserved [dueTicket]).core.ticket 1 = some dueTicket ∧ 0 ≤ (ticketed unserved [dueTicket]).now
    ∧ (ticketed unserved [dueTicket]).refusal ((ticketed unserved [dueTicket]).retestRequest 5
        ((ticketed unserved [dueTicket]).routineProgramme 5) .confirm (some 1)) = none :=
  ⟨quiets (by decide +kernel), by decide +kernel⟩

theorem witness_TickPacesTheSweep : ∀ s ∈ [idle], s.Quiet := quiets (by decide +kernel)

/-- A pacing event is due. -/
def paced (s : State) : State := s.updRs fun r => { r with eventDue := true, running := true, increment := 1, pendingIncrement := some 2 }

/-- A pacing event is due, range 0 from line 0 to this last line is enabled, and lines 5 and 6, the cursor at 5, are eligible. -/
def swept (last : Nat) : State :=
  ((((paced unserved).updRs fun r => { r with cursorLine := 5 }).setRange (0, { last := last, enabled := true })).updLine 5 fun r =>
    { r with routineEnabled := true, callState := .idle }).updLine 6 fun r => { r with routineEnabled := true, callState := .idle }

/-- The same with the queue full, with line 5 not enabled, and with line 5 in a call. -/
def sweptFull : State := (swept 9).updAc fun a => { a with queue := List.replicate 32 desk }
def sweptPast : State := (swept 9).updLine 5 fun r => { r with routineEnabled := false }
def sweptBusy : State := (swept 9).updLine 5 fun r => { r with callState := .inCall }

theorem witness_PacingEventOffersALine :
    (∀ s ∈ [idle, paced idle, (paced idle).updAc fun a => { a with quotaInForce := 0 }, swept 9, swept 5, sweptFull, sweptPast, sweptBusy],
      s.Quiet)
    ∧ idle.rs.eventDue = false ∧ (paced idle).rs.eventDue = true ∧ (∀ k, k ≤ 15 → ((paced idle).rs.range k).enabled = false)
    ∧ ((paced idle).updAc fun a => { a with quotaInForce := 0 }).ac.quotaInForce ≤ (paced idle).routineCount
    ∧ (∀ s ∈ [swept 9, swept 5, sweptFull, sweptPast, sweptBusy], s.rs.eventDue = true ∧ s.routineCount < s.ac.quotaInForce
      ∧ s.rs.cursorRange = 0 ∧ s.rs.cursorLine = 5 ∧ (s.rs.range 0).enabled = true ∧ (s.rs.range 0).first ≤ 5
      ∧ ∀ b ∈ slotNumbers, ¬((s.slot b).state = .free ∧ (s.testSet b).state = .ready))
    ∧ (∀ s ∈ [swept 9, swept 5, sweptFull], s.passedOver 5 = false ∧ s.busyLine 5 = false)
    ∧ (swept 9).rs.range 0 = { last := 9, enabled := true } ∧ (swept 9).ac.queue.length < 32 ∧ 32 ≤ sweptFull.ac.queue.length
    ∧ sweptPast.passedOver 5 = true ∧ sweptBusy.busyLine 5 = true
    ∧ (∀ s ∈ [sweptPast, sweptBusy], s.passedOver 6 = false ∧ s.busyLine 6 = false ∧ (s.rs.range 0).last = 9 ∧ s.ac.queue = [])
    ∧ (swept 5).rs.cursorLine = ((swept 5).rs.range 0).last ∧ (swept 5).ac.queue.length < 32
    ∧ (∀ k, k ≤ 15 → 0 < k → ((swept 5).rs.range k).enabled = false) ∧ Table.wf {} (swept 5).core.lines = true :=
  ⟨quiets (by decide +kernel), by decide +kernel⟩

/-- The event has taken the pending increment. -/
def taken (s : State) : State :=
  { s with rs := { s.rs with
      eventDue := false
      increment := s.rs.pendingIncrement.getD s.rs.increment
      pendingIncrement := none } }

/-- The cursor at a line of its range, and of another range. -/
def atLine (s : State) (l : Nat) : State := { s with rs := { s.rs with cursorLine := l } }
def atRange (s : State) (k l : Nat) : State := { s with rs := { s.rs with cursorRange := k, cursorLine := l } }

/-- The pass of ranges of which range 0 is the lowest ends. -/
def nextPass (s : State) : State :=
  { s with
    rs := { s.rs with passCount := (s.rs.passCount + 1) % 65536, cursorRange := 0, cursorLine := (s.rs.range 0).first }
    core := { s.core with oh := { s.core.oh with passCount := (s.rs.passCount + 1) % 65536 } } }

theorem passesOver_next {s : State} (h : s.passedOver s.rs.cursorLine = true)
    (hl : s.rs.cursorLine < (s.rs.range s.rs.cursorRange).last) : s.passesOver (atLine s (s.rs.cursorLine + 1)) :=
  ⟨.inl h, rfl, .inl ⟨hl, rfl, rfl, fun k => by
    show s.line k = ite _ _ _
    split <;> simp_all⟩⟩

theorem noneAbove_of {r : Rs} {n : Nat} (h : ∀ k, k ≤ 15 → n < k → (r.range k).enabled = false) :
    ∀ k, n < k → k ≤ 15 → (r.range k).enabled = false := fun k a b => h k b a

/-- A pacing event is due, the sweep has this one range, and no line is enabled. -/
def barred (first last : Nat) : State :=
  ((paced unserved).updRs fun r => { r with cursorLine := 5 }).setRange (0, { first := first, last := last, enabled := true })

/-- Scans: of 64 positions, of a round of one position that ends its pass, and of an eligible line behind one passed over. -/
theorem witness_PacingEventOffersALine_scans :
    (∀ s ∈ [barred 0 200, barred 5 5, sweptPast, sweptFull], s.Quiet ∧ s.rs.eventDue = true ∧ s.routineCount < s.ac.quotaInForce
      ∧ (s.rs.range 0).enabled = true ∧ Table.wf {} s.core.lines = true ∧ (taken s).cursorSettles (taken s))
    ∧ (∀ m, m < 64 → (atLine (taken (barred 0 200)) (5 + m)).passesOver (atLine (taken (barred 0 200)) (5 + (m + 1))))
    ∧ (taken (barred 5 5)).passesOver (nextPass (taken (barred 5 5)))
    ∧ (nextPass (taken (barred 5 5))).rs.cursorRange = 0 ∧ (nextPass (taken (barred 5 5))).rs.cursorLine = 5
    ∧ (taken sweptPast).passesOver (atLine (taken sweptPast) 6)
    ∧ (atLine (taken sweptPast) 6).passedOver 6 = false ∧ (atLine (taken sweptPast) 6).busyLine 6 = false
    ∧ sweptPast.ac.queue = [] ∧ (taken sweptFull).passedOver 5 = false ∧ (taken sweptFull).busyLine 5 = false
    ∧ 32 ≤ sweptFull.ac.queue.length := by
  have q : ∀ s ∈ [barred 0 200, barred 5 5, sweptPast, sweptFull], s.Quiet := quiets (by decide +kernel)
  have d : ∀ s ∈ [barred 0 200, barred 5 5, sweptPast, sweptFull], s.rs.eventDue = true ∧ s.routineCount < s.ac.quotaInForce
      ∧ (s.rs.range 0).enabled = true ∧ Table.wf {} s.core.lines = true
      ∧ ((taken s).rs.range 0).enabled = true ∧ (taken s).rs.cursorRange = 0 ∧ (taken s).rs.cursorLine ≤ ((taken s).rs.range 0).last
      ∧ max ((taken s).rs.range 0).first (taken s).rs.cursorLine = (taken s).rs.cursorLine := by decide +kernel
  have p : ∀ m, m < 64 → (atLine (taken (barred 0 200)) (5 + m)).passedOver (5 + m) = true ∧ 5 + m < 200 := by decide +kernel
  refine ⟨fun s hs => ?_, fun m hm => passesOver_next (p m hm).1 (p m hm).2, ?_, rfl, rfl, passesOver_next (by decide +kernel)
    (by decide +kernel), by decide +kernel, by decide +kernel, rfl, by decide +kernel, by decide +kernel, by decide +kernel⟩
  · obtain ⟨a, b, c, w, e, k, l, x⟩ := d s hs
    exact ⟨q s hs, a, b, c, w, rfl, .inl ⟨by rw [k]; exact e, by rw [k]; exact l, by rw [k, x], rfl, fun _ => rfl⟩⟩
  · refine ⟨.inl (by decide +kernel), rfl, .inr ⟨by decide +kernel, .inr ⟨noneAbove_of (by decide +kernel), 0, by decide, by decide +kernel,
      fun _ h => absurd h (Nat.not_lt_zero _), rfl, rfl, fun l => ?_⟩⟩⟩
    dsimp only
    split <;> rfl

/-- The cursor settles: below its range's first line; in a range not enabled, and above its range's last line, with one enabled above it
and with none. -/
theorem witness_PacingEventOffersALine_settles :
    (taken (barred 7 9)).cursorSettles (atLine (taken (barred 7 9)) 7)
    ∧ (∀ n, (taken ((barred 0 n).setRange (3, { first := 8, last := 9, enabled := true }))).rs.cursorLine = 5)
    ∧ (taken ((barred 0 4).setRange (3, { first := 8, last := 9, enabled := true }))).cursorSettles
        (atRange (taken ((barred 0 4).setRange (3, { first := 8, last := 9, enabled := true }))) 3 8)
    ∧ (taken ((barred 0 4).updRs fun r => { r with cursorRange := 2 })).cursorSettles
        (nextPass (taken ((barred 0 4).updRs fun r => { r with cursorRange := 2 }))) := by
  refine ⟨⟨rfl, .inl ⟨by decide +kernel, by decide +kernel, rfl, rfl, fun _ => rfl⟩⟩, fun _ => rfl,
    ⟨rfl, .inr ⟨.inr (by decide +kernel), .inl ⟨3, by decide +kernel, by decide, by decide +kernel, ?_, rfl, rfl, fun _ => rfl⟩⟩⟩,
    ⟨rfl, .inr ⟨.inl (by decide +kernel), .inr ⟨noneAbove_of (by decide +kernel), 0, by decide, by decide +kernel,
      fun _ h => absurd h (Nat.not_lt_zero _), rfl, rfl, fun _ => rfl⟩⟩⟩⟩
  intro j h h'
  have : j = 1 ∨ j = 2 := by change 0 < j at h; omega
  obtain rfl | rfl := this <;> decide +kernel

/-! ### The call guard, arithmetic, tickets and groups -/

/-- The buffer holds n orders for a line. -/
def guarding (n l : Nat) (s : State) : State :=
  s.updCg fun g => { g with held := List.replicate n { frame := downFrame, line := l, seize := true } }

/-- The access on line 5 is of this class. -/
def accessOf (cls : ReqClass) : State := (access .held).updSlot 0 fun r => { r with request := some { desk with cls := cls } }

theorem witness_GuardDecidesByItsTests :
    (∃ h ∈ (guarding 7 5 idle).cg.held, h.line = 5) ∧ (guarding 7 5 idle).cg.held.length < 8
    ∧ (∃ h ∈ (guarding 8 5 idle).cg.held, h.line = 5) ∧ 8 ≤ (guarding 8 5 idle).cg.held.length
    ∧ (∀ n ∈ [7, 8], ∀ cls ∈ [ReqClass.desk, .retest, .routine],
        (∀ h ∈ (guarding n 6 (accessOf cls)).cg.held, h.line ≠ 5) ∧ ((guarding n 6 (accessOf cls)).line 5).access = .inAccess 0
        ∧ ((guarding n 6 (accessOf cls)).slot 0).request = some { desk with cls := cls }
        ∧ ((guarding n 6 (accessOf cls)).slot 0).state = .held)
    ∧ ((access .faulted).line 5).access = .inAccess 0 ∧ ((access .faulted).slot 0).state = .faulted
    ∧ (queued.line 5).access = .queued ∧ (idle.line 5).access = .none :=
  ⟨⟨_, List.mem_cons_self, rfl⟩, by decide, ⟨_, List.mem_cons_self, rfl⟩, by decide +kernel⟩

/-- A call-path order that ends at the UP port, as a check. -/
def callOrder (f : Octets) (l : Nat) (seize : Bool) (s : State) : Bool :=
  quiet s && decide (s.receiver .up = .hunting ∧ frameOctets f = f ∧ goodFrame f = true ∧ (f.getD 0 0).toNat ≠ s.core.oh.station
    ∧ (f.getD 2 0).toNat < 240 ∧ (s.htp.entry (f.getD 2 0).toNat).treatment = (if seize then .callSeize else .callFree)
    ∧ lineAt (framePayload f) (s.htp.entry (f.getD 2 0).toNat).lineOffset = some l)

theorem callOrders {f : Octets} {n : Nat} {seize : Bool} {l : List State} (h : l.all (callOrder f n seize) = true) :
    ∀ s ∈ l, s.CallOrder f n seize := fun s hs => by
  have := List.all_eq_true.mp h s hs
  simp only [callOrder, Bool.and_eq_true, decide_eq_true_eq] at this
  exact ⟨quiet_of this.1, this.2.1, this.2.2.1, this.2.2.2.1, this.2.2.2.2.1, this.2.2.2.2.2.1, this.2.2.2.2.2.2.1, this.2.2.2.2.2.2.2⟩

/-- A ROUTINE access on line 5 is in this state, its order is this, and calls are seized by the frames of kind 0x20. -/
def seizable (st : SlotState) (order : Transaction) : State :=
  treated .callSeize ((accessOf .routine).updSlot 0 fun r => { r with state := st, order := order })

/-- A seizing order that is forwarded, held, refused, and held with pre-emption of a slot HELD, RELEASING, SEIZING with its OPERATE sent and
SEIZING with its OPERATE waiting. -/
theorem witness_GuardDecidesByItsTests_frame :
    (∀ s ∈ [treated .callSeize idle, treated .callSeize (guarding 7 5 idle), treated .callSeize (access .held), seizable .held .idle,
        seizable .releasing (.placed .release none), seizable .seizing (.placed .operate none), seizable .seizing (.waiting .operate)],
      s.CallOrder downFrame 5 true)
    ∧ (∀ s ∈ [treated .callFree (accessOf .routine)], s.CallOrder downFrame 5 false)
    ∧ (seizable .seizing (.waiting .operate)).noRetests ∧ (seizable .seizing (.waiting .operate)).LineRests 5
    ∧ (treated .callSeize idle).guardDecision 5 true = .forward
    ∧ (treated .callFree (accessOf .routine)).guardDecision 5 false = .forward
    ∧ (treated .callSeize (guarding 7 5 idle)).guardDecision 5 true = .hold
    ∧ (treated .callSeize (access .held)).guardDecision 5 true = .refuse .deskTest
    ∧ (∀ s ∈ [seizable .held .idle, seizable .releasing (.placed .release none), seizable .seizing (.placed .operate none),
        seizable .seizing (.waiting .operate)], s.guardDecision 5 true = .holdAndPreEmpt 0)
    ∧ ((seizable .seizing (.waiting .operate)).slot 0).request = some { desk with cls := .routine }
    ∧ ((seizable .seizing (.waiting .operate)).slot 0).ended = false ∧ (seizable .seizing (.waiting .operate)).ac.queue = [] :=
  ⟨callOrders (by decide +kernel), callOrders (by decide +kernel), noRetests_of (by decide), rests_of (by decide +kernel),
    by decide +kernel⟩

theorem witness_RefusedOrderMakesANotice : (crowded 15 idle).htp.up.insertion.length < 16 ∧ (crowded 15 idle).cg.waiting = []
    ∧ (noticeWaits 0).cg.waiting ≠ [] ∧ 16 ≤ (crowded 16 idle).htp.up.insertion.length ∧ (crowded 16 idle).cg.waiting.length < 8
    ∧ 8 ≤ ((crowded 16 idle).updCg fun g => { g with waiting := List.replicate 8 notice }).cg.waiting.length := by decide

theorem witness_MeansAndRootsAreExact : 0 < 4 ∧ ({ sv := 40 } : Accum).sv ≥ 0 ∧ ({ sv := -40 } : Accum).sv < 0
    ∧ ({ si := 40 } : Accum).si ≥ 0 ∧ ({ si := -40 } : Accum).si < 0 := by decide

/-- An accumulator in which both overload marks are set, and one in which the voltage mark alone is. -/
def overloaded : Accum := { overI := true, overV := some false }
def overVolted : Accum := { overV := some true }

theorem witness_ValuesAreJudgedByTheLimits_overload : dcvStep.kind = .dcv ∧ ({ dcvStep with kind := .acv } : Step).kind = .acv
    ∧ ({ dcvStep with kind := .resLoop } : Step).kind = .resLoop ∧ capStep.kind = .cap
    ∧ overloaded.overI = true ∧ overVolted.overI = false ∧ overVolted.overV = some true ∧ ({} : Accum).overV = none
    ∧ ({} : Accum).overI = false := by decide

theorem witness_ValuesAreJudgedByTheLimits : (-9 : Int).natAbs < 2 * 5 ∧ 2 * 5 ≤ (-10 : Int).natAbs ∧ (3 : Int) ≤ 3 ∧ (2 : Int) < 3
    ∧ ((0 : Int) < 7 ∧ (-10 : Int) < 0) ∧ ((-7 : Int) < 0 ∧ (0 : Int) < 10)
    ∧ ({ unit := .ohm, low := some 0 } : LimitSet).unit = Kind.resIns.unit
    ∧ ({ unit := .ohm, low := some 0 } : LimitSet).low ≠ none ∧ ({ unit := .ohm } : LimitSet).unit ≠ Kind.dcv.unit
    ∧ running.ms.stepOf { first := 0, count := 2 } 1 = some dcvStep := by decide +kernel

theorem witness_RoutineFailureMakesAProvisionalTicket : ({ desk with cls := .routine } : Request).cls = .routine
    ∧ (idle.core.line 5).ticket = none ∧ idle.core.tc.tickets.length < 256
    ∧ ∀ g, FaultClass.groundT.family = some g → ∀ t ∈ idle.core.tc.tickets,
        ¬(t.kind = .group ∧ t.subject = (idle.core.line 5).group ∧ t.cls = .family g) :=
  ⟨rfl, by decide, by decide, fun _ _ _ h => nomatch h⟩

/-- Line 5 names its ticket 1, which is so. -/
def named (t : Ticket) : Core := ((ticketed idle [t]).updLine 5 fun r => { r with ticket := some 1 }).core

/-- A ticket of line 5 in this state. -/
def inState (st : TicketState) : Ticket := { openTicket with state := st }

/-- A RETEST request for line 5 with this reason. -/
def retestOf (reason : Reason) : Request := { desk with cls := .retest, token := none, position := none, reason := some reason, ticketRef := some 1 }

/-- A ticket whose retest of this reason is outstanding. -/
def awaiting (reason : Reason) (attempts : Nat) : Ticket :=
  { openTicket with
    state := if reason = .confirm then .provisional else .verifying
    retest := some { reason := reason, attempts := attempts, due := .outstanding } }

/-- A direct failure of each kind, on a line with no ticket and on one with a ticket in each state. -/
theorem witness_RoutineFailureMakesAProvisionalTicket_direct :
    idle.core.farFromGroup 5 ∧ (∀ st, (named (inState st)).farFromGroup 5)
    ∧ idle.core.direct { desk with ticketFlag := true } .complete (some .groundT) false .groundT
    ∧ idle.core.direct (retestOf .hits) .complete (some .groundT) false .groundT
    ∧ idle.core.direct (retestOf .verify) .complete (some .groundT) false .groundT
    ∧ idle.core.direct (retestOf .lockout) .complete none false .permanentLoop
    ∧ idle.core.direct { desk with cls := .routine } .complete none true .degrading
    ∧ (idle.core.line 5).ticket = none ∧ idle.core.tc.tickets = []
    ∧ (∀ st, (named (inState st)).ticket 1 = some (inState st)) ∧ (∀ st, ((named (inState st)).line 5).ticket = some 1)
    ∧ (∀ st, (named (inState st)).direct { desk with ticketFlag := true } .complete (some .foreignVoltage) false .foreignVoltage) :=
  ⟨far_of (by decide +kernel), fun st => far_of (by cases st <;> decide +kernel), .inl ⟨rfl, rfl, rfl, rfl⟩, .inr (.inl ⟨rfl, rfl, rfl, .inl rfl⟩),
    .inr (.inr (.inl ⟨rfl, rfl, rfl, .verify, .inr rfl, rfl, fun t h => by
      have : idle.core.ticket t.number = none := rfl
      exact nomatch this.symm.trans h.2.2.2.1⟩)),
    .inr (.inr (.inr (.inl ⟨rfl, rfl, rfl, rfl, rfl, rfl⟩))), .inr (.inr (.inr (.inr ⟨rfl, rfl, rfl, rfl⟩))), rfl, rfl,
    fun st => by cases st <;> decide +kernel, fun st => by cases st <;> decide +kernel, fun _ => .inl ⟨rfl, rfl, rfl, rfl⟩⟩

/-- A matched retest, below and at its last attempt; and equipment tickets found, which stand or are CLOSING. -/
theorem witness_RoutineFailureMakesAProvisionalTicket_retest :
    (∀ reason ∈ [Reason.confirm, .verify], ∀ n ∈ [0, 2], (named (awaiting reason n)).matchedWith (retestOf reason) reason (awaiting reason n)
      ∧ (named (awaiting reason n)).farFromGroup 5)
    ∧ (∃ k, openTicket.cls = .fault k ∧ k.family = some .wet) ∧ FaultClass.groundR.family = some .wet
    ∧ FaultClass.openLoop.family = some .brk ∧ (awaiting .verify 0).state = .verifying
    ∧ (∀ st ∈ [TicketState.opened, .closing], ((closing .shelf).core.shelf 0).ticket = some 1
        ∧ (ticketed (closing .shelf) [{ shelfTicket with number := 1, state := st }]).core.ticket 1 =
            some { shelfTicket with number := 1, state := st }
        ∧ ((closing .testSet).core.testSet 0).ticket = some 1
        ∧ (ticketed idle [{ busTicket with state := st }]).core.tc.tickets.find? (fun u => decide (u.kind = .bus ∧ u.subject = 0)) =
            some { busTicket with state := st }) :=
  ⟨fun reason hr n hn => by
      simp only [List.mem_cons, List.not_mem_nil, or_false] at hr hn
      obtain rfl | rfl := hr <;> obtain rfl | rfl := hn <;>
        exact ⟨⟨rfl, rfl, rfl, by decide +kernel, rfl, rfl, _, rfl, rfl, rfl⟩, far_of (by decide +kernel)⟩,
    ⟨.groundT, rfl, rfl⟩, rfl, rfl, rfl, by decide +kernel⟩

/-- Lines 5 and 6 of cable 3 have OPEN tickets of the WET family, and two form a group. -/
def cable : Core :=
  (((ticketed idle [openTicket, { openTicket with number := 2, subject := 6 }]).updOh fun o => { o with params := { groupThreshold := 2 } }).updLine 5
    fun r => { r with group := 3, ticket := some 1 }).updLine 6 (fun r => { r with group := 3, ticket := some 2 }) |>.core

theorem witness_GroupFormsAtItsThreshold : cable.oh.params.groupThreshold ≤ (cable.qualifying 6).length ∧ cable.groupTicket 6 = none
    ∧ cable.tc.tickets.length < 256 ∧ (cable.tc.tickets.map (·.number)).Nodup
    ∧ ∀ t ∈ cable.tc.tickets, t.number ≠ cable.tc.freeNumber 256 cable.tc.counter := by decide +kernel

/-- Bus tickets of high numbers, to fill the table. -/
def filler (n : Nat) : List Ticket := (List.range n).map fun k => { busTicket with number := 100 + k }

/-- The cable in a full table: with no PROVISIONAL ticket, and with one. -/
def fullCable (more : List Ticket) : Core :=
  { cable with tc := { cable.tc with tickets := cable.tc.tickets ++ more ++ filler (254 - more.length) } }

def provisionalTicket : Ticket := { openTicket with number := 50, subject := 9, state := .provisional }

/-- The GROUP ticket of cable 3 and family WET, in this state. -/
def cableGroup (st : TicketState) : Ticket :=
  { groupTicket with number := 9, state := st, childCount := if st = .closing then 0 else 2, severity := 1, noticePending := decide (st = .closing) }

/-- The cable with its group ticket in this state and the tickets of lines 5 and 6 alone. -/
def closingCable : Core := { cable with tc := { cable.tc with tickets := cable.tc.tickets ++ [cableGroup .closing] } }

/-- Group 3, to which lines 5 and 6 belong, has its group ticket in this state; line 5 has ticket 1, which is t, and line 6 none. -/
def onCable (st : TicketState) (t : Ticket) : State :=
  ((ticketed unserved [cableGroup st, t]).updLine 5 fun r => { r with group := 3, ticket := some 1 }).updLine 6 fun r => { r with group := 3 }

/-- The ticket of line 5 alone, the table otherwise empty, in a cable whose threshold is 2. -/
def nearCable : Core := { cable with tc := { cable.tc with tickets := [openTicket] } }

theorem near_of {c : Core} {g : Nat}
    (h : ([2 * g, 2 * g + 1].all fun key => decide ((c.qualifying key).length + 1 < c.oh.params.groupThreshold)) = true) :
    ∀ key, key / 2 = g → (c.qualifying key).length + 1 < c.oh.params.groupThreshold :=
  fun key hk => by
    have := List.all_eq_true.mp h key (by simp only [List.mem_cons, List.not_mem_nil, or_false]; omega)
    simpa using this

theorem nodup_of {l : List Nat} (h : l.IsChain (· < ·)) : l.Nodup := (List.isChain_iff_pairwise.mp h).imp Nat.ne_of_lt

/-- A record below the threshold, one with a standing group, a full table, and a CLOSING group. -/
theorem witness_GroupFormsAtItsThreshold_others : (idle.core.qualifying 6).length < idle.core.oh.params.groupThreshold
    ∧ (onCable .opened openTicket).core.groupTicket 6 = some (cableGroup .opened) ∧ (cableGroup .opened).state ≠ .closing
    ∧ (∀ c ∈ [fullCable [], fullCable [provisionalTicket], closingCable], c.oh.params.groupThreshold ≤ (c.qualifying 6).length
      ∧ ∀ t ∈ c.tc.tickets, t.number ≠ c.tc.freeNumber 256 c.tc.counter)
    ∧ (∀ c ∈ [fullCable [], fullCable [provisionalTicket], closingCable], (c.tc.tickets.map (·.number)).Nodup)
    ∧ (∀ c ∈ [fullCable [], fullCable [provisionalTicket]], c.groupTicket 6 = none ∧ 256 ≤ c.tc.tickets.length)
    ∧ (∀ t ∈ (fullCable []).tc.tickets, t.state ≠ .provisional)
    ∧ (fullCable [provisionalTicket]).tc.tickets = cable.tc.tickets ++ provisionalTicket :: filler 253
    ∧ (∀ t ∈ cable.tc.tickets, t.state ≠ .provisional)
    ∧ closingCable.groupTicket 6 = some (cableGroup .closing) ∧ (cableGroup .closing).parent = none := by
  have n : ∀ c ∈ [fullCable [], fullCable [provisionalTicket], closingCable], (c.tc.tickets.map (·.number)).IsChain (· < ·) := by
    decide +kernel
  exact ⟨by decide +kernel, by decide +kernel, by decide, by decide +kernel, fun c hc => nodup_of (n c hc), by decide +kernel⟩

/-- A direct failure on line 6 brings the cable to its threshold. -/
theorem witness_GroupFormsAtItsThreshold_direct :
    nearCable.direct { desk with line := 6, ticketFlag := true } .complete (some .groundT) false .groundT
    ∧ (nearCable.tc.tickets.map (·.number)).Nodup ∧ FaultClass.groundT.family = some .wet ∧ (nearCable.line 6).group = 3
    ∧ nearCable.groupTicket 6 = none ∧ nearCable.oh.params.groupThreshold ≤ (nearCable.qualifying 6).length + 1
    ∧ nearCable.tc.tickets.length + 2 ≤ 256 ∧ nearCable.tc.counter = 1 :=
  ⟨.inl ⟨rfl, rfl, rfl, rfl⟩, by decide +kernel⟩

/-- A group ticket that stands, or is in verification, and a line with no ticket, or with a PROVISIONAL one. -/
theorem witness_GroupFormsAtItsThreshold_adoption :
    (∀ st ∈ [TicketState.opened, .verifying], ∀ n ∈ [0, 2],
      ((onCable st (awaiting .confirm n)).core.tc.tickets.map (·.number)).Nodup
      ∧ (onCable st (awaiting .confirm n)).core.groupTicket (2 * ((onCable st (awaiting .confirm n)).core.line 5).group + Family.wet.index)
          = some (cableGroup st)
      ∧ (onCable st (awaiting .confirm n)).core.ticket 1 = some (awaiting .confirm n)
      ∧ ((onCable st (awaiting .confirm n)).core.line 5).ticket = some 1 ∧ ((onCable st (awaiting .confirm n)).core.line 6).ticket = none
      ∧ ((onCable st (awaiting .confirm n)).core.line 6).group = 3
      ∧ (∀ t ∈ (onCable st (awaiting .confirm n)).core.tc.tickets, t.number ≠ (onCable st (awaiting .confirm n)).core.tc.freeNumber 256 1))
    ∧ (∀ st ∈ [TicketState.opened, .verifying],
      (onCable st (awaiting .confirm 2)).core.direct { desk with ticketFlag := true } .complete (some .groundT) false .groundT
      ∧ (onCable st (awaiting .confirm 2)).core.matchedWith (retestOf .confirm) .confirm (awaiting .confirm 2))
    ∧ (awaiting .confirm 2).cls = .fault .groundT ∧ (awaiting .confirm 2).state = .provisional := by
  refine ⟨by decide +kernel, fun st hs => ⟨.inl ⟨rfl, rfl, rfl, rfl⟩, rfl, rfl, rfl, ?_, rfl, rfl, _, rfl, rfl, rfl⟩, rfl, rfl⟩
  revert st
  decide +kernel

/-- A child of the group OPEN, one of a lesser class, and one in verification, all of line 5. -/
def children : List Ticket :=
  [{ openTicket with parent := some 9 }, { openTicket with cls := .fault .lowInsulation, severity := 1, parent := some 9 },
    { awaiting .verify 0 with parent := some 9 }]

/-- The failures and the retest that reach them: a raise within the family and one into the other. -/
theorem witness_GroupFormsAtItsThreshold_children :
    (∀ t ∈ children, ((onCable .opened t).core.tc.tickets.map (·.number)).Nodup ∧ (onCable .opened t).core.ticket 1 = some t
      ∧ (onCable .opened t).core.ticket 9 = some (cableGroup .opened) ∧ (t.cls = .fault .groundT ∨ t.cls = .fault .lowInsulation)
      ∧ ((onCable .opened t).core.line 5).ticket = some 1 ∧ ((onCable .opened t).core.line 5).group = 3)
    ∧ (∀ t ∈ children, ∀ key, key / 2 = 3 →
      ((onCable .opened t).core.qualifying key).length + 1 < (onCable .opened t).core.oh.params.groupThreshold)
    ∧ (∀ t cls, (onCable .opened t).core.direct { desk with ticketFlag := true } .complete (some cls) false cls)
    ∧ 1 < FaultClass.openLoop.severity ∧ FaultClass.openLoop.family ≠ FaultClass.lowInsulation.family
    ∧ 1 < FaultClass.groundR.severity ∧ FaultClass.groundR.family = FaultClass.lowInsulation.family
    ∧ (onCable .opened { awaiting .verify 0 with parent := some 9 }).core.matchedWith (retestOf .verify) .verify
        { awaiting .verify 0 with parent := some 9 } := by
  refine ⟨by decide +kernel, fun t ht key hk => ?_, fun _ _ => .inl ⟨rfl, rfl, rfl, rfl⟩, by decide, by decide, by decide, rfl,
    rfl, rfl, rfl, by decide +kernel, rfl, rfl, _, rfl, rfl, rfl⟩
  simp only [children, List.mem_cons, List.not_mem_nil, or_false] at ht
  obtain rfl | rfl | rfl := ht <;> exact near_of (g := 3) (by decide +kernel) key hk

/-- A LOAD LINE that moves line 5 from cable 3 to cable 4. -/
theorem witness_GroupFormsAtItsThreshold_load :
    let t : Ticket := { openTicket with parent := some 9 }
    (∀ s ∈ [onCable .opened t], s.Takes) ∧ (onCable .opened t).csi.saving = none
    ∧ (∀ k ∈ (onCable .opened t).core.tc.tickets, k.kind = .line → k.subject = 5 → k = t) ∧ (cableGroup .opened).subject = 3
    ∧ (∀ key, key / 2 = 4 → ((onCable .opened t).core.qualifying key).length + 1 < (onCable .opened t).core.oh.params.groupThreshold) :=
  ⟨takings (by decide +kernel), rfl, by decide +kernel, rfl, near_of (g := 4) (by decide +kernel)⟩

/-- R141: a LOAD LINE leaves a child of its line's own new group where it is, and releases one whose line has left the cable. -/
theorem test_regrouped :
    (((cable.examineGroup 6).lineRegrouped 5).ticket 1).map (·.parent) = ((cable.examineGroup 6).ticket 1).map (·.parent)
    ∧ ((cable.examineGroup 6).ticket 1).map (·.parent.isSome) = some true
    ∧ ((((cable.examineGroup 6).updLine 5 fun r => { r with group := 4 }).lineRegrouped 5).ticket 1).map (·.parent) = some none := by
  decide +kernel

end Sys2Proof.Tests
end

section
/-! SUPPORT. Sound states, one block at a time: what a change of one block, an answer, the end of a command and an order need to keep a sound part sound. -/

namespace Sys2Proof.Machine

/-! ### Sound states: changes of one block -/

section

variable {s : State}

/-- A change of the OH's record that leaves the counts, the token counter and the sweep's summary. -/
theorem State.Sound.setOh (h : s.Sound) {f : Oh → Oh} (hc : Oh.SameCounts s.core.oh (f s.core.oh))
    (ht : (f s.core.oh).tokenCounter = s.core.oh.tokenCounter) (hr : (f s.core.oh).sweepRunning = s.core.oh.sweepRunning)
    (hp : (f s.core.oh).passCount = s.core.oh.passCount) : (s.updOh f).Sound :=
  { h with
    core := { h.core with
      oh := ⟨hc.1.trans h.core.oh.count1, hc.2.1.trans h.core.oh.count2, hc.2.2.trans h.core.oh.count3, ht ▸ h.core.oh.token⟩ }
    running := hr.trans h.running
    passCount := hp.trans h.passCount }

theorem State.Sound.setMs (h : s.Sound) {f : Ms → Ms} (hf : (f s.ms).Sound) : (s.updMs f).Sound := { h with ms := hf }

theorem State.Sound.setHtp (h : s.Sound) {f : Htp → Htp} (hf : (f s.htp).Sound) : (s.updHtp f).Sound := { h with htp := hf }

theorem State.Sound.setCg (h : s.Sound) {f : Cg → Cg} (hf : (f s.cg).Sound) : (s.updCg f).Sound := { h with cg := hf }

theorem State.Sound.setCsi (h : s.Sound) (f : Csi → Csi) : (s.updCsi f).Sound := { h with }

/-- A change of the sweep that leaves its state and its pass count. -/
theorem State.Sound.setRs (h : s.Sound) {f : Rs → Rs} (hf : (f s.rs).Sound) (hr : (f s.rs).running = s.rs.running)
    (hp : (f s.rs).passCount = s.rs.passCount) : (s.updRs f).Sound :=
  { h with rs := hf, running := h.running.trans hr.symm, passCount := h.passCount.trans hp.symm }

/-- A fold of operations that each keep a state sound keeps it sound. -/
theorem State.Sound.foldl {β : Type} {f : State → β → State} {l : List β} (hf : ∀ x ∈ l, ∀ s : State, s.Sound → (f s x).Sound)
    (h : s.Sound) : (l.foldl f s).Sound := by
  induction l generalizing s with
  | nil => exact h
  | cons x l ih => exact ih (fun y hy => hf y (List.mem_cons_of_mem _ hy)) (hf x List.mem_cons_self s h)

/-! ### The UP insertion queue, answers and the end of a command -/

/-- A frame enters the UP insertion queue at a place of its sixteen (R167). -/
theorem State.Sound.insertUp (h : s.Sound) (f : OwnFrame) (hu : s.htp.up.insertion.length < 16) : (s.insertUp f).Sound :=
  h.setHtp ⟨by simpa [OutPort.insert] using hu, h.htp.down, h.htp.treatment, h.htp.stateMap⟩

theorem State.Sound.answer (h : s.Sound) (i : Instr) (a : Answer) (d : Octets) (hu : s.htp.up.insertion.length < 16) :
    (s.answer i a d).Sound := h.insertUp _ hu

theorem State.upFree_iff : s.upFree = true ↔ s.htp.up.insertion.length < 14 := decide_eq_true_iff

theorem State.upGuardFree_iff : s.upGuardFree = true ↔ s.htp.up.insertion.length < 16 := decide_eq_true_iff

/-- A taken order has a free place for its answer (R178). -/
theorem State.ohReady_room (h : s.ohReady = true) : s.htp.up.insertion.length < 14 := by
  simp only [State.ohReady, Bool.and_eq_true] at h
  exact State.upFree_iff.mp h.1

theorem State.Sound.setLatch (h : s.Sound) (f : Option Octets) : (s.updHtp fun x => { x with latch := f }).Sound :=
  h.setHtp ⟨h.htp.up, h.htp.down, h.htp.treatment, h.htp.stateMap⟩

theorem State.Sound.offerLatch (h : s.Sound) (f : Octets) : (s.offerLatch f).Sound := by
  unfold State.offerLatch State.latchFull
  split
  · exact h.setLatch _
  · split
    · next hu => exact h.insertUp _ (by have := State.upFree_iff.mp hu; omega)
    · exact h

theorem State.Sound.takeBadOrder (h : s.Sound) : s.takeBadOrder.Sound := by
  unfold State.takeBadOrder
  split
  · exact h
  · split
    · next hb =>
      have hu := State.ohReady_room (Bool.and_eq_true_iff.mp hb).2
      exact (h.setLatch none).insertUp _ (by simp; omega)
    · exact h

theorem State.Sound.examineReadiness (h : s.Sound) : s.examineReadiness.Sound := by
  unfold State.examineReadiness
  split
  · exact h.setOh ⟨rfl, rfl, rfl⟩ rfl rfl rfl
  · exact h

/-- The end of a command keeps a sound part sound. -/
theorem State.Sound.finish (h : s.Sound) : s.finish.Sound :=
  (((State.refreshConditions_kept (State.settle_kept (.refl s))).sound h).examineReadiness).takeBadOrder

theorem State.Sound.command {t : State} (h : s.Sound) {f : State → State} (hf : (f s).Sound) (e : s.command f = .next t) : t.Sound := by
  obtain rfl := Host.Outcome.next.inj e
  unfold State.whenLive
  split
  · exact h
  · exact hf.finish

/-- A command whose effect is that of a block behind the highway and the order handler. -/
theorem State.Sound.commandKept {t : State} (h : s.Sound) {f : State → State} (hf : State.Kept s (f s)) (e : s.command f = .next t) : t.Sound :=
  h.command (hf.sound h) e

/-- An order keeps a sound part sound where its judgement does, with a place free for its answer (R178). -/
theorem State.Sound.orderCommand {t : State} (h : s.Sound) {i : Instr} {judge : State → State}
    (hj : ∀ u : State, u.Sound → u.htp.up.insertion.length < 14 → (judge u).Sound) (e : s.orderCommand i judge = .next t) : t.Sound := by
  have judged : ∀ u : State, u.Sound → u.htp.up.insertion.length < 14 → (u.judgeOrder i judge).Sound := by
    intro u hu room
    unfold State.judgeOrder
    split
    · exact hj u hu room
    · exact hu.answer i _ _ (by omega)
  refine h.command ?_ e
  unfold State.takeOrder
  split
  · split
    · next hr => exact judged s h (State.ohReady_room hr)
    · exact h.offerLatch _
  · split
    · split
      · next hr => exact judged _ (h.setLatch none) (State.ohReady_room hr)
      · exact h
    · exact h.offerLatch _

end

end Sys2Proof.Machine
end

section
/-! SUPPORT. What the highway, the Call Guard, the placings, the timers, the links and the desk's orders keep of a sound part. -/

namespace Sys2Proof.Machine

variable {s : State}

/-! ### The highway and the Call Guard -/

theorem State.Sound.passDown (h : s.Sound) (f : Octets) : (s.passDown f).Sound := (State.passDown_kept (.refl s) f).sound h

theorem State.Sound.passUp (h : s.Sound) (f : Octets) : (s.passUp f).Sound := h.setHtp ⟨h.htp.up, h.htp.down, h.htp.treatment, h.htp.stateMap⟩

theorem State.Sound.forward (h : s.Sound) (port : Port) (f : Octets) : (s.forward port f).Sound := by
  cases port
  · exact h.passDown f
  · exact h.passUp f

theorem State.Sound.setReceiver (h : s.Sound) (port : Port) (r : Receiver) : (s.setReceiver port r).Sound := by
  cases port <;> exact h.setHtp ⟨h.htp.up, h.htp.down, h.htp.treatment, h.htp.stateMap⟩

theorem State.Sound.latchGuardRefused (h : s.Sound) : (s.updOh fun o => o.latchFlag .guardRefused).Sound :=
  (State.latchFlag_kept (.refl s) _).sound h

theorem State.Sound.holdOrder (h : s.Sound) (f : Octets) (l : Nat) (seize : Bool) (room : s.cg.held.length < 8) :
    (s.holdOrder f l seize).Sound :=
  h.setCg ⟨by simpa using room, h.cg.waiting⟩

theorem State.Sound.waitGuardNotice (h : s.Sound) (g : GuardNotice) (room : s.cg.waiting.length < 8) : (s.waitGuardNotice g).Sound :=
  h.setCg ⟨h.cg.held, by simpa using room⟩

theorem State.Sound.placeGuardNotice (h : s.Sound) : s.placeGuardNotice.Sound := by
  unfold State.placeGuardNotice
  split
  · exact h
  · next g rest hw =>
    split
    · next hu =>
      refine (h.insertUp _ (State.upGuardFree_iff.mp hu)).setCg ⟨h.cg.held, ?_⟩
      have := h.cg.waiting
      rw [hw, List.length_cons] at this
      exact Nat.le_of_succ_le this
    · exact h

/-- A waiting notice that finds a place leaves the list (R175). -/
theorem State.placeGuardNotice_waiting (hu : s.upGuardFree = true) : s.placeGuardNotice.cg.waiting = s.cg.waiting.drop 1 := by
  unfold State.placeGuardNotice
  split
  · next hw => simp [hw]
  · next hw => simp [hu, hw]

theorem State.Sound.refuseOrder (h : s.Sound) (f : Octets) (l : Nat) (seize : Bool) (r : GuardReason) :
    (s.refuseOrder f l seize r).Sound := by
  unfold State.refuseOrder
  dsimp only
  split
  · next hu => exact (h.insertUp _ (State.upGuardFree_iff.mp hu.1)).latchGuardRefused
  · split
    · next room => exact (h.waitGuardNotice _ room).latchGuardRefused
    · next full =>
      split
      · next hu =>
        refine (h.placeGuardNotice.waitGuardNotice _ ?_).latchGuardRefused
        have := h.cg.waiting
        rw [State.placeGuardNotice_waiting hu, List.length_drop]
        omega
      · exact h.passDown f

/-- The CG holds an order only where its buffer has room (R171). -/
theorem State.guardDecision_room {l : Nat} {seize : Bool}
    (hd : s.guardDecision l seize = .hold ∨ ∃ b, s.guardDecision l seize = .holdAndPreEmpt b) : s.cg.held.length < 8 := by
  by_contra room
  unfold State.guardDecision at hd
  simp only [room, decide_false, Bool.false_eq_true, if_false] at hd
  split at hd
  · simp at hd
  · split at hd
    · simp at hd
    · split at hd <;> simp at hd
    · split at hd <;> simp at hd
    · simp at hd

theorem State.Sound.callPath (h : s.Sound) (f : Octets) (l : Nat) (seize : Bool) : (s.callPath f l seize).Sound := by
  unfold State.callPath
  split
  · exact h.passDown f
  · next hd => exact h.holdOrder f l seize (State.guardDecision_room (.inl hd))
  · next b hd =>
    exact (State.preEmpt_kept (.refl _) b).sound (h.holdOrder f l seize (State.guardDecision_room (.inr ⟨b, hd⟩)))
  · exact h.refuseOrder f l seize _

theorem State.Sound.passFrame (h : s.Sound) (port : Port) (f : Octets) : (s.passFrame port f).Sound := by
  unfold State.passFrame
  dsimp only
  split
  · exact h
  · split
    · exact (State.lineReport_kept (.refl _) _ _).sound (h.forward _ f)
    · exact h.forward _ f
  · split
    · exact h.callPath f _ _
    · exact h.forward _ f
  · split
    · exact h.callPath f _ _
    · exact h.forward _ f
  all_goals exact h.forward _ f

theorem State.takeConfirm_kept (s : State) (n : Nat) (p : Octets) : State.Kept s (s.takeConfirm n p) := by
  unfold State.takeConfirm
  split
  · split
    · exact State.accessConfirm_kept (.refl s) _ _ _ _
    · exact .refl s
  · exact .refl s

theorem State.Sound.consume (h : s.Sound) (port : Port) (f : Octets) : (s.consume port f).Sound := by
  unfold State.consume
  split
  · split
    · exact h.offerLatch f
    · exact h
  · split
    · exact (s.takeConfirm_kept _ _).sound h
    · exact h

theorem State.Sound.frameEnds (h : s.Sound) (port : Port) (f : Octets) : (s.frameEnds port f).Sound := by
  unfold State.frameEnds
  split
  · exact h
  · split
    · split
      · exact h.consume port f
      · exact h.passFrame port f
    · exact h.forward port f

theorem OutPort.choose_length (p : OutPort) : p.choose.insertion.length ≤ p.insertion.length := by
  unfold OutPort.choose
  dsimp only
  split
  · exact Nat.le_refl _
  · split
    · next hi =>
      split
      · simp [hi]
      · split <;> exact Nat.le_refl _
    · split <;> exact Nat.le_refl _

theorem OutPort.sent_insertion (p : OutPort) : p.sent.insertion = p.insertion := by unfold OutPort.sent; split <;> rfl

theorem State.startConfirm_kept (s : State) (o : AccessOwner) : State.Kept s (s.startConfirm o) := by
  unfold State.startConfirm
  split
  · exact State.setOrder_kept (.refl s) _ _
  · exact .refl s

theorem State.setOrder_htp (s : State) (o : AccessOwner) (t : Transaction) : (s.setOrder o t).htp = s.htp := by cases o <;> rfl

theorem State.startConfirm_htp (s : State) (o : AccessOwner) : (s.startConfirm o).htp = s.htp := by
  unfold State.startConfirm
  split
  · exact s.setOrder_htp _ _
  · rfl

/-- A port's insertion queue is replaced by one no longer. -/
theorem State.Sound.setOutPort (h : s.Sound) (port : Port) {p : OutPort} (hp : p.insertion.length ≤ (s.outPort port).insertion.length) :
    (s.setOutPort port p).Sound := by
  cases port
  · exact h.setHtp ⟨Nat.le_trans hp h.htp.up, h.htp.down, h.htp.treatment, h.htp.stateMap⟩
  · exact h.setHtp ⟨h.htp.up, Nat.le_trans hp h.htp.down, h.htp.treatment, h.htp.stateMap⟩

theorem State.Sound.portFree (h : s.Sound) (port : Port) : (s.portFree port).Sound := by
  have hp : (s.outPort port).sent.choose.insertion.length ≤ (s.outPort port).insertion.length :=
    (s.outPort port).sent_insertion ▸ (s.outPort port).sent.choose_length
  unfold State.portFree
  dsimp only
  split
  · split
    · next o _ =>
      refine ((s.startConfirm_kept o).sound h).setOutPort port ?_
      have : (s.startConfirm o).outPort port = s.outPort port := by cases port <;> simp [State.outPort, s.startConfirm_htp o]
      rwa [this]
    · exact h.setOutPort port hp
  · exact h.setOutPort port hp
  · exact h.setOutPort port hp

/-! ### Placings -/

theorem State.Sound.placeOh (h : s.Sound) (w : OhFrame → Bool) : (s.placeOh w).Sound := by
  unfold State.placeOh
  split
  · exact h
  · split
    · next hu =>
      exact (h.insertUp _ (by have := State.upFree_iff.mp hu.2; omega)).setOh ⟨rfl, rfl, rfl⟩ rfl rfl rfl
    · exact h

theorem State.Sound.placeResult (h : s.Sound) : s.placeResult.Sound := by
  unfold State.placeResult
  split
  · exact h
  · next r rest hr =>
    split
    · next hu =>
      refine (h.insertUp _ (by have := State.upFree_iff.mp hu; omega)).setMs
        { h.ms with results := ?_, programme := h.ms.programme, run := h.ms.run }
      have := h.ms.results
      rw [hr, List.length_cons] at this
      exact Nat.le_of_succ_le this
    · exact h

/-- The notice at the head of the list is sent: its ticket is pending no longer (R130). -/
theorem Core.Sound.sendNotice {c : Core} (h : c.Sound) {n : Nat} {rest : List Nat} (hn : c.tc.notices = n :: rest) :
    ((c.putTicket n fun t => { t with noticePending := false }).updTc fun tc => { tc with notices := rest }).Sound := by
  have hd := h.tc.notices
  rw [hn, List.nodup_cons] at hd
  have hr : rest = c.tc.notices.filter fun m => decide (m ≠ n) := by
    rw [hn, List.filter_cons_of_neg (by simp)]
    exact (List.filter_eq_self.mpr fun m hm => by simpa using fun e : m = n => hd.1 (e ▸ hm)).symm
  have hs := h.silence n (f := fun t => { t with noticePending := false }) (fun _ => rfl) (fun _ k => ⟨k.1, k.2, k.3, k.4, k.5⟩) fun _ => rfl
  have hp : ∀ f, (c.putTicket n f).tc.notices = c.tc.notices := fun f => by unfold Core.putTicket; split <;> rfl
  simpa only [Core.updTc, hp, ← hr] using hs

theorem State.Sound.placeNotice (h : s.Sound) : s.placeNotice.Sound := by
  unfold State.placeNotice
  split
  · exact h
  · next n rest hn =>
    split
    · next hu =>
      split
      · next ht =>
        obtain ⟨t, hm, e, _⟩ := (h.core.tc.pending n).mp (by simp [hn])
        have := List.find?_eq_none.mp ht t hm
        simp [e] at this
      · next t ht =>
        have hi := h.insertUp (s.toControl kindTicket (ticketPayload t ((s.core.children n).map (·.number))))
          (by have := State.upFree_iff.mp hu; omega)
        have hk : Oh.Kept s.core.oh (s.core.putTicket n fun t => { t with noticePending := false }).oh := (s.core.putTicket_frame n _).2
        have hs := h.core.sendNotice hn
        split
        · have hd := Core.dropTicket_kept (.refl ((s.core.putTicket n fun t => { t with noticePending := false }).updTc
            fun tc => { tc with notices := rest })) n
          exact { hi with
            core := hd.sound hs
            running := (hd.oh.sweepRunning.trans hk.sweepRunning).trans h.running
            passCount := (hd.oh.passCount.trans hk.passCount).trans h.passCount }
        · exact { hi with core := hs, running := hk.sweepRunning.trans h.running, passCount := hk.passCount.trans h.passCount }
    · exact h

/-! ### Timers and links -/

theorem State.placeOrder_kept (s : State) (o : AccessOwner) : State.Kept s (s.placeOrder o) := by
  unfold State.placeOrder
  split
  · split <;> simp
  all_goals exact .refl s

theorem State.confirmExpires_kept (s : State) (o : AccessOwner) : State.Kept s (s.confirmExpires o) := by
  unfold State.confirmExpires
  split
  · split <;> simp
  all_goals exact .refl s

theorem State.shelfProbeDue_kept (s : State) (n : Nat) : State.Kept s (s.shelfProbeDue n) := by
  unfold State.shelfProbeDue
  split
  · exact .refl s
  · split
    · dsimp only; split <;> simp (maxDischargeDepth := 20)
    · exact .refl s

theorem State.waitExpires_kept (s : State) (l : Nat) : State.Kept s (s.waitExpires l) := by
  unfold State.waitExpires
  split
  · exact .refl s
  · split <;> simp

theorem State.retestFallsDue_kept (s : State) (n : Nat) : State.Kept s (s.retestFallsDue n) := by
  unfold State.retestFallsDue
  split
  · exact .refl s
  · split
    · split <;> simp
    all_goals exact .refl s

theorem State.identityArrives_kept (s : State) (n : Nat) (o : Octets) : State.Kept s (s.identityArrives n o) := by
  unfold State.identityArrives
  split
  · exact .refl s
  · split <;> simp

theorem State.sampleArrives_kept (s : State) (n : Nat) (o : Octets) : State.Kept s (s.sampleArrives n o) := by
  unfold State.sampleArrives
  split
  · exact .refl s
  · split <;> simp

theorem State.setProbeDue_kept (s : State) (n : Nat) : State.Kept s (s.setProbeDue n) := by
  unfold State.setProbeDue
  split
  · exact .refl s
  · split
    · split <;> simp
    · exact .refl s

theorem State.settleEnds_kept (s : State) (b : Nat) : State.Kept s (s.settleEnds b) := by
  unfold State.settleEnds
  split
  · exact .refl s
  · split <;> simp

/-! ### The desk -/

theorem nextToken_range (n : Nat) : 1 ≤ nextToken n ∧ nextToken n ≤ 255 := by unfold nextToken; split <;> omega

theorem State.Sound.setToken (h : s.Sound) (n : Nat) : (s.updOh fun o => { o with tokenCounter := nextToken n }).Sound :=
  { h with core := { h.core with oh := ⟨h.core.oh.count1, h.core.oh.count2, h.core.oh.count3, nextToken_range n⟩ } }

/-- A kept effect leaves an order's place for its answer free. -/
theorem State.Kept.answer {u : State} (k : State.Kept s u) (h : s.Sound) (room : s.htp.up.insertion.length < 14) (i : Instr) (a : Answer)
    (d : Octets) : (u.answer i a d).Sound :=
  (k.sound h).answer i a d (by rw [k.up]; omega)

theorem State.Sound.takeTest (h : s.Sound) (room : s.htp.up.insertion.length < 14) (i : Instr) (p : Byte) (l : BitVec 16) (q f : Byte)
    (w v : BitVec 16) : (s.takeTest i p l q f w v).Sound := by
  have hk := State.offer_kept (.refl s) (s.deskRequest p l q f w v (s.freeToken 255 s.core.oh.tokenCounter))
  unfold State.takeTest
  split
  · dsimp only
    split
    · next u he =>
      have k : State.Kept s u := by rwa [he] at hk
      exact ((k.sound h).setToken _).answer i _ _ (by simp [k.up]; omega)
    · next u a he =>
      have k : State.Kept s u := by rwa [he] at hk
      exact k.answer h room i _ _
  · exact h.answer i _ _ (by omega)

theorem State.takeRun_kept (s : State) (b p : Nat) : State.Kept s (s.takeRun b p) := by unfold State.takeRun; split <;> simp

theorem State.releaseSlot_kept (s : State) (b : Nat) : State.Kept s (s.releaseSlot b) := by
  unfold State.releaseSlot
  split
  · split <;> simp
  all_goals simp (maxDischargeDepth := 20)

theorem State.cancelSlot_kept (s : State) (b : Nat) : State.Kept s (s.cancelSlot b) := by
  unfold State.cancelSlot
  split
  · split <;> simp (maxDischargeDepth := 20)
  all_goals simp (maxDischargeDepth := 20)

theorem State.releaseToken_kept {u : State} {token : Nat} (h : s.releaseToken token = some u) : State.Kept s u := by
  unfold State.releaseToken at h
  split at h
  · obtain rfl := Option.some.inj h; exact s.releaseSlot_kept _
  · obtain ⟨r, _, rfl⟩ := Option.map_eq_some_iff.mp h; simp

theorem State.cancelToken_kept {u : State} {token : Nat} (h : s.cancelToken token = some u) : State.Kept s u := by
  unfold State.cancelToken at h
  split at h
  · obtain rfl := Option.some.inj h; exact s.cancelSlot_kept _
  · obtain ⟨r, _, rfl⟩ := Option.map_eq_some_iff.mp h; simp

@[simp] theorem State.clearProbeShelf_kept {s₀ : State} (h : State.Kept s₀ s) (n : Nat) : State.Kept s₀ (s.clearProbeShelf n) := by
  unfold State.clearProbeShelf
  split
  · refine State.makeReady_kept (State.updShelf_kept h n (ShelfRec.keeps_of ?_ ?_)) _ _
    all_goals intro r k; split <;> exact k
  · exact h

theorem State.clearProbe_kept (s : State) (k : TicketKind) (n : Nat) : State.Kept s (s.clearProbe k n) := by
  unfold State.clearProbe State.clearProbeBus
  repeat' split
  all_goals simp

theorem State.clearLine_kept (s : State) (t : Ticket) : State.Kept s (s.clearLine t) := by
  unfold State.clearLine
  dsimp only
  split <;> simp (maxDischargeDepth := 20)

theorem State.clearGroup_kept (s : State) (t : Ticket) : State.Kept s (s.clearGroup t) :=
  State.foldl_kept (fun u n => State.offerFallen_kept (.refl u) n) _
    (State.updCore_kept (f := fun c => (c.fanOut t.number).1) (.refl s) (Core.fanOut_kept (.refl _) _))

theorem State.clearTicket_kept (s : State) (n : Nat) : State.Kept s (s.clearTicket n).1 := by
  unfold State.clearTicket
  repeat' split
  all_goals first | exact .refl s | exact s.clearLine_kept _ | exact s.clearGroup_kept _ | exact s.clearProbe_kept _ _

end Sys2Proof.Machine
end

section
/-! SUPPORT. What the sweep, LOAD, the configuration image, start-up and RESTART keep of a sound part. -/

namespace Sys2Proof.Machine

variable {s : State}

/-! ### The routine sweep -/

/-- The sweep's place changes and nothing else. -/
theorem State.Sound.moveCursor (h : s.Sound) (k l : Nat) : (s.updRs fun r => { r with cursorRange := k, cursorLine := l }).Sound :=
  h.setRs ⟨h.rs.1, h.rs.2, h.rs.3, h.rs.4, h.rs.5⟩ rfl rfl

theorem State.Sound.endPass (h : s.Sound) : s.endPass.Sound := by
  unfold State.endPass
  split
  · exact h
  · next k _ =>
    exact { h with
      core := { h.core with oh := ⟨h.core.oh.1, h.core.oh.2, h.core.oh.3, h.core.oh.4⟩, lines := Table.wf_mapAll h.core.lines }
      rs := ⟨h.rs.1, h.rs.2, h.rs.3, Nat.mod_lt _ (by decide), h.rs.5⟩
      running := h.running
      passCount := rfl }

theorem State.Sound.leaveRange (h : s.Sound) : s.leaveRange.Sound := by
  unfold State.leaveRange
  split
  · exact h.moveCursor _ _
  · exact h.endPass

theorem State.Sound.settleCursor (h : s.Sound) : s.settleCursor.Sound := by
  unfold State.settleCursor
  dsimp only
  split
  · exact h.leaveRange
  · split
    · exact h.moveCursor _ _
    · exact h

theorem State.Sound.advanceCursor (h : s.Sound) : s.advanceCursor.Sound := by
  unfold State.advanceCursor
  split
  · exact h.moveCursor _ _
  · exact h.leaveRange

theorem State.Sound.offerRoutine (h : s.Sound) (l : Nat) : (s.offerRoutine l).Sound := by
  have k := State.offerCore_kept (.refl s) (s.backgroundRequest .routine l (s.routineProgramme l) 120 none none)
  unfold State.offerRoutine
  split
  · next u he =>
    have hu := k.sound h
    rw [he] at hu
    exact (State.settle_kept (.refl _)).sound hu.advanceCursor
  · next u a he => have := k.sound h; rwa [he] at this

theorem State.Sound.scan (n : Nat) (a b : Nat) (h : s.Sound) : (State.scan a b n s).Sound := by
  induction n generalizing s with
  | zero => exact h
  | succ n ih =>
    unfold State.scan
    dsimp only
    split
    · exact h.offerRoutine _
    · have hm : (if s.passedOver s.rs.cursorLine then s else s.markSkipped s.rs.cursorLine).Sound := by
        split
        · exact h
        · exact (State.markSkipped_kept (.refl s) _).sound h
      generalize (if s.passedOver s.rs.cursorLine then s else s.markSkipped s.rs.cursorLine) = u at hm ⊢
      split
      · exact hm.advanceCursor
      · exact ih hm.advanceCursor

theorem State.Sound.pace (h : s.Sound) : s.pace.Sound := by
  unfold State.pace
  split
  · exact h
  · split
    · exact h
    · exact State.Sound.scan _ _ _ h.settleCursor

theorem Rs.tick_frame (r : Rs) : r.tick.running = r.running ∧ r.tick.passCount = r.passCount := by
  unfold Rs.tick
  dsimp only
  split
  · split <;> exact ⟨rfl, rfl⟩
  · exact ⟨rfl, rfl⟩

theorem Rs.Sound.tick {r : Rs} (h : r.Sound) : r.tick.Sound := by
  have ha := h.accumulator
  have hi := h.increment
  unfold Rs.tick
  dsimp only
  split
  · split
    · exact ⟨by simp only; omega, h.2, h.3, h.4, h.5⟩
    · exact ⟨by simp only; omega, h.2, h.3, h.4, h.5⟩
  · exact ⟨h.1, h.2, h.3, h.4, h.5⟩

theorem Rs.takeIncrement_frame (r : Rs) : r.takeIncrement.running = r.running ∧ r.takeIncrement.passCount = r.passCount := by
  unfold Rs.takeIncrement; split <;> exact ⟨rfl, rfl⟩

theorem Rs.Sound.takeIncrement {r : Rs} (h : r.Sound) : r.takeIncrement.Sound := by
  unfold Rs.takeIncrement
  split
  · next i hi => exact ⟨h.1, h.3 i hi, (fun _ e => nomatch e), h.4, h.5⟩
  · exact ⟨h.1, h.2, h.3, h.4, h.5⟩

theorem Rs.setRate_frame (r : Rs) (v : Nat) : (r.setRate v).running = r.running ∧ (r.setRate v).passCount = r.passCount := by
  unfold Rs.setRate; split <;> exact ⟨rfl, rfl⟩

theorem Rs.Sound.setRate {r : Rs} (h : r.Sound) {v : Nat} (hv : v ≤ 65535) : (r.setRate v).Sound := by
  unfold Rs.setRate
  split
  · exact ⟨h.1, hv, (fun _ e => nomatch e), h.4, h.5⟩
  · exact ⟨h.1, h.2, fun i e => Option.some.inj e ▸ hv, h.4, h.5⟩

theorem State.Sound.setSweep (h : s.Sound) (on : Bool) : (s.setSweep on).Sound :=
  { h with
    core := { h.core with oh := ⟨h.core.oh.1, h.core.oh.2, h.core.oh.3, h.core.oh.4⟩ }
    rs := ⟨h.rs.1, h.rs.2, h.rs.3, h.rs.4, h.rs.5⟩
    running := rfl }

theorem State.Sound.tick (h : s.Sound) : ((s.updCore fun c => { c with timeMs := c.timeMs + 1 }).updRs Rs.tick).Sound :=
  have ht : (s.updCore fun c => { c with timeMs := c.timeMs + 1 }).Sound := { h with core := { h.core with } }
  ht.setRs h.rs.tick s.rs.tick_frame.1 s.rs.tick_frame.2

/-! ### LOAD -/

/-- What a record that is taken has, every record of an order that is taken has. -/
theorem judgeAll_ok {α β : Type} {judge : α → Judged β} {P : β → Prop} (hj : ∀ x y, judge x = .ok y → P y) {l : List α} {n : Nat}
    {ys : List β} (h : judgeAll judge n l = .ok ys) : ∀ y ∈ ys, P y := by
  induction l generalizing n ys with
  | nil => obtain rfl := Except.ok.inj h; simp
  | cons x l ih =>
    unfold judgeAll at h
    split at h
    · exact absurd h (by simp)
    · next y hy =>
      split at h
      · exact absurd h (by simp)
      · next zs hz =>
        obtain rfl := Except.ok.inj h
        exact List.forall_mem_cons.mpr ⟨hj x y hy, ih hz⟩

/-- A LOAD keeps a sound part sound where the records it applies do. -/
theorem State.Sound.load {β : Type} (h : s.Sound) (room : s.htp.up.insertion.length < 14) (i : Instr)
    {judged : Except (Answer × Nat) (List β)} {apply : State → List β → State}
    (ha : ∀ rs, judged = .ok rs → ∀ u : State, u.Sound → (apply u rs).Sound) : (s.load i judged apply).Sound := by
  unfold State.load
  split
  · exact h.answer i _ _ (by omega)
  · split
    · exact h.answer i _ _ (by omega)
    · exact ha _ rfl _ (h.answer i _ _ (by omega))

theorem State.Sound.loadSome {α β : Type} (h : s.Sound) (room : s.htp.up.insertion.length < 14) (i : Instr) (records : List α)
    {judge : α → Judged β} {apply : State → List β → State}
    (ha : ∀ rs, judgeAll judge 0 records = .ok rs → ∀ u : State, u.Sound → (apply u rs).Sound) :
    (s.loadSome i records judge apply).Sound := by
  unfold State.loadSome
  split
  · exact h.answer i _ _ (by omega)
  · exact h.load room i ha

/-- A LOAD whose records are applied one after another. -/
theorem State.Sound.loadEach {α β : Type} (h : s.Sound) (room : s.htp.up.insertion.length < 14) (i : Instr) (records : List α)
    {judge : α → Judged β} {apply : State → β → State}
    (ha : ∀ x y, judge x = .ok y → ∀ u : State, u.Sound → (apply u y).Sound) :
    (s.loadSome i records judge fun s rs => rs.foldl apply s).Sound :=
  h.loadSome room i records fun _ hr _ hu => hu.foldl (judgeAll_ok (P := fun y => ∀ u : State, u.Sound → (apply u y).Sound) ha hr)

theorem State.reagreeAll_kept (s : State) : State.Kept s (slotNumbers.foldl State.reagree s) :=
  State.foldl_kept (fun u n => State.reagree_kept (.refl u) n) _ (.refl s)

theorem State.examineLockouts_kept (s : State) : State.Kept s s.examineLockouts :=
  State.foldl_kept (fun u _ => State.examineLockout_kept (.refl u) _) _ (.refl s)

theorem State.Sound.applyParameters (h : s.Sound) (p : Params) : (s.applyParameters p).Sound := by
  have hp : (s.updOh fun o => { o with params := p, station := stationOf p s.straps }).Sound := h.setOh ⟨rfl, rfl, rfl⟩ rfl rfl rfl
  have hq := (State.quotaChanged_kept (.refl _) s.params.routineQuota).sound hp
  unfold State.applyParameters
  dsimp only
  split
  · split
    · exact hq
    · exact (State.examineLockouts_kept _).sound hq
  · split
    · exact (State.reagreeAll_kept _).sound hq
    · exact (State.reagreeAll_kept _).sound ((State.examineLockouts_kept _).sound hq)

theorem State.setLineSetting_kept (s : State) (l : Nat) (r : LineSetting) : State.Kept s (s.setLineSetting l r) :=
  State.updLine_kept (.refl s) l _

theorem State.applyLines_kept (s : State) (rs : List (Nat × LineSetting)) : State.Kept s (s.applyLines rs) :=
  State.foldl_kept (fun u l => State.lineRegrouped_kept (.refl u) l) _ (State.foldl_kept (fun u _ => u.setLineSetting_kept _ _) _ (.refl s))

theorem State.setFitted_kept (s : State) (r : Nat × Bool) : State.Kept s (s.setFitted r) := State.updShelf_kept (.refl s) _ (by simp)

theorem State.applyShelves_kept (s : State) (rs : List (Nat × Bool)) : State.Kept s (s.applyShelves rs) :=
  State.foldl_kept (fun u n => by split <;> simp) _ (State.foldl_kept (fun u r => u.setFitted_kept r) _ (.refl s))

theorem State.Sound.setTreatment (h : s.Sound) (r : Nat × TreatmentEntry) : (s.setTreatment r).Sound :=
  h.setHtp ⟨h.htp.up, h.htp.down, Table.wf_set h.htp.treatment, h.htp.stateMap⟩

theorem State.Sound.setMapEntry (h : s.Sound) (r : Nat × Option CallState) : (s.setMapEntry r).Sound :=
  h.setHtp ⟨h.htp.up, h.htp.down, h.htp.treatment, Table.wf_set h.htp.stateMap⟩

/-- A programme of at most 12 steps is written (R68). -/
theorem State.Sound.setProgramme (h : s.Sound) (r : Nat × Option Programme) (hr : ∀ p, r.2 = some p → p.count ≤ 12) :
    (s.setProgramme r).Sound := by
  refine h.setMs { h.ms with programmes := Table.wf_set h.ms.programmes, programme := fun n p hn => ?_, run := h.ms.run }
  simp only [Ms.programme, Table.get_set] at hn
  split at hn
  · exact hr p hn
  · exact h.ms.programme n p hn

theorem State.Sound.setStep (h : s.Sound) (r : Nat × Option Step) : (s.setStep r).Sound :=
  h.setMs { h.ms with steps := Table.wf_set h.ms.steps, programme := h.ms.programme, run := h.ms.run }

theorem State.Sound.setLimit (h : s.Sound) (r : Nat × LimitSet) : (s.setLimit r).Sound :=
  h.setMs { h.ms with limits := Table.wf_set h.ms.limits, programme := h.ms.programme, run := h.ms.run }

theorem State.Sound.setRange (h : s.Sound) (r : Nat × SweepRange) : (s.setRange r).Sound :=
  h.setRs { h.rs with ranges := Table.wf_set h.rs.ranges } rfl rfl

/-- A PROGRAMME record that is taken has at most 12 steps (R68). -/
theorem State.judgeProgramme_count {r : ProgrammeArg} {y : Nat × Option Programme} (h : s.judgeProgramme r = .ok y) :
    ∀ p, y.2 = some p → p.count ≤ 12 := by
  unfold State.judgeProgramme at h
  split at h
  · exact absurd h (by simp)
  · split at h
    · exact absurd h (by simp)
    · unfold State.programmeContents Judged.guard at h
      dsimp only at h
      intro p hp
      split at h
      · obtain rfl := Except.ok.inj h; exact absurd hp (by simp)
      · split at h
        · obtain rfl := Except.ok.inj h; obtain rfl := Option.some.inj hp; exact Nat.min_le_left _ _
        · exact absurd h (by simp [Except.map])

/-! ### The configuration image -/

theorem State.Sound.imageParameters (h : s.Sound) (p : Params) : (s.imageParameters p).Sound :=
  (State.setQuota_kept (.refl _) fun _ => p.routineQuota).sound
    (h.setOh (f := fun o => { o with params := p, station := stationOf p s.straps }) ⟨rfl, rfl, rfl⟩ rfl rfl rfl)

theorem State.Sound.applySection {α β : Type} (h : s.Sound) {one : Octets → Option (α × Octets)} {judge : α × Nat → Judged β}
    {apply : State → β → State} (ha : ∀ x y, judge x = .ok y → ∀ u : State, u.Sound → (apply u y).Sound) {n : Nat} {o : Octets}
    {r : State × Octets} (hr : applySection s one judge apply n o = some r) : r.1.Sound := by
  unfold Machine.applySection at hr
  split at hr
  · exact absurd hr (by simp)
  · split at hr
    · next hj =>
      obtain rfl := Option.some.inj hr
      exact h.foldl (judgeAll_ok (P := fun y => ∀ u : State, u.Sound → (apply u y).Sound) ha hj)
    · exact absurd hr (by simp)

theorem State.Sound.imageSection (h : s.Sound) {code n : Nat} {o : Octets} {r : State × Octets} (hr : imageSection s code n o = some r) :
    r.1.Sound := by
  unfold Machine.imageSection at hr
  split at hr
  · exact h.applySection (fun _ y _ u hu => hu.imageParameters y) hr
  · exact h.applySection (fun _ y _ u hu => hu.setStep y) hr
  · exact h.applySection (fun _ y hy u hu => hu.setProgramme y (State.judgeProgramme_count hy)) hr
  · exact h.applySection (fun _ y _ u hu => hu.setLimit y) hr
  · exact h.applySection (fun _ y _ u hu => (u.setLineSetting_kept _ _).sound hu) hr
  · exact h.applySection (fun _ y _ u hu => (u.setFitted_kept y).sound hu) hr
  · exact h.applySection (fun _ y _ u hu => hu.setTreatment y) hr
  · exact h.applySection (fun _ y _ u hu => hu.setMapEntry y) hr
  · exact h.applySection (fun _ y _ u hu => hu.setRange y) hr
  all_goals exact absurd hr (by simp)

theorem State.Sound.imageSections (n : Nat) {o : Octets} {u : State} (h : s.Sound) (hu : imageSections n s o = some u) : u.Sound := by
  induction n generalizing s o with
  | zero =>
    cases o with
    | nil => obtain rfl := Option.some.inj hu; exact h
    | cons => exact absurd hu (by simp [Machine.imageSections])
  | succ n ih =>
    unfold Machine.imageSections at hu
    split at hu
    · obtain rfl := Option.some.inj hu; exact h
    · next e => 
      obtain rfl : n = _ := Nat.succ.inj e
      split at hu
      · exact absurd hu (by simp)
      · next hs => exact ih (h.imageSection hs) hu
    · exact absurd hu (by simp)

theorem State.Sound.loadImage (h : s.Sound) {o : Octets} {u : State} (hu : s.loadImage o = some u) : u.Sound := by
  unfold State.loadImage at hu
  split at hu
  · exact absurd hu (by simp)
  · next v hv =>
    obtain ⟨body, _, hb⟩ := Option.bind_eq_some_iff.mp hv
    obtain rfl := Option.some.inj hu
    exact (State.Sound.imageSections _ h hb).moveCursor _ _

theorem State.Sound.writeBlock (h : s.Sound) (r : Byte) (k : Nat) : (s.writeBlock r k).Sound := h.setCsi _

theorem State.Sound.saveEnds (h : s.Sound) (r : Byte) (a : Answer) : (s.saveEnds r a).Sound := (h.setCsi _).setOh ⟨rfl, rfl, rfl⟩ rfl rfl rfl

/-! ### Start-up and RESTART -/

/-- The part right after the release of reset is sound. -/
theorem State.reset_sound : State.reset.Sound where
  core :=
    { tc := ⟨by decide, by decide, List.nodup_nil, by simp [State.reset], List.nodup_nil, by simp [State.reset]⟩
      oh := ⟨rfl, rfl, rfl, by decide⟩
      shelf := fun _ => (⟨by decide, by decide⟩ : ({} : ShelfRec).Sound)
      testSet := fun _ => (⟨by decide, by decide, by decide, by decide⟩ : ({} : TestSet).Sound)
      lines := rfl, shelves := rfl, sets := rfl, groups := rfl }
  rs := ⟨by decide, by decide, (fun _ e => nomatch e), by decide, rfl⟩
  ms :=
    { results := Nat.zero_le 64, programmes := rfl, steps := rfl, limits := rfl, runs := rfl, pendingRuns := rfl
      programme := (fun _ _ e => nomatch e), run := fun _ _ e => nomatch e }
  ac := ⟨Nat.zero_le 32, rfl, fun _ => ⟨Nat.zero_le 3, Nat.zero_le 1⟩⟩
  htp := ⟨Nat.zero_le 16, Nat.zero_le 16, rfl, rfl⟩
  cg := ⟨Nat.zero_le 8, Nat.zero_le 8⟩
  running := rfl
  passCount := rfl

/-- The part at power-on is sound, whatever its straps and its store. -/
theorem State.powerOn_sound (s : State) (straps : BitVec 6) : (s.powerOn straps).Sound :=
  { State.reset_sound with core := { State.reset_sound.core with oh := ⟨rfl, rfl, rfl, State.reset_sound.core.oh.token⟩ } }

theorem State.Sound.beginService (h : s.Sound) : s.beginService.Sound := by
  unfold State.beginService
  refine (State.foldl_kept (fun u n => State.enumerate_kept (.refl u) n) slotNumbers
    (State.foldl_kept (fun u n => State.probeShelf_kept (.refl u) n) _ (.refl _))).sound (h.setCsi _)

theorem State.Sound.defaulted (h : s.Sound) : s.defaulted.Sound := (State.latchFlag_kept (.refl s) _).sound h

theorem State.restartGuard_kept (s : State) : State.Kept s s.restartGuard :=
  (State.foldl_kept (fun u x => State.passDown_kept (.refl u) x.frame) s.cg.held (.refl s)).trans
    { State.Kept.refl _ with held := Nat.zero_le _ }

theorem State.restartSlot_kept (s : State) (b : Nat) : State.Kept s (s.restartSlot b) := by
  have he := State.endOrder_kept (.refl s) (slotOwner b)
  have hr : State.Kept s (if (s.endOrder (slotOwner b)).downFree then (s.endOrder (slotOwner b)).insertDown
      { (s.endOrder (slotOwner b)).accessFrame (slotOwner b) .release with owner := none } else s.endOrder (slotOwner b)) := by
    split
    · next hf => exact State.insertDown_kept he _ hf
    · exact he
  unfold State.restartSlot
  split
  · dsimp only
    split
    · exact State.updLine_kept (State.updSlot_kept hr _ (by simp)) _ _
    · exact State.updSlot_kept hr _ (by simp)
  · exact he

/-- The runs and the pending runs are dropped (R86). -/
theorem State.dropRuns_kept (s : State) : State.Kept s (s.updMs fun m => { m with runs := [], pendingRuns := [] }) :=
  State.updMs_kept (.refl s) rfl rfl rfl fun k =>
    { k with runs := rfl, pendingRuns := rfl, programme := k.programme, run := fun _ _ e => nomatch e }

theorem State.restartShelf_kept (s : State) (n : Nat) : State.Kept s (s.restartShelf n) :=
  State.updShelf_kept (State.probeShelf_kept (.refl s) n) n (ShelfRec.keeps_of (fun _ _ => Nat.sub_le _ _) fun _ k => k)

theorem State.restartAccess_kept (s : State) : State.Kept s s.restartAccess := by
  unfold State.restartAccess
  dsimp only
  refine State.foldl_kept (fun u n => u.restartShelf_kept n) _ (State.updAc_kept ?_ fun k => ⟨Nat.zero_le _, k.2, k.3⟩)
  refine State.foldl_kept (fun u r => State.updLine_kept (.refl u) _ _) _ ?_
  refine State.foldl_kept (fun u e => State.resultOf_kept (.refl u) _ _ _) _ ?_
  exact (State.foldl_kept (fun u b => u.restartSlot_kept b) slotNumbers (.refl s)).trans (State.dropRuns_kept _)

theorem State.restartLink_kept (s : State) (n : Nat) : State.Kept s (s.restartLink n) := by
  unfold State.restartLink
  dsimp only
  split
  · exact State.sendStream_kept (State.sourceOff_kept (State.stopStepTimers_kept (.refl s) n) n) n false
  · exact State.stopStepTimers_kept (.refl s) n

theorem State.Sound.restartSweep (h : s.Sound) : s.restartSweep.Sound :=
  { h with
    core := { h.core with oh := ⟨h.core.oh.1, h.core.oh.2, h.core.oh.3, h.core.oh.4⟩ }
    rs := ⟨by simp [State.restartSweep], h.rs.2, h.rs.3, h.rs.4, h.rs.5⟩
    running := rfl }

/-- What RESTART does but for the sweep. -/
theorem State.restartWork_kept (s : State) :
    State.Kept s ((slotNumbers.foldl State.restartLink s.restartGuard.restartAccess).updCore
      fun c => ((c.restartTickets).rebuildGroups).restartWatch) :=
  State.updCore_kept (State.foldl_kept (fun u n => u.restartLink_kept n) slotNumbers
    (s.restartGuard_kept.trans (State.restartAccess_kept _)))
    (Core.restartWatch_kept (Core.rebuildGroups_kept (Core.restartTickets_kept (.refl _))))

theorem State.Sound.restartBlocks (h : s.Sound) : s.restartBlocks.Sound := by
  unfold State.restartBlocks
  exact (s.restartWork_kept.sound h).restartSweep

theorem State.Sound.relatch (h : s.Sound) : (s.updOh Oh.relatch).Sound := h.setOh ⟨rfl, rfl, rfl⟩ rfl rfl rfl

theorem State.Sound.restart (h : s.Sound) : s.restart.Sound := by
  unfold State.restart
  refine (State.foldl_kept (fun u l => State.examineIdleRetest_kept (.refl u) l) _ (.refl _)).sound ?_
  exact State.Sound.relatch ((State.refreshConditions_kept (.refl _)).sound h.restartBlocks)

end Sys2Proof.Machine
end

section
/-! PROOF of O4: one case a command, each by the lemmas of the operation it carries out. -/

namespace Sys2Proof.Machine

variable {s t : State}

/-! ### Every command keeps a sound part sound -/

theorem execRun_sound (h : s.Sound) {ref token p : Byte} (e : execRun ref token p s = .next t) : t.Sound :=
  h.orderCommand (fun u hu room => by
    split
    · exact hu.answer _ _ _ (by omega)
    · exact (State.takeRun_kept _ _ _).sound (hu.answer _ _ _ (by omega))) e

theorem execRelease_sound (h : s.Sound) {ref token : Byte} (e : execRelease ref token s = .next t) : t.Sound :=
  h.orderCommand (fun u hu room => by
    split
    · next hr => exact (State.releaseToken_kept hr).answer hu room _ _ _
    · exact hu.answer _ _ _ (by omega)) e

theorem execCancelRun_sound (h : s.Sound) {ref token : Byte} (e : execCancelRun ref token s = .next t) : t.Sound :=
  h.orderCommand (fun u hu room => by
    split
    · next hr => exact (State.cancelToken_kept hr).answer hu room _ _ _
    · exact hu.answer _ _ _ (by omega)) e

theorem execCancelStep_sound (h : s.Sound) {ref token : Byte} (e : execCancelStep ref token s = .next t) : t.Sound :=
  h.orderCommand (fun u hu room => by
    have ha : ∀ a, (u.answer (.cancelStep ref token) a).Sound := fun a => hu.answer _ a _ (by omega)
    split
    · split
      · exact (State.cancelCurrent_kept (.refl _) _).sound (ha _)
      · exact ha _
    · exact ha _) e

theorem execAck_sound (h : s.Sound) {ref : Byte} {n : BitVec 16} (e : execAck ref n s = .next t) : t.Sound :=
  h.orderCommand (fun u hu room =>
    (State.updCore_kept (f := fun c => (c.ack n.toNat).1) (.refl u) (Core.ack_kept (.refl _) _)).answer hu room _ _ _) e

theorem execRead_sound (h : s.Sound) {ref : Byte} {table : ReadTable} {i : BitVec 16} {n : Byte} (e : execRead ref table i n s = .next t) :
    t.Sound :=
  h.orderCommand (fun u hu room => by split <;> exact hu.answer _ _ _ (by omega)) e

theorem execLoadLine_sound (h : s.Sound) {ref : Byte} {first : BitVec 16} {rs : List LineArg} (e : execLoadLine ref first rs s = .next t) :
    t.Sound :=
  h.orderCommand (fun u hu room => by
    split
    · exact hu.answer _ _ _ (by omega)
    · exact hu.loadSome room _ _ fun rs _ v hv => (v.applyLines_kept rs).sound hv) e

theorem execLoadParameters_sound (h : s.Sound) {ref : Byte} {r : ParametersArg} (e : execLoadParameters ref r s = .next t) : t.Sound :=
  h.orderCommand (fun _ hu room => hu.load room _ fun _ _ _ hv => hv.foldl fun p _ _ hw => hw.applyParameters p) e

theorem execSummary_sound (h : s.Sound) {ref : Byte} (e : execSummary ref s = .next t) : t.Sound :=
  h.orderCommand (fun _ hu room => (hu.answer _ _ _ (by omega)).setOh ⟨rfl, rfl, rfl⟩ rfl rfl rfl) e

theorem execTestsetEnable_sound (h : s.Sound) {ref set : Byte} (e : execTestsetEnable ref set s = .next t) : t.Sound :=
  h.orderCommand (fun u hu room => by
    have ha : ∀ a, (u.answer (.testsetEnable ref set) a).Sound := fun a => hu.answer _ a _ (by omega)
    split
    · exact ha _
    · exact (State.enableSet_kept (.refl _) _).sound (ha _)) e

theorem execTestsetDisable_sound (h : s.Sound) {ref set : Byte} (e : execTestsetDisable ref set s = .next t) : t.Sound :=
  h.orderCommand (fun u hu room => by
    have ha : ∀ a, (u.answer (.testsetDisable ref set) a).Sound := fun a => hu.answer _ a _ (by omega)
    split
    · exact ha _
    · exact (State.disableSet_kept (.refl _) _).sound (ha _)) e

theorem execSave_sound (h : s.Sound) {ref : Byte} (e : execSave ref s = .next t) : t.Sound :=
  h.orderCommand (fun u hu room => by
    split
    · exact hu.answer _ _ _ (by omega)
    · exact (hu.setCsi _).writeBlock ref 0) e

theorem execRestart_sound (h : s.Sound) {ref : Byte} (e : execRestart ref s = .next t) : t.Sound :=
  h.orderCommand (fun _ hu room => (hu.answer (.restart ref) .accepted [] (by omega)).restart) e

theorem execSaveBlockAck_sound (h : s.Sound) (e : execSaveBlockAck s = .next t) : t.Sound :=
  h.command (by
    split
    · exact h
    · split
      · exact h.writeBlock _ _
      · exact (h.setCsi _).saveEnds _ _) e

theorem execSaveAckTimeout_sound (h : s.Sound) (e : execSaveAckTimeout s = .next t) : t.Sound :=
  h.command (by
    split
    · exact h
    · split
      · exact h.saveEnds _ _
      · exact h) e

theorem execConfigImageRead_sound (h : s.Sound) {o : Octets} (e : execConfigImageRead o s = .next t) : t.Sound :=
  h.command (by
    split
    · split
      · next hl =>
        split at hl
        · exact (h.loadImage hl).beginService
        · exact absurd hl (by simp)
      · exact h.defaulted.beginService
    · exact h) e

theorem execStoreReadTimeout_sound (h : s.Sound) (e : execStoreReadTimeout s = .next t) : t.Sound :=
  h.command (by
    split
    · exact h.defaulted.beginService
    · exact h) e

theorem execPacingEvent_sound (h : s.Sound) (e : execPacingEvent s = .next t) : t.Sound :=
  h.command (by
    split
    · exact (h.setRs h.rs.takeIncrement s.rs.takeIncrement_frame.1 s.rs.takeIncrement_frame.2).pace
    · exact h) e

/-- The same, for an effect that comes under a condition. -/
theorem State.Sound.commandIf (h : s.Sound) {p : State → Prop} [∀ u, Decidable (p u)] {f : State → State} (hf : State.Kept s (f s))
    (e : s.command (fun u => if p u then f u else u) = .next t) : t.Sound :=
  h.commandKept (by split; exacts [hf, .refl s]) e

theorem exec_sound (c : Instr) (h : s.Sound) (e : exec c s = .next t) : t.Sound := by
  cases c with
  | resetAssert => obtain rfl := Host.Outcome.next.inj e; exact { h with }
  | powerOn straps => obtain rfl := Host.Outcome.next.inj e; exact s.powerOn_sound straps
  | configImageRead o => exact execConfigImageRead_sound h e
  | storeReadTimeout => exact execStoreReadTimeout_sound h e
  | frameEnd port o m => exact h.command (((h.frameEnds port _).frameEnds port _).setReceiver port _) e
  | portFree port => exact h.command (h.portFree port) e
  | loadParameters ref r => exact execLoadParameters_sound h e
  | loadLine ref first rs => exact execLoadLine_sound h e
  | loadShelf ref rs => exact h.orderCommand (fun _ hu room => hu.loadSome room _ _ fun rs _ v hv => (v.applyShelves_kept rs).sound hv) e
  | loadTreatment ref rs => exact h.orderCommand (fun _ hu room => hu.loadEach room _ _ fun _ y _ _ hv => hv.setTreatment y) e
  | loadStatemap ref rs => exact h.orderCommand (fun _ hu room => hu.loadEach room _ _ fun _ y _ _ hv => hv.setMapEntry y) e
  | loadProgramme ref rs =>
    exact h.orderCommand (fun _ hu room => hu.loadEach room _ _ fun _ y hy _ hv => hv.setProgramme y (State.judgeProgramme_count hy)) e
  | loadStep ref rs => exact h.orderCommand (fun _ hu room => hu.loadEach room _ _ fun _ y _ _ hv => hv.setStep y) e
  | loadLimit ref rs => exact h.orderCommand (fun _ hu room => hu.loadEach room _ _ fun _ y _ _ hv => hv.setLimit y) e
  | loadSweeprange ref rs => exact h.orderCommand (fun _ hu room => hu.loadEach room _ _ fun _ y _ _ hv => hv.setRange y) e
  | read ref table i n => exact execRead_sound h e
  | test ref p l q f w v => exact h.orderCommand (fun _ hu room => hu.takeTest room _ _ _ _ _ _ _) e
  | run ref token p => exact execRun_sound h e
  | release ref token => exact execRelease_sound h e
  | cancelStep ref token => exact execCancelStep_sound h e
  | cancelRun ref token => exact execCancelRun_sound h e
  | ack ref n => exact execAck_sound h e
  | clear ref n => exact h.orderCommand (fun u hu room => (u.clearTicket_kept n.toNat).answer hu room _ _ _) e
  | sweepStart ref => exact h.orderCommand (fun _ hu room => (hu.setSweep true).answer _ _ _ (Nat.lt_trans room (by decide))) e
  | sweepStop ref => exact h.orderCommand (fun _ hu room => (hu.setSweep false).answer _ _ _ (Nat.lt_trans room (by decide))) e
  | sweepRate ref i =>
    exact h.orderCommand (fun u hu room => (hu.setRs (hu.rs.setRate (by omega)) (u.rs.setRate_frame _).1 (u.rs.setRate_frame _).2).answer _ _ _
      (Nat.lt_trans room (by decide))) e
  | summary ref => exact execSummary_sound h e
  | testsetEnable ref set => exact execTestsetEnable_sound h e
  | testsetDisable ref set => exact execTestsetDisable_sound h e
  | save ref => exact execSave_sound h e
  | restart ref => exact execRestart_sound h e
  | saveBlockAck => exact execSaveBlockAck_sound h e
  | saveAckTimeout => exact execSaveAckTimeout_sound h e
  | saveAnswerPlace => exact h.command (h.placeOh _) e
  | attentionPlace => exact h.command (h.placeOh _) e
  | resultPlace => exact h.command h.placeResult e
  | ticketNoticePlace => exact h.command h.placeNotice e
  | guardNoticePlace => exact h.command h.placeGuardNotice e
  | accessOrderPlace o => exact h.commandKept (s.placeOrder_kept o) e
  | confirmTimeout o => exact h.commandKept (s.confirmExpires_kept o) e
  | shelfProbeTimer n => exact h.commandKept (s.shelfProbeDue_kept n.val) e
  | holdExpiry b => exact h.commandIf (State.holdEnds_kept (.refl s) b.val) e
  | waitExpiry l => exact h.commandKept (s.waitExpires_kept l.val) e
  | linkFrameLeaves n => exact h.commandKept (State.linkLeaves_kept (.refl s) n.val) e
  | identityReceived n o => exact h.commandKept (s.identityArrives_kept n.val o) e
  | sampleReceived n o => exact h.commandKept (s.sampleArrives_kept n.val o) e
  | identifyAnswerTimeout n => exact h.commandIf (State.identifyExpires_kept (.refl s) n.val) e
  | silenceProbeTimer n => exact h.commandKept (s.setProbeDue_kept n.val) e
  | silenceProbeTimeout n =>
    exact h.commandIf (State.sendStream_kept (State.endIdentify_kept (.refl s) n.val) n.val false) e
  | firstTagWaitExpiry n => exact h.commandIf (State.setFails_kept (.refl s) n.val true) e
  | sampleTimeout n => exact h.commandIf (State.setFails_kept (.refl s) n.val false) e
  | settleEnd b => exact h.commandKept (s.settleEnds_kept b.val) e
  | lockoutDelayExpiry l => exact h.commandKept (State.examineLockout_kept (.refl s) l.val) e
  | retestDue n => exact h.commandKept (s.retestFallsDue_kept n.toNat) e
  | pacingEvent => exact execPacingEvent_sound h e
  | timeBaseTick => exact h.command h.tick e
  | markedOctetReceived port o => exact h.command ((h.frameEnds port _).setReceiver port _) e

end Sys2Proof.Machine

/-- Settles O4: the command at the front is executed, and every command keeps a sound part sound. -/
theorem stepKeepsSound : Obligations.StepKeepsSound := by
  unfold Obligations.StepKeepsSound
  intro s t h e
  unfold Sys2Proof.Machine.step at e
  split at e
  · obtain rfl := Host.Outcome.next.inj e; exact h
  · next c rest _ => exact Sys2Proof.Machine.exec_sound (s := { s with pending := rest }) c { h with } e
end

section
/-! PROOF of O7: the power-on values. -/

namespace Sys2Proof

open Machine

/-- A strap position is 0 exactly when it is the number 0, and 63 exactly when it is the number 63. -/
theorem straps_eq_iff (straps : BitVec 6) (n : Nat) (hn : n < 64) : straps = BitVec.ofNat 6 n ↔ straps.toNat = n := by
  constructor
  · rintro rfl
    simp only [BitVec.toNat_ofNat]
    omega
  · intro h
    exact BitVec.eq_of_toNat_eq (by simp only [BitVec.toNat_ofNat]; omega)

/-- The station address that the straps choose when no parameter does (R179). -/
theorem stationOf_of_none (straps : BitVec 6) :
    stationOf {} straps = if straps.toNat = 0 ∨ straps.toNat = 63 then 100 else 64 + straps.toNat := by
  simp only [stationOf, ← straps_eq_iff straps 0 (by decide), ← straps_eq_iff straps 63 (by decide)]
  rfl

end Sys2Proof

open Sys2Proof Sys2Proof.Machine in
/-- Settles O7: the reset state has each value by evaluation, and POWER_ON adds the station that the straps choose. -/
theorem powerOnPutsPowerOnValues : Obligations.PowerOnPutsPowerOnValues := by
  have hport (port : Port) :
      State.reset.outPort port = { pass := [], insertion := [], strict := false, lastInserted := false, sending := none } := by
    cases port <;> rfl
  have hlatch (f : Flag) : State.reset.core.oh.latch.has f = false ∧ State.reset.core.oh.current.has f = false := by
    cases f <;> exact ⟨rfl, rfl⟩
  refine ⟨fun _ => rfl, fun _ => rfl, fun _ => ⟨rfl, rfl, rfl⟩, rfl, rfl, fun _ => rfl, fun _ => ⟨rfl, rfl, rfl⟩, rfl, rfl, rfl, rfl,
    fun _ => rfl, fun _ => rfl, rfl, rfl, rfl, rfl, rfl, rfl, rfl, fun _ => ⟨rfl, rfl⟩, rfl, rfl, rfl, hport, rfl, rfl, rfl, rfl, rfl, rfl,
    fun f => (hlatch f).1, fun f => (hlatch f).2, rfl, rfl, rfl, rfl, rfl, rfl, rfl, fun straps s => ?_⟩
  rw [← stationOf_of_none straps]
  rfl
end

section
/-! REFUTATION of O20: a retired shelf whose freed slot is taken again. -/

namespace Sys2Proof

open Machine

/-! The refuting run: a DESK run that has failed on line 5 of shelf 0, whose line refers by mistake to a ticket of line 200. Retiring the
shelf opens that ticket; the VERIFYING group of line 200 adopts it with a retest due now, which takes the freed slot on shelf 1. -/

/-- A DC voltage step that asserts GROUND_T. -/
def misledStep : Step :=
  { kind := .dcv, pair := .tg, level := 0, slope := 1, settle := 5, samples := 4, limitSet := none, faultClass := .groundT, onFail := .goOn }

/-- A DESK request of programme 0 for a line, with its ticket flag set. -/
def misledRequest (line token : Nat) : Request :=
  { cls := .desk, line, programme := some 0, kinds := {}, token := some token, position := some 0, ticketFlag := true, hold := 300, wait := 60 }

/-- Shelves 0 and 1 SERVING; slot 0 HELD for line 5 of shelf 0, line 7 of shelf 0 queued, and line 200 of shelf 1 in a VERIFYING group. -/
def misledState : State where
  core :=
    { lines := [(5, { access := .inAccess 0, ticket := some 1 }), (7, { access := .queued }), (200, { group := 3, ticket := some 1 })]
      shelves := [(0, { fitted := true, state := .serving, freePairs := 1 }), (1, { fitted := true, state := .serving })]
      sets := [(0, { state := .ready, agreedKinds := some { dcv := true } })]
      tc := { tickets := [
        { number := 1, kind := .line, subject := 200, cls := .fault .groundT, severity := 2, state := .provisional, firstSeen := 0,
          lastSeen := 0 },
        { number := 9, kind := .group, subject := 3, cls := .family .wet, severity := 2, state := .verifying, firstSeen := 0, lastSeen := 0,
          childCount := 1 }] }
      oh := { ready := true } }
  ac := { queue := [misledRequest 7 2], slots := [(0, { state := .held, request := some (misledRequest 5 1), attempt := 1 })] }
  ms :=
    { programmes := [(0, some { first := 0, count := 1 })]
      steps := [(0, some misledStep)]
      runs := [(0, some { programme := 0, results := [{ step := 1, channel := .irTg, value := 0, quals := {}, verdict := .fail }] })] }
  csi := { imageAwaited := false }

/-- LOAD SHELF with the one record that shelf 0 is no longer fitted. -/
def misledLoad : Instr := .loadShelf 0 [⟨0, 0⟩]

theorem misledState_takes : misledState.Takes where
  quiet :=
    { live := rfl
      settled := ⟨rfl, rfl⟩
      latch := rfl
      ready := rfl
      conditions := ⟨rfl, rfl, rfl, rfl⟩ }
  ohReady := rfl

theorem misledState_noRetests : misledState.noRetests := by
  intro k hk
  simp only [misledState, List.mem_cons, List.not_mem_nil, or_false] at hk
  rcases hk with rfl | rfl <;> rfl

theorem misledState_queue_on_shelf : ∀ q ∈ misledState.ac.queue, shelfOf q.line = 0 := by
  simp [misledState, misledRequest, shelfOf]

/-- The slot that the retired shelf gave up is taken again within the same order. -/
theorem exec_misledLoad_seizes :
    (match exec misledLoad misledState with
      | .next t => (t.slot 0).state
      | _ => .free) = .seizing := by
  decide +kernel

end Sys2Proof

open Sys2Proof Sys2Proof.Machine in
/-- Refutes O20: from `misledState` the slot of the retired shelf is not FREE after LOAD SHELF but SEIZING for line 200, although no ticket
wanted a retest before and every queued request was for the retired shelf. -/
theorem not_shelfIsProbedOrRetired : ¬ Obligations.ShelfIsProbedOrRetired := by
  intro h
  obtain ⟨-, retired, -⟩ := h 0 ⟨0, 0⟩ misledState misledState_takes rfl (by decide)
  obtain ⟨t, ht, -, -, -, -, -, -, -, -, -, -, hfree, -⟩ := retired rfl rfl
  have free : (t.slot 0).state = .free :=
    (hfree misledState_noRetests misledState_queue_on_shelf 0 (by decide) ⟨by decide, rfl⟩).1
  have seizing := exec_misledLoad_seizes
  simp only [misledLoad, ht, free] at seizing
  exact nomatch seizing
end

section
/-! SUPPORT. What work on the tickets leaves of the lines, the shelves and the test sets, one lemma an operation: `op_work`. -/

namespace Sys2Proof.Machine

/-! ### What work on the tickets leaves of the other records -/

/-- A line's record but for what the TC writes in it: the ticket's number and the mark of R115. -/
def LineRec.sansTicket (r : LineRec) : LineRec := { r with ticket := none, unticketed := false }

/-- A shelf's record but for its ticket's number. -/
def ShelfRec.sansTicket (r : ShelfRec) : ShelfRec := { r with ticket := none }

/-- A test set's record but for its ticket's number. -/
def TestSet.sansTicket (r : TestSet) : TestSet := { r with ticket := none }

/-- No ticket of the table is PROVISIONAL. -/
def Core.noProvisional (c : Core) : Prop := ∀ t ∈ c.tc.tickets, t.state ≠ .provisional

/-- The change makes no ticket PROVISIONAL. -/
def Ticket.Firm (f : Ticket → Ticket) : Prop := ∀ t, t.state ≠ .provisional → (f t).state ≠ .provisional

@[simp] theorem Ticket.firm_of {f : Ticket → Ticket} (h : ∀ t, t.state ≠ .provisional → (f t).state ≠ .provisional) : Ticket.Firm f := h

/-- What work on tickets that stand leaves alone: of the lines, shelves and test sets it writes the references to their tickets, and it
makes no ticket PROVISIONAL. -/
structure Core.TicketWork (c d : Core) : Prop where
  line : ∀ l, (d.line l).sansTicket = (c.line l).sansTicket
  shelf : ∀ n, (d.shelf n).sansTicket = (c.shelf n).sansTicket
  testSet : ∀ n, (d.testSet n).sansTicket = (c.testSet n).sansTicket
  firm : c.noProvisional → d.noProvisional

@[simp] theorem Core.TicketWork.refl (c : Core) : Core.TicketWork c c := ⟨fun _ => rfl, fun _ => rfl, fun _ => rfl, id⟩

theorem Core.TicketWork.trans {c d e : Core} (h : Core.TicketWork c d) (k : Core.TicketWork d e) : Core.TicketWork c e :=
  ⟨fun l => (k.line l).trans (h.line l), fun n => (k.shelf n).trans (h.shelf n), fun n => (k.testSet n).trans (h.testSet n),
    fun p => k.firm (h.firm p)⟩

/-- A fold of such works is one. -/
theorem Core.foldl_work {β : Type} {f : Core → β → Core} (hf : ∀ c x, Core.TicketWork c (f c x)) (l : List β) (c : Core) :
    Core.TicketWork c (l.foldl f c) := by
  induction l generalizing c with
  | nil => exact .refl c
  | cons x l ih => exact (hf c x).trans (ih _)

variable {c₀ c : Core}

/-- Work that leaves the records of the subjects alone. -/
theorem Core.TicketWork.ofTickets {d : Core} (h : Core.TicketWork c₀ c) (hl : d.lines = c.lines) (hs : d.shelves = c.shelves)
    (ht : d.sets = c.sets) (hp : c.noProvisional → d.noProvisional) : Core.TicketWork c₀ d :=
  h.trans ⟨fun l => by simp only [Core.line, hl], fun n => by simp only [Core.shelf, hs], fun n => by simp only [Core.testSet, ht], hp⟩

@[simp] theorem Core.updOh_work (h : Core.TicketWork c₀ c) (f : Oh → Oh) : Core.TicketWork c₀ (c.updOh f) :=
  h.ofTickets rfl rfl rfl id

@[simp] theorem Core.gmReport_work (h : Core.TicketWork c₀ c) (n : Nat) : Core.TicketWork c₀ (c.gmReport n) :=
  h.ofTickets rfl rfl rfl id

@[simp] theorem Core.putTicket_work (h : Core.TicketWork c₀ c) (n : Nat) {f : Ticket → Ticket} (hf : Ticket.Firm f) :
    Core.TicketWork c₀ (c.putTicket n f) := by
  unfold Core.putTicket
  split
  · exact h
  · refine h.ofTickets rfl rfl rfl fun hp u hu => ?_
    obtain ⟨t, ht, rfl⟩ := List.mem_map.mp hu
    split
    · exact hf t (hp t ht)
    · exact hp t ht

/-- A change of the notice list alone. -/
theorem Core.setNotices_work (h : Core.TicketWork c₀ c) {f : Tc → Tc} (hf : (f c.tc).tickets = c.tc.tickets) :
    Core.TicketWork c₀ (c.updTc f) :=
  h.ofTickets rfl rfl rfl fun hp u hu => hp u (hf ▸ hu)

theorem Core.clearReference_work (c : Core) (t : Ticket) : Core.TicketWork c (c.clearReference t) := by
  unfold Core.clearReference
  split
  · refine ⟨fun l => ?_, fun _ => rfl, fun _ => rfl, id⟩
    rw [Core.line_updLine]
    split
    · next hl => subst hl; split <;> rfl
    · rfl
  · refine ⟨fun _ => rfl, fun n => ?_, fun _ => rfl, id⟩
    rw [Core.shelf_updShelf]
    split
    · next hn => subst hn; split <;> rfl
    · rfl
  · refine ⟨fun _ => rfl, fun _ => rfl, fun n => ?_, id⟩
    rw [Core.testSet_updTestSet]
    split
    · next hn => subst hn; split <;> rfl
    · rfl
  · exact .refl c
  · exact .refl c

@[simp] theorem Core.dropTicket_work (h : Core.TicketWork c₀ c) (n : Nat) : Core.TicketWork c₀ (c.dropTicket n) := by
  unfold Core.dropTicket
  split
  · exact h
  · next t ht =>
    refine Core.gmReport_work (Core.TicketWork.trans (d := (c.updTc fun tc => { tc with
      tickets := tc.tickets.filter fun u => decide (u.number ≠ n)
      notices := tc.notices.filter fun m => decide (m ≠ n) }).updOh fun o => o.recount t.counts none) ?_
      (Core.clearReference_work _ t)) n
    exact h.ofTickets rfl rfl rfl fun hp u hu => hp u (List.mem_filter.mp hu).1

theorem Core.enter_work (h : Core.TicketWork c₀ c) {t : Ticket} (ht : t.state ≠ .provisional) :
    Core.TicketWork c₀ (c.enter t).1 := by
  refine h.ofTickets rfl rfl rfl fun hp u hu => ?_
  rcases List.mem_append.mp hu with hu | hu
  · exact hp u hu
  · rw [List.mem_singleton.mp hu]; exact ht

@[simp] theorem Core.makeRoom_work (h : Core.TicketWork c₀ c) : Core.TicketWork c₀ c.makeRoom.1 := by
  unfold Core.makeRoom
  repeat' split
  all_goals simp (maxDischargeDepth := 20) [h]

@[simp] theorem Core.noticeDue_work (h : Core.TicketWork c₀ c) (n : Nat) : Core.TicketWork c₀ (c.noticeDue n) := by
  unfold Core.noticeDue
  split
  · exact h
  · split
    · exact h
    · refine Core.setNotices_work (Core.putTicket_work h n ?_) rfl
      exact fun _ => id

@[simp] theorem Core.takeChildren_work (h : Core.TicketWork c₀ c) (g : Nat) (m : List Ticket) :
    Core.TicketWork c₀ (c.takeChildren g m) := by
  refine h.trans (Core.foldl_work (fun c t => ?_) m c)
  refine Core.setNotices_work (Core.putTicket_work (.refl c) t.number ?_) rfl
  exact fun _ => id

@[simp] theorem Core.reportFormed_work (h : Core.TicketWork c₀ c) : Core.TicketWork c₀ c.reportFormed := Core.updOh_work h _

@[simp] theorem Core.formGroup_work (h : Core.TicketWork c₀ c) (key : Nat) (m : List Ticket) :
    Core.TicketWork c₀ (c.formGroup key m) := by
  unfold Core.formGroup
  dsimp only
  split
  · refine Core.reportFormed_work (Core.noticeDue_work (Core.takeChildren_work (Core.enter_work (Core.makeRoom_work h) ?_) _ _) _)
    simp
  · exact Core.makeRoom_work h

@[simp] theorem Core.reviveGroup_work (h : Core.TicketWork c₀ c) (g : Nat) (m : List Ticket) :
    Core.TicketWork c₀ (c.reviveGroup g m) := by
  unfold Core.reviveGroup
  simp (maxDischargeDepth := 20) [h]

@[simp] theorem Core.examineGroup_work (h : Core.TicketWork c₀ c) (key : Nat) : Core.TicketWork c₀ (c.examineGroup key) := by
  unfold Core.examineGroup
  dsimp only
  have hg : Core.TicketWork c₀ { c with gm := { c.gm with members := Table.set [] c.gm.members key ((c.qualifying key).map (·.number)) } } :=
    h.ofTickets rfl rfl rfl id
  repeat' split
  all_goals simp (maxDischargeDepth := 20) [hg]

@[simp] theorem Core.examineOf_work (h : Core.TicketWork c₀ c) (n : Nat) : Core.TicketWork c₀ (c.examineOf n) := by
  unfold Core.examineOf
  split <;> simp (maxDischargeDepth := 20) [h]

@[simp] theorem Core.standAlone_work (h : Core.TicketWork c₀ c) (n : Nat) : Core.TicketWork c₀ (c.standAlone n) := by
  unfold Core.standAlone
  simp (maxDischargeDepth := 20) [h]

@[simp] theorem Core.adopt_work (h : Core.TicketWork c₀ c) (n : Nat) (g : Ticket) : Core.TicketWork c₀ (c.adopt n g) := by
  unfold Core.adopt
  split
  · exact h
  · dsimp only
    split <;> split <;> simp (maxDischargeDepth := 20) [h]

@[simp] theorem Core.childGone_work (h : Core.TicketWork c₀ c) (g : Nat) : Core.TicketWork c₀ (c.childGone g) := by
  have hp : Core.TicketWork c₀ (c.putTicket g fun g =>
      if g.childCount ≤ 1 then { g with childCount := 0, state := .closing, retest := none }
      else { g with childCount := g.childCount - 1 }) := by
    refine Core.putTicket_work h g fun t ht => ?_
    split <;> simp [ht]
  unfold Core.childGone
  dsimp only
  repeat' split
  all_goals simp (maxDischargeDepth := 20) [hp]

@[simp] theorem Core.examineHome_work (h : Core.TicketWork c₀ c) (n : Nat) : Core.TicketWork c₀ (c.examineHome n) := by
  unfold Core.examineHome
  split <;> simp (maxDischargeDepth := 20) [h]

@[simp] theorem Core.releaseChild_work (h : Core.TicketWork c₀ c) (n : Nat) : Core.TicketWork c₀ (c.releaseChild n) := by
  unfold Core.releaseChild
  dsimp only
  repeat' split
  all_goals simp (maxDischargeDepth := 20) [h]

@[simp] theorem Core.openProvisional_work (h : Core.TicketWork c₀ c) (n : Nat) : Core.TicketWork c₀ (c.openProvisional n) := by
  unfold Core.openProvisional
  dsimp only
  split <;> simp (maxDischargeDepth := 20) [h]

@[simp] theorem Core.retestAttempt_work (h : Core.TicketWork c₀ c) (n : Nat) (w : Bool) : Core.TicketWork c₀ (c.retestAttempt n w) := by
  unfold Core.retestAttempt
  dsimp only
  repeat' split
  all_goals simp (maxDischargeDepth := 20) [h]

@[simp] theorem Core.lineRegrouped_work (h : Core.TicketWork c₀ c) (l : Nat) : Core.TicketWork c₀ (c.lineRegrouped l) := by
  unfold Core.lineRegrouped
  dsimp only
  repeat' split
  all_goals simp (maxDischargeDepth := 20) [h]

end Sys2Proof.Machine
end

section
/-! SUPPORT. What offers, grants and due retests leave of the part, one lemma an operation: `op_offerWork`. -/

namespace Sys2Proof.Machine

/-! ### What offers and grants leave of the part -/

/-- A line's record but for its access state and what the TC writes in it. -/
def LineRec.sansAccess (r : LineRec) : LineRec := { r with access := .none, ticket := none, unticketed := false }

theorem LineRec.sansAccess_of_sansTicket {r u : LineRec} (h : r.sansTicket = u.sansTicket) : r.sansAccess = u.sansAccess := by
  cases r; cases u
  simp only [LineRec.sansTicket, LineRec.mk.injEq] at h
  simp only [LineRec.sansAccess, LineRec.mk.injEq]
  tauto

/-- What is left alone when requests are offered and granted and due retests are offered (R22, R26, R27, R122): of a line all but its
access state and its ticket, of a shelf that is not SERVING all but its ticket, a slot that is not FREE, and the other blocks. -/
structure State.OfferWork (s t : State) : Prop where
  ms : t.ms = s.ms
  rs : t.rs = s.rs
  cg : t.cg = s.cg
  csi : t.csi = s.csi
  downPass : t.htp.down.pass = s.htp.down.pass
  quota : t.ac.quotaInForce = s.ac.quotaInForce
  line : ∀ l, (t.line l).sansAccess = (s.line l).sansAccess
  shelfState : ∀ n, (t.shelf n).state = (s.shelf n).state
  fitted : ∀ n, (t.shelf n).fitted = (s.shelf n).fitted
  shelf : ∀ n, (s.shelf n).state ≠ .serving → (t.shelf n).sansTicket = (s.shelf n).sansTicket
  testSet : ∀ n, (t.testSet n).sansTicket = (s.testSet n).sansTicket
  slot : ∀ b, (s.slot b).state ≠ .free → t.slot b = s.slot b
  firm : s.core.noProvisional → t.core.noProvisional

@[simp] theorem State.OfferWork.refl (s : State) : State.OfferWork s s :=
  ⟨rfl, rfl, rfl, rfl, rfl, rfl, fun _ => rfl, fun _ => rfl, fun _ => rfl, fun _ _ => rfl, fun _ => rfl, fun _ _ => rfl, id⟩

theorem State.OfferWork.trans {s t u : State} (h : State.OfferWork s t) (k : State.OfferWork t u) : State.OfferWork s u where
  ms := k.ms.trans h.ms
  rs := k.rs.trans h.rs
  cg := k.cg.trans h.cg
  csi := k.csi.trans h.csi
  downPass := k.downPass.trans h.downPass
  quota := k.quota.trans h.quota
  line l := (k.line l).trans (h.line l)
  shelfState n := (k.shelfState n).trans (h.shelfState n)
  fitted n := (k.fitted n).trans (h.fitted n)
  shelf n hn := (k.shelf n (by rwa [h.shelfState])).trans (h.shelf n hn)
  testSet n := (k.testSet n).trans (h.testSet n)
  slot b hb := (k.slot b (by rwa [h.slot b hb])).trans (h.slot b hb)
  firm p := k.firm (h.firm p)

/-- A fold of such works is one. -/
theorem State.foldl_offerWork {β : Type} {f : State → β → State} (hf : ∀ s x, State.OfferWork s (f s x)) (l : List β) (s : State) :
    State.OfferWork s (l.foldl f s) := by
  induction l generalizing s with
  | nil => exact .refl s
  | cons x l ih => exact (hf s x).trans (ih _)

variable {s₀ s : State}

theorem ShelfRec.state_of_sansTicket {r u : ShelfRec} (h : r.sansTicket = u.sansTicket) : r.state = u.state ∧ r.fitted = u.fitted :=
  ⟨(congrArg ShelfRec.state h :), (congrArg ShelfRec.fitted h :)⟩

/-- Work on tickets is no more than offers do. -/
theorem State.updCore_offerWork (h : State.OfferWork s₀ s) {f : Core → Core} (hf : Core.TicketWork s.core (f s.core)) :
    State.OfferWork s₀ (s.updCore f) :=
  h.trans
    { State.OfferWork.refl s with
      line := fun l => LineRec.sansAccess_of_sansTicket (hf.line l)
      shelfState := fun n => (ShelfRec.state_of_sansTicket (hf.shelf n)).1
      fitted := fun n => (ShelfRec.state_of_sansTicket (hf.shelf n)).2
      shelf := fun n _ => hf.shelf n
      testSet := hf.testSet
      firm := hf.firm }

theorem State.putTicket_offerWork (h : State.OfferWork s₀ s) (n : Nat) {f : Ticket → Ticket} (hf : Ticket.Firm f) :
    State.OfferWork s₀ (s.updCore fun c => c.putTicket n f) :=
  State.updCore_offerWork h (Core.putTicket_work (.refl _) n hf)

theorem State.retestAttempt_offerWork (h : State.OfferWork s₀ s) (n : Nat) (w : Bool) :
    State.OfferWork s₀ (s.updCore fun c => c.retestAttempt n w) :=
  State.updCore_offerWork h (Core.retestAttempt_work (.refl _) n w)

/-- A change of the queue and of what the AC owes. -/
theorem State.setQueue_offerWork (h : State.OfferWork s₀ s) {f : Ac → Ac} (hs : (f s.ac).slots = s.ac.slots)
    (hq : (f s.ac).quotaInForce = s.ac.quotaInForce) : State.OfferWork s₀ (s.updAc f) :=
  h.trans { State.OfferWork.refl s with quota := hq, slot := fun b _ => by simp only [State.slot, State.updAc, hs] }

/-- A change of a line's access state. -/
theorem State.setAccess_offerWork (h : State.OfferWork s₀ s) (l : Nat) {f : LineRec → LineRec} (hf : ∀ r, (f r).sansAccess = r.sansAccess) :
    State.OfferWork s₀ (s.updLine l f) := by
  refine h.trans { State.OfferWork.refl s with line := fun k => ?_ }
  rw [State.line_updLine]
  split
  · next e => rw [e, hf]
  · rfl

theorem State.enterQueue_offerWork (h : State.OfferWork s₀ s) (r : Request) : State.OfferWork s₀ (s.enterQueue r) :=
  State.setAccess_offerWork (State.setQueue_offerWork h rfl rfl) r.line fun _ => rfl

theorem State.offerCore_offerWork (h : State.OfferWork s₀ s) (r : Request) : State.OfferWork s₀ (s.offerCore r).1 := by
  rcases s.offerCore_cases r with ⟨-, he⟩ | ⟨_, -, he⟩
  · rw [he]; exact State.enterQueue_offerWork h r
  · rw [he]; exact h

theorem slotOwner_val {b : Nat} (hb : b ∈ slotNumbers) : slotOwner b = .slot ⟨b, by simp [slotNumbers] at hb; omega⟩ := by
  simp only [slotNumbers, List.mem_cons, List.not_mem_nil, or_false] at hb
  rcases hb with rfl | rfl | rfl | rfl <;> rfl

/-- An order of a slot made ready leaves every other slot as it is. -/
theorem State.makeReady_slot_other (s : State) {b k : Nat} (hb : b ∈ slotNumbers) (hk : k ≠ b) (op : AccessOp) :
    (s.makeReady (slotOwner b) op).slot k = s.slot k := by
  rw [slotOwner_val hb]
  unfold State.makeReady State.setOrder
  split <;> simp [hk]

theorem State.grant_slot_other (s : State) (r : Request) {b k : Nat} (hb : b ∈ slotNumbers) (hk : k ≠ b) :
    (s.grant r b).slot k = s.slot k := by
  unfold State.grant
  rw [State.makeReady_slot_other _ hb hk, State.slot_setSlot, if_neg hk]
  rfl

/-- An order made ready for a slot changes the DOWN insertion queue and the slot's order. -/
theorem State.makeReady_slotOwner (s : State) (b : Nat) (op : AccessOp) :
    ∃ i sl, s.makeReady (slotOwner b) op =
      { s with
        htp := { s.htp with down := { s.htp.down with insertion := i } }
        ac := { s.ac with slots := sl } } := by
  unfold State.makeReady
  split
  · exact ⟨_, _, rfl⟩
  · exact ⟨_, _, rfl⟩

/-- A grant changes the queue, the slots, the DOWN insertion queue, the line's access state and the free pairs of its shelf. -/
theorem State.grant_eq (s : State) (r : Request) (b : Nat) :
    ∃ i sl, s.grant r b =
      { s with
        core := (s.core.updLine r.line fun l => { l with access := .inAccess b }).updShelf (shelfOf r.line)
          fun h => { h with freePairs := h.freePairs - 1 }
        htp := { s.htp with down := { s.htp.down with insertion := i } }
        ac := { s.ac with queue := s.ac.queue.erase r, departed := true, slots := sl } } := by
  obtain ⟨i, sl, h⟩ := State.makeReady_slotOwner ((((s.updAc fun a => { a with queue := a.queue.erase r, departed := true }).updLine r.line
        fun l => { l with access := .inAccess b }).updShelf (shelfOf r.line) fun h => { h with freePairs := h.freePairs - 1 }).setSlot b
      { state := .seizing, request := some { r with waitDue := none }, pair := s.choosePair (shelfOf r.line), attempt := 1 }) b .operate
  exact ⟨i, sl, h⟩

/-- A grant of a FREE slot to a request for a line of a SERVING shelf. -/
theorem State.grant_offerWork (h : State.OfferWork s₀ s) (r : Request) {b : Nat} (hb : b ∈ slotNumbers) (hf : (s.slot b).state = .free)
    (hs : (s.shelf (shelfOf r.line)).state = .serving) : State.OfferWork s₀ (s.grant r b) := by
  have hslot : ∀ k, (s.slot k).state ≠ .free → (s.grant r b).slot k = s.slot k := fun k hk =>
    s.grant_slot_other r hb fun e => hk (e ▸ hf)
  obtain ⟨i, sl, he⟩ := s.grant_eq r b
  rw [he] at hslot ⊢
  refine h.trans
    { State.OfferWork.refl s with
      line := fun k => ?_
      shelfState := fun n => ?_
      fitted := fun n => ?_
      shelf := fun n hn => ?_
      slot := hslot }
  · change (((s.updLine r.line fun l => { l with access := .inAccess b }).line k)).sansAccess = _
    rw [State.line_updLine]
    split
    · next e => subst e; rfl
    · rfl
  · simp only [State.shelf, Core.shelf_updShelf]
    split
    · next e => subst e; rfl
    · rfl
  · simp only [State.shelf, Core.shelf_updShelf]
    split
    · next e => subst e; rfl
    · rfl
  · simp only [State.shelf, Core.shelf_updShelf]
    rw [if_neg fun e : n = _ => hn (e ▸ hs)]
    rfl

/-- A visit that grants has found the request's shelf SERVING and a FREE slot (R25). -/
theorem State.visit_grants (s : State) (r : Request) :
    s.visit r = s ∨ ∃ b ∈ slotNumbers, s.fitting r b = true ∧ (s.shelf (shelfOf r.line)).state = .serving ∧ s.visit r = s.grant r b := by
  unfold State.visit
  split
  · next hg =>
    split
    · next b hb =>
      refine .inr ⟨b, List.mem_of_find?_eq_some hb, List.find?_some hb, ?_, rfl⟩
      simp only [State.grantable, Bool.and_eq_true, decide_eq_true_eq] at hg
      exact hg.1.1
    · exact .inl rfl
  · exact .inl rfl

theorem State.free_of_fitting {r : Request} {b : Nat} (h : s.fitting r b = true) :
    (s.slot b).state = .free ∧ (s.testSet b).state = .ready := by
  simp only [State.fitting, Bool.and_eq_true, decide_eq_true_eq] at h
  exact h.1

theorem State.visit_offerWork (h : State.OfferWork s₀ s) (r : Request) : State.OfferWork s₀ (s.visit r) := by
  rcases s.visit_grants r with hv | ⟨b, hb, hf, hs, hv⟩
  · rwa [hv]
  · rw [hv]; exact State.grant_offerWork h r hb (State.free_of_fitting hf).1 hs

theorem State.walk_offerWork (h : State.OfferWork s₀ s) : State.OfferWork s₀ s.walk :=
  h.trans (State.foldl_offerWork (fun s r => State.visit_offerWork (.refl s) r) _ s)

theorem State.offerRetest_offerWork (h : State.OfferWork s₀ s) (n : Nat) : State.OfferWork s₀ (s.offerRetest n).1 := by
  unfold State.offerRetest
  split
  · exact h
  · next t ht =>
    split
    · split
      · exact h
      · next w hw =>
        have ho := State.offerCore_offerWork h (s.retestRequest t.subject (s.routineProgramme t.subject) w.reason (some n))
        dsimp only
        split
        · refine State.putTicket_offerWork ho n ?_
          exact fun _ => id
        · exact State.retestAttempt_offerWork ho n false
        · refine State.putTicket_offerWork ho n ?_
          exact fun _ => id
    · exact h

theorem State.offerRetests_offerWork (h : State.OfferWork s₀ s) (l : List Nat) : State.OfferWork s₀ (s.offerRetests l) := by
  induction l generalizing s with
  | nil => exact h
  | cons n l ih =>
    unfold State.offerRetests
    dsimp only
    split
    · exact State.offerRetest_offerWork h n
    · exact ih (State.offerRetest_offerWork h n)

theorem State.settleRounds_offerWork (n : Nat) (h : State.OfferWork s₀ s) : State.OfferWork s₀ (State.settleRounds n s) := by
  induction n generalizing s with
  | zero => exact h
  | succ n ih =>
    unfold State.settleRounds
    dsimp only
    generalize hu : (if s.ac.departed = true then
        (s.updAc fun a => { a with departed := false }).offerRetests (s.updAc fun a => { a with departed := false }).dueRetests
        else s) = u
    have hk : State.OfferWork s₀ u := by
      rw [← hu]
      split
      · exact State.offerRetests_offerWork (State.setQueue_offerWork h rfl rfl) _
      · exact h
    split
    · exact ih (State.walk_offerWork (State.setQueue_offerWork hk rfl rfl))
    · exact hk

theorem State.settle_offerWork (h : State.OfferWork s₀ s) : State.OfferWork s₀ s.settle := State.settleRounds_offerWork 8 h

theorem State.offerAndDrop_offerWork (h : State.OfferWork s₀ s) (r : Request) : State.OfferWork s₀ (s.offerAndDrop r) := by
  have hc := State.offerCore_offerWork h r
  unfold State.offerAndDrop State.offer
  split
  · next he => rw [he] at hc; exact State.settle_offerWork hc
  · next he => rw [he] at hc; exact hc

theorem State.offerFallen_offerWork (h : State.OfferWork s₀ s) (n : Nat) : State.OfferWork s₀ (s.offerFallen n) :=
  State.settle_offerWork (State.offerRetest_offerWork h n)

theorem State.examineIdleRetest_offerWork (h : State.OfferWork s₀ s) (l : Nat) : State.OfferWork s₀ (s.examineIdleRetest l) := by
  unfold State.examineIdleRetest
  repeat' split
  · exact h
  · refine State.offerFallen_offerWork (State.putTicket_offerWork h _ ?_) _
    exact fun _ => id
  · exact h

/-- A change of the OH's record. -/
theorem State.updOh_offerWork (h : State.OfferWork s₀ s) (f : Oh → Oh) : State.OfferWork s₀ (s.updOh f) :=
  State.updCore_offerWork h (Core.updOh_work (.refl _) f)

end Sys2Proof.Machine
end

section
/-! SUPPORT and PROOF of O51: what the Line Watch writes in the record of a line. -/

namespace Sys2Proof.Machine

/-! ### What the Line Watch writes in a line's record -/

variable {s t : State}

theorem State.Kept.now_eq (h : State.Kept s t) : t.now = s.now := by
  simp only [State.now, Core.now, h.core.time]

theorem State.Kept.params_eq (h : State.Kept s t) : t.params = s.params := h.core.oh.params

/-- The record after a hit at `now` (R13). -/
def LineRec.hit (r : LineRec) (now window : Nat) : LineRec :=
  match r.hitsStart with
  | some t => if t + window < now then { r with hits := 1, hitsStart := some now } else { r with hits := r.hits + 1 }
  | none => { r with hits := 1, hitsStart := some now }

theorem State.countHit_eq (s : State) (l : Nat) : s.countHit l = s.updLine l fun r => r.hit s.now s.params.hitsWindow := rfl

@[simp] theorem State.line_countHit (s : State) (l : Nat) : (s.countHit l).line l = (s.line l).hit s.now s.params.hitsWindow := by
  rw [State.countHit_eq, State.line_updLine, if_pos rfl]

/-- In a window that is not over the count rises. -/
theorem LineRec.hit_within {r : LineRec} {now window start : Nat} (h : r.hitsStart = some start) (hw : now ≤ start + window) :
    r.hit now window = { r with hits := r.hits + 1 } := by
  simp only [LineRec.hit, h]
  rw [if_neg (by omega)]

/-- With no window, or one that is over, the window restarts. -/
theorem LineRec.hit_restarts {r : LineRec} {now window : Nat}
    (h : r.hitsStart = none ∨ ∃ start, r.hitsStart = some start ∧ start + window < now) :
    r.hit now window = { r with hits := 1, hitsStart := some now } := by
  rcases h with h | ⟨start, h, hw⟩
  · simp only [LineRec.hit, h]
  · simp only [LineRec.hit, h]
    rw [if_pos hw]

theorem LineRec.hit_reOffer (r : LineRec) (now window : Nat) : (r.hit now window).reOffer = r.reOffer := by
  unfold LineRec.hit
  repeat' split
  all_goals rfl

theorem LineRec.hit_access (r : LineRec) (now window : Nat) : (r.hit now window).access = r.access := by
  unfold LineRec.hit
  repeat' split
  all_goals rfl

theorem LineRec.hit_lockoutStart (r : LineRec) (now window : Nat) : (r.hit now window).lockoutStart = r.lockoutStart := by
  unfold LineRec.hit
  repeat' split
  all_goals rfl

/-- A hit does not read the call state. -/
theorem LineRec.hit_setCallState (r : LineRec) (st : CallState) (now window : Nat) :
    ({ r with callState := st } : LineRec).hit now window = { r.hit now window with callState := st } := by
  cases hs : r.hitsStart with
  | none => simp only [LineRec.hit, hs]
  | some t => simp only [LineRec.hit, hs]; split <;> rfl

theorem State.examineHits_below {l : Nat} (h : (s.line l).hits < s.params.hitsThreshold) : s.examineHits l = s := by
  unfold State.examineHits
  rw [if_neg (by omega)]

/-- The record once its count has been compared with the threshold (R14), but for its access state and ticket. -/
theorem State.examineHits_line (s : State) (l : Nat) :
    ((s.examineHits l).line l).sansAccess =
      (if s.params.hitsThreshold ≤ (s.line l).hits then { s.line l with hits := 0, hitsStart := some s.now, reOffer := false }
        else s.line l).sansAccess := by
  have hw := State.offerAndDrop_offerWork (.refl s) (s.retestRequest l (s.routineProgramme l) .hits none)
  unfold State.examineHits
  split
  · rw [State.line_updLine, if_pos rfl]
    exact congrArg (fun r : LineRec => { r with hits := 0, hitsStart := some s.now, reOffer := false }) (hw.line l)
  · rfl

/-- The record once an owed re-offer has been examined (R18), but for its access state and ticket. -/
theorem State.examineReOffer_line (s : State) (l : Nat) :
    ((s.examineReOffer l).line l).sansAccess =
      ({ s.line l with reOffer := (s.line l).reOffer && !decide ((s.line l).callState = .idle ∧ (s.line l).access = .none) } :
        LineRec).sansAccess := by
  have hw := State.offerAndDrop_offerWork (.refl s) (s.retestRequest l (s.routineProgramme l) .hits none)
  unfold State.examineReOffer
  split
  · next h =>
    obtain ⟨-, hidle, hnone⟩ := h
    rw [State.line_updLine, if_pos rfl]
    have hr : ((s.line l).reOffer && !decide ((s.line l).callState = .idle ∧ (s.line l).access = .none)) = false := by
      simp [hidle, hnone]
    rw [hr]
    exact congrArg (fun r : LineRec => { r with reOffer := false }) (hw.line l)
  · next h =>
    have hr : (s.line l).reOffer = ((s.line l).reOffer && !decide ((s.line l).callState = .idle ∧ (s.line l).access = .none)) := by
      cases ho : (s.line l).reOffer
      · rfl
      · simp only [ho, true_and] at h
        simp [h]
    rw [← hr]

/-- Lockout begins with a change to LOCKOUT and ends with one from it (R15). -/
def LineRec.lockoutAt (r : LineRec) (st was : CallState) (now : Nat) : LineRec :=
  if st = .lockout then { r with lockoutStart := some now } else if was = .lockout then { r with lockoutStart := none } else r

theorem LineRec.lockoutAt_lockoutStart (r : LineRec) (st was : CallState) (now : Nat) :
    (r.lockoutAt st was now).lockoutStart = if st = .lockout then some now else if was = .lockout then none else r.lockoutStart := by
  unfold LineRec.lockoutAt
  repeat' split
  all_goals rfl

/-- Nothing but the start of lockout changes with it. -/
theorem LineRec.lockoutAt_eq (r : LineRec) (st was : CallState) (now : Nat) :
    ∃ w, r.lockoutAt st was now = { r with lockoutStart := w } := by
  unfold LineRec.lockoutAt
  repeat' split
  all_goals exact ⟨_, rfl⟩

/-- The part once a changed report's hit has been counted and compared, and its lockout begun or ended (R13–R15). -/
def State.reportTaken (s : State) (l : Nat) (st : CallState) : State :=
  (((s.updLine l fun r => { r with callState := st }).countHit l).examineHits l).updLine l fun r =>
    r.lockoutAt st (s.line l).callState s.now

/-- A report of the line's own call state does nothing (R12). -/
theorem State.applyReport_same {l : Nat} {st : CallState} (h : (s.line l).callState = st) : s.applyReport l st = s := by
  unfold State.applyReport
  simp only [h, if_true]

/-- A report that changes the call state, the offers of an idle line apart (R12, R18). -/
theorem State.applyReport_changed {l : Nat} {st : CallState} (h : (s.line l).callState ≠ st) :
    s.applyReport l st =
      (if st = .idle then ((s.reportTaken l st).examineReOffer l).examineIdleRetest l else s.reportTaken l st).updAc fun a =>
        { a with walkDue := true } := by
  have hn : (((s.updLine l fun r => { r with callState := st }).countHit l).examineHits l).now = s.now :=
    (State.examineHits_kept (State.countHit_kept (State.updLine_kept (.refl s) l _) l) l).now_eq
  unfold State.applyReport State.reportTaken
  simp only [if_neg h, hn]
  rfl

/-- The record of a line once a changed report has been taken (R12–R15), but for its access state and ticket. -/
theorem State.reportTaken_line (s : State) (l : Nat) (st : CallState) :
    let r := { (s.line l).hit s.now s.params.hitsWindow with callState := st }
    ((s.reportTaken l st).line l).sansAccess =
      ((if s.params.hitsThreshold ≤ r.hits then { r with hits := 0, hitsStart := some s.now, reOffer := false } else r).lockoutAt
        st (s.line l).callState s.now).sansAccess := by
  dsimp only
  have hlock (r u : LineRec) (h : r.sansAccess = u.sansAccess) :
      (r.lockoutAt st (s.line l).callState s.now).sansAccess = (u.lockoutAt st (s.line l).callState s.now).sansAccess := by
    unfold LineRec.lockoutAt
    repeat' split
    · exact congrArg (fun r : LineRec => { r with lockoutStart := some s.now }) h
    · exact congrArg (fun r : LineRec => { r with lockoutStart := none }) h
    · exact h
  have hcount : ((s.updLine l fun r => { r with callState := st }).countHit l).line l =
      { (s.line l).hit s.now s.params.hitsWindow with callState := st } := by
    rw [State.line_countHit, State.line_updLine, if_pos rfl]
    exact LineRec.hit_setCallState ..
  have hk : State.Kept s ((s.updLine l fun r => { r with callState := st }).countHit l) :=
    State.countHit_kept (State.updLine_kept (.refl s) l _) l
  have he := State.examineHits_line ((s.updLine l fun r => { r with callState := st }).countHit l) l
  rw [hcount, hk.now_eq, hk.params_eq] at he
  unfold State.reportTaken
  rw [State.line_updLine, if_pos rfl]
  exact hlock _ _ he

/-- The record of a line after a changed report (R12–R15, R18), but for its access state and ticket. -/
theorem State.applyReport_line {l : Nat} {st : CallState} (h : (s.line l).callState ≠ st) :
    ((s.applyReport l st).line l).sansAccess =
      ({ (s.reportTaken l st).line l with
        reOffer := ((s.reportTaken l st).line l).reOffer && !decide (st = .idle ∧ ((s.reportTaken l st).line l).access = .none) } :
        LineRec).sansAccess := by
  rw [State.applyReport_changed h]
  have hc : ((s.reportTaken l st).line l).callState = st := by
    obtain ⟨w, hw⟩ := LineRec.lockoutAt_eq (if s.params.hitsThreshold ≤ ((s.line l).hit s.now s.params.hitsWindow).hits then
      { (s.line l).hit s.now s.params.hitsWindow with callState := st, hits := 0, hitsStart := some s.now, reOffer := false }
      else { (s.line l).hit s.now s.params.hitsWindow with callState := st }) st (s.line l).callState s.now
    have hl := s.reportTaken_line l st
    dsimp only at hl
    rw [hw] at hl
    refine (congrArg LineRec.callState hl :).trans ?_
    show LineRec.callState (ite _ _ _) = st
    split <;> rfl
  split
  · next hidle =>
    have hr := State.examineReOffer_line (s.reportTaken l st) l
    rw [hc] at hr
    exact ((State.examineIdleRetest_offerWork (.refl _) l).line l).trans hr
  · next hidle =>
    simp only [hidle, false_and, decide_false, Bool.not_false, Bool.and_true]
    rfl

end Sys2Proof.Machine

open Sys2Proof Sys2Proof.Machine in
/-- Settles O51: the two branches of a hit, and what a report that stays below the threshold leaves of the count. -/
theorem hitIsCountedInTheWindow : Obligations.HitIsCountedInTheWindow := by
  intro l s
  refine ⟨fun start hs hw => ?_, fun h => ?_, fun k hk => ?_, rfl, State.applyReport_same rfl, fun st hst hlt => ?_⟩
  · rw [State.line_countHit, LineRec.hit_within hs hw]
  · rw [State.line_countHit, LineRec.hit_restarts h]
  · rw [State.countHit_eq, State.line_updLine, if_neg hk]
  · rw [State.line_countHit] at hlt ⊢
    obtain ⟨w, hw⟩ := LineRec.lockoutAt_eq ({ (s.line l).hit s.now s.params.hitsWindow with callState := st } : LineRec) st
      (s.line l).callState s.now
    have htaken := s.reportTaken_line l st
    dsimp only at htaken
    rw [if_neg (by omega), hw] at htaken
    have happly := State.applyReport_line (s := s) (l := l) (Ne.symm hst)
    exact ⟨(congrArg LineRec.hits happly :).trans (congrArg LineRec.hits htaken :),
      (congrArg LineRec.hitsStart happly :).trans (congrArg LineRec.hitsStart htaken :),
      (congrArg LineRec.callState happly :).trans (congrArg LineRec.callState htaken :)⟩
end

section
/-! SUPPORT and PROOF of O52: offers while every fitting slot is taken. -/

namespace Sys2Proof.Machine

/-! ### A quiet moment, by what it looks at -/

variable {s t : State}

/-- What a quiet moment is told by. -/
theorem State.Quiet.of_same (h : s.Quiet) (hr : t.resetInput = s.resetInput) (hs : t.settled) (hl : t.htp.latch = s.htp.latch)
    (ho : t.core.oh = s.core.oh) (hsh : t.core.shelves = s.core.shelves) (hse : t.core.sets = s.core.sets)
    (hsl : t.ac.slots = s.ac.slots) (ht : t.core.tc.tickets.length = s.core.tc.tickets.length) : t.Quiet where
  live := hr.trans h.live
  settled := hs
  latch := hl.trans h.latch
  ready := by rw [ho]; exact h.ready
  conditions :=
    { shelf := by simp only [ho, Core.anyShelfSilent, hsh]; exact h.conditions.shelf
      testSet := by simp only [ho, Core.anySetSilent, hse]; exact h.conditions.testSet
      bus := by
        have hk : ∀ b, t.slot b = s.slot b := fun b => by simp only [State.slot, hsl]
        simp only [ho, State.anyFaulted, hk]
        exact h.conditions.bus
      table := by rw [ho, ht]; exact h.conditions.table }

/-! ### Offers while every fitting slot is taken -/

/-- No slot is FREE with its test set READY. -/
def State.slotsTaken (s : State) : Prop := ∀ b ∈ slotNumbers, ¬((s.slot b).state = .free ∧ (s.testSet b).state = .ready)

theorem State.visit_of_taken (h : s.slotsTaken) (r : Request) : s.visit r = s := by
  rcases s.visit_grants r with hv | ⟨b, hb, hf, -, -⟩
  · exact hv
  · exact absurd (State.free_of_fitting hf) (h b hb)

theorem State.walk_of_taken (h : s.slotsTaken) : s.walk = s := by
  have hfold : ∀ l : List Request, l.foldl State.visit s = s := by
    intro l
    induction l with
    | nil => rfl
    | cons r l ih => rw [List.foldl_cons, State.visit_of_taken h r, ih]
  exact hfold _

/-- The walk owed is no longer owed. -/
def State.walked (s : State) : State := s.updAc fun a => { a with walkDue := false }

theorem State.walked_of_settled (h : s.settled) : s.walked = s := by
  obtain ⟨hw, -⟩ := h
  obtain ⟨_, _, _, _, _, _, ⟨_, _, _, _, _⟩, _, _, _⟩ := s
  subst hw
  rfl

/-- With every fitting slot taken a walk grants nothing. -/
theorem State.settle_of_taken (h : s.slotsTaken) (hd : s.ac.departed = false) : s.settle = s.walked := by
  have hw : (s.walked).settled := ⟨rfl, hd⟩
  unfold State.settle State.settleRounds
  simp only [hd, Bool.false_eq_true, if_false]
  split
  · rw [← State.walked, State.walk_of_taken (s := s.walked) h]
    exact State.settleRounds_of_settled hw
  · next hn => exact (State.walked_of_settled ⟨by simpa using hn, hd⟩).symm

theorem mem_insertBy {α : Type} (before : α → α → Bool) (x : α) (l : List α) : x ∈ insertBy before x l :=
  (insertBy_perm before x l).mem_iff.mpr List.mem_cons_self

/-- A request as it stands in the queue (R22). -/
def State.entered (s : State) (r : Request) : Request := { r with entry := s.now, waitDue := some (s.after (1000 * r.wait)) }

theorem State.enterQueue_queue (s : State) (r : Request) :
    (s.enterQueue r).ac.queue = insertBy (fun x y => x.cls.before y.cls) (s.entered r) s.ac.queue := rfl

theorem State.enterQueue_length (s : State) (r : Request) : (s.enterQueue r).ac.queue.length = s.ac.queue.length + 1 := by
  rw [State.enterQueue_queue, length_insertBy]

theorem State.mem_enterQueue (s : State) (r : Request) : s.entered r ∈ (s.enterQueue r).ac.queue := by
  rw [State.enterQueue_queue]
  exact mem_insertBy ..

theorem State.line_enterQueue (s : State) (r : Request) (k : Nat) :
    (s.enterQueue r).line k = if k = r.line then { s.line r.line with access := .queued } else s.line k :=
  State.line_updLine _ _ _ _

theorem State.access_enterQueue (s : State) (r : Request) : ((s.enterQueue r).line r.line).access = .queued := by
  rw [State.line_enterQueue, if_pos rfl]

/-- An offer accepted while every fitting slot is taken waits in the queue. -/
theorem State.offerAndDrop_accepted {r : Request} (hr : s.refusal r = none) (h : s.slotsTaken) (hd : s.ac.departed = false) :
    s.offerAndDrop r = (s.enterQueue r).walked := by
  unfold State.offerAndDrop State.offer State.offerCore
  simp only [hr]
  exact State.settle_of_taken (s := s.enterQueue r) h hd

theorem State.offerAndDrop_refused {r : Request} (hr : s.refusal r ≠ none) : s.offerAndDrop r = s := by
  obtain ⟨a, ha⟩ := Option.ne_none_iff_exists'.mp hr
  unfold State.offerAndDrop State.offer State.offerCore
  simp only [ha]

/-! ### A ticket changed -/

theorem Core.ticket_putTicket {c : Core} {n : Nat} {t : Ticket} (h : c.ticket n = some t) {f : Ticket → Ticket}
    (hf : ∀ u, (f u).number = u.number) : (c.putTicket n f).ticket n = some (f t) := by
  have hp : ((fun u => decide (u.number = n)) ∘ fun u => if u.number = n then f u else u) = fun u : Ticket => decide (u.number = n) := by
    funext u
    simp only [Function.comp_apply]
    split <;> simp [hf]
  have hfind : (c.tc.tickets.map fun u => if u.number = n then f u else u).find? (fun u => decide (u.number = n)) = some (f t) := by
    rw [List.find?_map, hp]
    rw [show c.tc.tickets.find? (fun u => decide (u.number = n)) = some t from h]
    simp [(Tc.find_some h).2]
  simp only [Core.putTicket, h]
  exact hfind

/-- A change of a ticket that leaves what it counts under leaves all but the table and the group records. -/
theorem Core.putTicket_same {c : Core} {n : Nat} {t : Ticket} (h : c.ticket n = some t) {f : Ticket → Ticket}
    (hf : (f t).counts = t.counts) :
    c.putTicket n f =
      { c with
        tc := { c.tc with tickets := c.tc.tickets.map fun u => if u.number = n then f u else u }
        gm := (c.putTicket n f).gm } := by
  simp only [Core.putTicket, h, Oh.recount, hf, if_true]
  rfl

/-- The TC's request for the retest that ticket n wants (R122). -/
def State.ticketRequest (s : State) (n : Nat) (t : Ticket) (w : Retest) : Request :=
  s.retestRequest t.subject (s.routineProgramme t.subject) w.reason (some n)

/-- A retest that has been offered and accepted (R122). -/
def Retest.accepted (w : Retest) : Retest := { w with due := .outstanding, fellDue := none }

/-- The part once the request of ticket n's retest stands in the queue and the retest is outstanding. -/
def State.retestQueued (s : State) (n : Nat) (t : Ticket) (w : Retest) : State :=
  ((s.enterQueue (s.ticketRequest n t w)).updCore fun c => c.putTicket n fun t => { t with retest := some w.accepted }).walked

/-- What the accepted retest changes: the queue, the line's access state, the ticket and the group records. -/
theorem State.retestQueued_eq {n : Nat} {t : Ticket} (ht : s.core.ticket n = some t) (w : Retest) :
    ∃ gm, s.retestQueued n t w =
      { (s.enterQueue (s.ticketRequest n t w)).walked with
        core := { (s.enterQueue (s.ticketRequest n t w)).core with
          tc := { s.core.tc with
            tickets := s.core.tc.tickets.map fun u => if u.number = n then { u with retest := some w.accepted } else u }
          gm := gm } } := by
  have hput := Core.putTicket_same (c := (s.enterQueue (s.ticketRequest n t w)).core)
    (f := fun t => { t with retest := some w.accepted }) ht rfl
  exact ⟨_, congrArg (fun c => State.walked { s.enterQueue (s.ticketRequest n t w) with core := c }) hput⟩

theorem State.retestQueued_ticket {n : Nat} {t : Ticket} (ht : s.core.ticket n = some t) (w : Retest) :
    (s.retestQueued n t w).core.ticket n = some { t with retest := some w.accepted } :=
  Core.ticket_putTicket (c := (s.enterQueue (s.ticketRequest n t w)).core) (f := fun t => { t with retest := some w.accepted }) ht
    fun _ => rfl

theorem State.retestQueued_quiet (h : s.Quiet) {n : Nat} {t : Ticket} (ht : s.core.ticket n = some t) (w : Retest) :
    (s.retestQueued n t w).Quiet := by
  obtain ⟨gm, he⟩ := State.retestQueued_eq ht w
  rw [he]
  exact h.of_same rfl ⟨rfl, h.settled.2⟩ rfl rfl rfl rfl rfl (List.length_map _)

/-- A retest due at a time that has come, its offer accepted while every fitting slot is taken (R122). -/
theorem State.retestFallsDue_accepted {n : Nat} {t : Ticket} {w : Retest} {due : Nat} (ht : s.core.ticket n = some t)
    (hk : t.kind = .line) (hw : t.retest = some w) (hdue : w.due = .dueAt due) (hnow : due ≤ s.now) (hfell : w.fellDue = none)
    (h : s.slotsTaken) (hd : s.ac.departed = false) (hr : s.refusal (s.ticketRequest n t w) = none) :
    s.retestFallsDue n = s.retestQueued n t w := by
  have hrd : s.retestDue t = true := by simp [State.retestDue, hk, hw, hdue, hnow]
  have hfalls : s.retestFallsDue n = s.offerFallen n := by simp [State.retestFallsDue, ht, hw, hdue, hnow, hfell]
  unfold State.ticketRequest at hr
  have hoffer : (s.offerRetest n).1 = (s.enterQueue (s.ticketRequest n t w)).updCore fun c =>
      c.putTicket n fun t => { t with retest := some w.accepted } := by
    unfold State.offerRetest State.offerCore
    simp only [ht, hrd, if_true, hw, hr]
    rfl
  rw [hfalls, State.offerFallen, hoffer]
  refine State.settle_of_taken (fun b hb => ?_) hd
  have hput := Core.putTicket_same (c := (s.enterQueue (s.ticketRequest n t w)).core)
    (f := fun t => { t with retest := some w.accepted }) ht rfl
  simp only [State.updCore]
  rw [hput]
  exact h b hb

/-! ### LOCKOUT retests -/

/-- The LW's LOCKOUT retest of a line (R16). -/
def State.lockoutRequest (s : State) (l : Nat) : Request := s.retestRequest l s.params.lockoutProgramme .lockout none

/-- The lockout start of a line is gone, its one offer having been made (R16). -/
def State.lockoutOffered (s : State) (l : Nat) : State := s.updLine l fun r => { r with lockoutStart := none }

theorem State.lockoutOffered_line (s : State) (l k : Nat) :
    (s.lockoutOffered l).line k = if k = l then { s.line l with lockoutStart := none } else s.line k := State.line_updLine ..

/-- A line in lockout for the lockout delay with its access NONE has its LOCKOUT retest offered (R16). -/
theorem State.examineLockout_due {l start : Nat} (hs : (s.line l).lockoutStart = some start) (hst : (s.line l).callState = .lockout)
    (hdue : start + s.params.lockoutDelay ≤ s.now) (ha : (s.line l).access = .none) :
    s.examineLockout l = (s.offerAndDrop (s.lockoutRequest l)).lockoutOffered l := by
  unfold State.examineLockout
  simp only [hs]
  exact if_pos ⟨hst, hdue, ha⟩

end Sys2Proof.Machine

open Sys2Proof Sys2Proof.Machine in
/-- Settles O52: each half is the one offer of its retest, which ends quietly. -/
theorem dueRetestsAreOffered : Obligations.DueRetestsAreOffered := by
  refine ⟨fun l start s hq hs hst hdue ha h => ?_, fun number t w due s hq ht hk hw hwd hnow hfell h hr => ?_⟩
  · have hexec : exec (.lockoutDelayExpiry l) s = .next (s.examineLockout l.val).finish := State.command_of_live hq.live _
    rw [State.examineLockout_due hs hst hdue ha] at hexec
    rcases Classical.em (s.refusal (s.lockoutRequest l.val) = none) with hr | hr
    · have hquiet : ((s.enterQueue (s.lockoutRequest l.val)).walked.lockoutOffered l.val).Quiet :=
        hq.of_same rfl ⟨rfl, hq.settled.2⟩ rfl rfl rfl rfl rfl rfl
      rw [State.offerAndDrop_accepted hr h hq.settled.2, State.finish_of_quiet hquiet] at hexec
      refine ⟨_, hexec, ?_, rfl, rfl, fun k hkl => ?_, rfl, fun _ => ⟨?_, s.enterQueue_length (s.lockoutRequest l.val),
        _, s.mem_enterQueue (s.lockoutRequest l.val), rfl, rfl, rfl, rfl⟩, fun hne => absurd hr hne⟩
      · rw [State.lockoutOffered_line, if_pos rfl]
      · rw [State.lockoutOffered_line, if_neg hkl]
        exact (s.line_enterQueue (s.lockoutRequest l.val) k).trans (if_neg hkl)
      · rw [State.lockoutOffered_line, if_pos rfl]
        exact s.access_enterQueue (s.lockoutRequest l.val)
    · have hquiet : (s.lockoutOffered l.val).Quiet := hq.of_same rfl hq.settled rfl rfl rfl rfl rfl rfl
      rw [State.offerAndDrop_refused hr, State.finish_of_quiet hquiet] at hexec
      refine ⟨_, hexec, ?_, rfl, rfl, fun k hkl => ?_, rfl, fun he => absurd he hr, fun _ => rfl⟩
      · rw [State.lockoutOffered_line, if_pos rfl]
      · rw [State.lockoutOffered_line, if_neg hkl]
  · have hexec : exec (.retestDue number) s = .next (s.retestFallsDue number.toNat).finish := State.command_of_live hq.live _
    rw [State.retestFallsDue_accepted ht hk hw hwd hnow hfell h hq.settled.2 hr,
      State.finish_of_quiet (State.retestQueued_quiet hq ht w)] at hexec
    have hticket := State.retestQueued_ticket ht w
    have hsame : w.accepted = { w with due := .outstanding } := by rw [Retest.accepted, ← hfell]
    rw [hsame] at hticket
    refine ⟨_, hexec, hticket, ?_⟩
    obtain ⟨gm, he⟩ := State.retestQueued_eq ht w
    rw [he]
    exact ⟨s.access_enterQueue (s.ticketRequest number.toNat t w), s.enterQueue_length (s.ticketRequest number.toNat t w),
      ⟨_, s.mem_enterQueue (s.ticketRequest number.toNat t w), rfl, rfl, rfl, rfl, rfl, rfl⟩, rfl, rfl, rfl⟩
end

section
/-! PROOF of O19: LOAD LINE changes the core alone. -/

namespace Sys2Proof.Machine

variable {s : State}

/-! ### Records judged -/

/-- Records that are each taken are taken together. -/
theorem judgeAll_of_ok {α β : Type} {judge : α → Judged β} {g : α → β} {l : List α} (n : Nat) (h : ∀ x ∈ l, judge x = .ok (g x)) :
    judgeAll judge n l = .ok (l.map g) := by
  induction l generalizing n with
  | nil => rfl
  | cons x l ih =>
    have hx := h x List.mem_cons_self
    have hl := ih (n + 1) fun y hy => h y (List.mem_cons_of_mem x hy)
    simp only [judgeAll, hx, hl, List.map_cons]

/-- A LOAD whose records are all taken answers ACCEPTED and applies them (R182). -/
theorem State.loadSome_of_ok {α β : Type} (hs : s.csi.saving = none) (i : Instr) {records : List α} (hne : records ≠ [])
    {judge : α → Judged β} {g : α → β} (h : ∀ x ∈ records, judge x = .ok (g x)) (apply : State → List β → State) :
    s.loadSome i records judge apply = apply (s.answer i .accepted) (records.map g) := by
  simp only [State.loadSome, if_neg hne, State.load, hs, judgeAll_of_ok 0 h, Option.isSome_none, Bool.false_eq_true, if_false]

/-! ### LOAD LINE -/

/-- The configuration part that a good LINE record carries (R2). -/
def settingOf (r : LineArg) : LineSetting :=
  { group := r.group.toNat, routineEnabled := decide (r.routineEnabled = 1),
    programme := if r.programme = 0xFF then none else some r.programme.toNat }

theorem judgeLine_of_good {r : LineArg} (hg : r.group.toNat ≤ 127) (he : r.routineEnabled.toNat ≤ 1)
    (hp : r.programme.toNat ≤ 31 ∨ r.programme = 0xFF) : judgeLine r = .ok (settingOf r) := by
  have hb : boolOfCode r.routineEnabled.toNat = some (decide (r.routineEnabled = 1)) := by
    have hone : r.routineEnabled = 1 ↔ r.routineEnabled.toNat = 1 := BitVec.toNat_inj.symm
    rcases Nat.le_one_iff_eq_zero_or_eq_one.mp he with h | h
    · rw [decide_eq_false (by rw [hone, h]; decide), h]; rfl
    · rw [decide_eq_true (hone.mpr h), h]; rfl
  have hgood : (decide (r.group.toNat ≤ 127) && (decide (r.programme.toNat ≤ 31) || decide (r.programme = 0xFF))) = true := by
    simpa [hg] using hp
  simp only [judgeLine, hb, Judged.guard, hgood, if_true]
  rfl

/-- A record with its line's number, judged. -/
def numberedSetting (x : LineArg × Nat) : Nat × LineSetting := (x.2, settingOf x.1)

/-- The configuration part of a line's record replaced (R2). -/
def LineSetting.put (x : LineSetting) (r : LineRec) : LineRec :=
  { r with group := x.group, routineEnabled := x.routineEnabled, programme := x.programme }

/-- The lines of a block of records, with their settings. -/
def Core.setLines (c : Core) (rs : List (Nat × LineSetting)) : Core := rs.foldl (fun c r => c.updLine r.1 r.2.put) c

/-- Consecutive records replace the configuration parts of their lines and touch no other line. -/
theorem Core.setLines_line (records : List LineArg) (n : Nat) (c : Core) :
    (∀ k r, records[k]? = some r →
      (c.setLines ((records.zipIdx n).map numberedSetting)).line (n + k) = (settingOf r).put (c.line (n + k)))
      ∧ ∀ l, (l < n ∨ n + records.length ≤ l) → (c.setLines ((records.zipIdx n).map numberedSetting)).line l = c.line l := by
  induction records generalizing n c with
  | nil => exact ⟨fun k r h => by simp at h, fun l _ => rfl⟩
  | cons x records ih =>
    obtain ⟨inside, outside⟩ := ih (n + 1) (c.updLine n (settingOf x).put)
    have hcons : c.setLines (((x :: records).zipIdx n).map numberedSetting) =
        (c.updLine n (settingOf x).put).setLines ((records.zipIdx (n + 1)).map numberedSetting) := rfl
    rw [hcons]
    refine ⟨fun k r h => ?_, fun l hl => ?_⟩
    · cases k with
      | zero =>
        obtain rfl : x = r := by simpa using h
        rw [outside _ (by omega), Core.line_updLine, if_pos (by omega)]
        rfl
      | succ k =>
        rw [show n + (k + 1) = n + 1 + k by omega, inside k r (by simpa using h), Core.line_updLine, if_neg (by omega)]
    · rw [List.length_cons] at hl
      rw [outside l (by omega), Core.line_updLine, if_neg (by omega)]

/-- A fold of changes of the core is a change of the core. -/
theorem State.foldl_updCore {β : Type} (f : Core → β → Core) (l : List β) (s : State) :
    l.foldl (fun s x => s.updCore fun c => f c x) s = s.updCore fun c => l.foldl f c := by
  induction l generalizing s with
  | nil => rfl
  | cons x l ih => rw [List.foldl_cons, ih]; rfl

/-- Line records change the core alone: the settings, and then work on tickets. -/
theorem State.applyLines_eq (s : State) (rs : List (Nat × LineSetting)) :
    ∃ g : Core → Core, s.applyLines rs = s.updCore (fun c => g (c.setLines rs)) ∧ ∀ c, Core.TicketWork c (g c) := by
  refine ⟨fun c => ((rs.filter fun r => decide ((s.line r.1).group ≠ r.2.group)).map (·.1)).foldl Core.lineRegrouped c, ?_,
    fun c => Core.foldl_work (fun c l => Core.lineRegrouped_work (.refl c) l) _ c⟩
  have hset : rs.foldl (fun s r => s.setLineSetting r.1 r.2) s = s.updCore (·.setLines rs) :=
    State.foldl_updCore (fun c (r : Nat × LineSetting) => c.updLine r.1 r.2.put) rs s
  unfold State.applyLines
  simp only [hset]
  exact State.foldl_updCore Core.lineRegrouped _ _

/-- At a moment with nothing owed and no ORDER latched the end of a command shows the conditions and does nothing else. -/
theorem State.finish_of_settled {s : State} (hr : s.core.oh.ready = true) (hs : s.settled) (hl : s.htp.latch = none) :
    s.finish = s.refreshConditions := by
  unfold State.finish
  rw [State.settle_of_settled hs, State.examineReadiness_of_ready, State.takeBadOrder_of_empty]
  · exact hl
  · rw [(State.refreshConditions_kept (.refl s)).core.oh.ready]
    exact hr

end Sys2Proof.Machine

open Sys2Proof Sys2Proof.Machine in
/-- Settles O19: the records are all taken, they change the core alone, and what follows for the tickets leaves the configuration. -/
theorem linesAreLoaded : Obligations.LinesAreLoaded := by
  intro ref first records s ht hsave hlen hlen' hfit hgood
  have hne : numberedLines first records ≠ [] := by
    intro h
    have := congrArg List.length h
    simp only [numberedLines, List.length_zipIdx, List.length_nil] at this
    omega
  have hjudge : ∀ x ∈ numberedLines first records, judgeNumberedLine x = .ok (numberedSetting x) := by
    rintro ⟨r, l⟩ hx
    obtain ⟨hge, hlt, hr⟩ := List.mem_zipIdx hx
    obtain ⟨hgroup, henabled, hprog⟩ := hgood r (hr ▸ List.getElem_mem _)
    rw [judgeNumberedLine, if_neg (by simp only; omega), judgeLine_of_good hgroup henabled hprog]
    rfl
  have hans : s.answer (.loadLine ref first records) .accepted = s.withUpFrame (s.answerFrame (.loadLine ref first records) .accepted []) :=
    State.answer_eq s rfl .accepted []
  have hquiet := ht.quiet.withUpFrame (s.answerFrame (.loadLine ref first records) .accepted [])
  have hexec : exec (.loadLine ref first records) s =
      .next ((s.withUpFrame (s.answerFrame (.loadLine ref first records) .accepted [])).applyLines
        ((numberedLines first records).map numberedSetting)).finish := by
    refine (State.orderCommand_of_takes ht _ _).trans ?_
    rw [if_neg (by omega), State.loadSome_of_ok hsave _ hne hjudge, hans]
  obtain ⟨g, happly, hwork⟩ := (s.withUpFrame (s.answerFrame (.loadLine ref first records) .accepted [])).applyLines_eq
    ((numberedLines first records).map numberedSetting)
  have hready := ((s.withUpFrame (s.answerFrame (.loadLine ref first records) .accepted [])).applyLines_kept
    ((numberedLines first records).map numberedSetting)).core.oh.ready.trans hquiet.ready
  rw [happly] at hexec hready
  rw [State.finish_of_settled hready hquiet.settled hquiet.latch] at hexec
  obtain ⟨inside, outside⟩ := Core.setLines_line records first.toNat s.core
  have hline := (hwork (s.core.setLines ((numberedLines first records).map numberedSetting))).line
  have hother : ∀ l, ∃ x : LineSetting, (s.core.setLines ((numberedLines first records).map numberedSetting)).line l =
      x.put (s.line l) := by
    intro l
    rcases Nat.lt_or_ge l first.toNat with h | h
    · exact ⟨⟨_, _, _⟩, outside l (.inl h)⟩
    · rcases Nat.lt_or_ge (l - first.toNat) records.length with h' | h'
      · have := inside (l - first.toNat) _ (List.getElem?_eq_getElem h')
        rw [Nat.add_sub_cancel' h] at this
        exact ⟨_, this⟩
      · exact ⟨⟨_, _, _⟩, outside l (.inr (by omega))⟩
  refine ⟨_, hexec, fun k r hr => ?_, fun l hl => ?_, fun l => ?_, rfl, rfl, rfl, rfl, rfl, rfl⟩
  · have hin : _ = LineRec.sansTicket _ := (hline (first.toNat + k)).trans (congrArg LineRec.sansTicket (inside k r hr))
    exact ⟨(congrArg LineRec.group hin :), (congrArg LineRec.routineEnabled hin :), (congrArg LineRec.programme hin :)⟩
  · have hout : _ = LineRec.sansTicket _ := (hline l).trans (congrArg LineRec.sansTicket (outside l hl))
    exact ⟨(congrArg LineRec.group hout :), (congrArg LineRec.routineEnabled hout :), (congrArg LineRec.programme hout :)⟩
  · obtain ⟨x, hx⟩ := hother l
    have hrest : _ = LineRec.sansTicket _ := (hline l).trans (congrArg LineRec.sansTicket hx)
    exact ⟨(congrArg LineRec.callState hrest :), (congrArg LineRec.access hrest :), (congrArg LineRec.channels hrest :),
      (congrArg LineRec.trend hrest :)⟩
end

section
/-! SUPPORT. What a report of a changed call state offers while every fitting slot is taken and no retest is wanted. -/

namespace Sys2Proof.Machine

variable {s u t : State} {l : Nat}

/-! ### A line's own HITS retest -/

/-- The HITS retest that the LW offers for a line (R14, R18). -/
def State.hitsRequest (s : State) (l : Nat) : Request := s.retestRequest l (s.routineProgramme l) .hits none

/-- Up to the offer, a report changes the record of its line alone, and neither its access state nor its programme. -/
structure State.Noted (l : Nat) (s u : State) : Prop where
  rest : ∃ x, u = { s with core := { s.core with lines := x } }
  access : (u.line l).access = (s.line l).access
  programme : (u.line l).programme = (s.line l).programme

/-- After an offer that was accepted and waits, the request stands in the queue and the line is QUEUED. -/
structure State.Offered (l : Nat) (s u : State) : Prop where
  rest : ∃ x, u = { s with core := { s.core with lines := x }, ac := (s.enterQueue (s.hitsRequest l)).walked.ac }
  access : (u.line l).access = .queued

theorem State.Noted.refl (l : Nat) (s : State) : State.Noted l s s := ⟨⟨_, rfl⟩, rfl, rfl⟩

theorem State.Noted.updLine (h : State.Noted l s u) {f : LineRec → LineRec} (ha : ∀ r, (f r).access = r.access)
    (hp : ∀ r, (f r).programme = r.programme) : State.Noted l s (u.updLine l f) := by
  obtain ⟨⟨x, hx⟩, access, programme⟩ := h
  refine ⟨⟨(u.updLine l f).core.lines, by rw [hx]; rfl⟩, ?_, ?_⟩
  · rw [State.line_updLine, if_pos rfl, ha, access]
  · rw [State.line_updLine, if_pos rfl, hp, programme]

theorem State.Offered.updLine (h : State.Offered l s u) {f : LineRec → LineRec} (ha : ∀ r, (f r).access = r.access) :
    State.Offered l s (u.updLine l f) := by
  obtain ⟨⟨x, hx⟩, access⟩ := h
  refine ⟨⟨(u.updLine l f).core.lines, by rw [hx]; rfl⟩, ?_⟩
  rw [State.line_updLine, if_pos rfl, ha, access]

/-- The offer made is the one that the line's record before the report tells of. -/
theorem State.Noted.hitsRequest (h : State.Noted l s u) : u.hitsRequest l = s.hitsRequest l := by
  obtain ⟨⟨x, hx⟩, -, programme⟩ := h
  have hr : u.routineProgramme l = s.routineProgramme l := by
    unfold State.routineProgramme
    rw [programme, hx]
    rfl
  unfold State.hitsRequest
  rw [hr, hx]
  rfl

theorem State.Noted.refusal (h : State.Noted l s u) : u.refusal (u.hitsRequest l) = s.refusal (s.hitsRequest l) := by
  rw [h.hitsRequest]
  obtain ⟨⟨x, hx⟩, access, -⟩ := h
  have ha : (u.line (s.hitsRequest l).line).access = (s.line (s.hitsRequest l).line).access := access
  unfold State.refusal
  rw [ha, hx]
  rfl

theorem State.Noted.slotsTaken (h : State.Noted l s u) (ht : s.slotsTaken) : u.slotsTaken := by
  obtain ⟨⟨x, rfl⟩, -, -⟩ := h
  exact ht

theorem State.Noted.settled (h : State.Noted l s u) (hs : s.settled) : u.settled := by
  obtain ⟨⟨x, rfl⟩, -, -⟩ := h
  exact hs

/-- An accepted offer waits. -/
theorem State.Noted.offerHits_accepted (h : State.Noted l s u) (ht : s.slotsTaken) (hs : s.settled)
    (hr : s.refusal (s.hitsRequest l) = none) : State.Offered l s (u.offerHits l) := by
  have ho : u.offerHits l = (u.enterQueue (s.hitsRequest l)).walked := by
    rw [← h.hitsRequest]
    exact State.offerAndDrop_accepted (h.refusal.trans hr) (h.slotsTaken ht) (h.settled hs).2
  rw [ho]
  obtain ⟨⟨x, hx⟩, -, -⟩ := h
  refine ⟨⟨(u.enterQueue (s.hitsRequest l)).core.lines, by rw [hx]; rfl⟩, u.access_enterQueue (s.hitsRequest l)⟩

/-- A refused offer is dropped. -/
theorem State.Noted.offerHits_refused (h : State.Noted l s u) (hr : s.refusal (s.hitsRequest l) ≠ none) : u.offerHits l = u :=
  State.offerAndDrop_refused (h.refusal.trans_ne hr)

/-- With no retest wanted there is none to fall due as the line becomes idle. -/
theorem State.examineIdleRetest_of_noRetests (h : s.noRetests) (l : Nat) : s.examineIdleRetest l = s := by
  unfold State.examineIdleRetest
  split
  · rfl
  · next t ht =>
    obtain ⟨n, -, hn⟩ := Option.bind_eq_some_iff.mp ht
    rw [if_neg (by simp [h t (Tc.find_some hn).1])]

/-! ### What a changed report offers -/

theorem LineRec.hit_programme (r : LineRec) (now window : Nat) : (r.hit now window).programme = r.programme := by
  unfold LineRec.hit
  repeat' split
  all_goals rfl

theorem LineRec.lockoutAt_access (r : LineRec) (st was : CallState) (now : Nat) : (r.lockoutAt st was now).access = r.access := by
  unfold LineRec.lockoutAt
  repeat' split
  all_goals rfl

theorem LineRec.lockoutAt_programme (r : LineRec) (st was : CallState) (now : Nat) :
    (r.lockoutAt st was now).programme = r.programme := by
  unfold LineRec.lockoutAt
  repeat' split
  all_goals rfl

/-- The count after a hit. -/
def State.hitsAfter (s : State) (l : Nat) : Nat := ((s.line l).hit s.now s.params.hitsWindow).hits

/-- The part with a changed report's call state and hit (R12, R13). -/
theorem State.counted_noted (s : State) (l : Nat) (st : CallState) :
    State.Noted l s ((s.updLine l fun r => { r with callState := st }).countHit l) := by
  have h := (State.Noted.refl l s).updLine (f := fun r => { r with callState := st }) (fun _ => rfl) fun _ => rfl
  rw [State.countHit_eq]
  exact h.updLine (fun r => r.hit_access ..) fun r => r.hit_programme ..

theorem State.counted_hits (s : State) (l : Nat) (st : CallState) :
    (((s.updLine l fun r => { r with callState := st }).countHit l).line l).hits = s.hitsAfter l := by
  rw [State.line_countHit, State.line_updLine, if_pos rfl, LineRec.hit_setCallState]
  rfl

/-- A count below the threshold offers nothing. -/
theorem State.reportTaken_below {st : CallState} (h : s.hitsAfter l < s.params.hitsThreshold) : State.Noted l s (s.reportTaken l st) := by
  unfold State.reportTaken
  rw [State.examineHits_below ((s.counted_hits l st).trans_lt h)]
  exact (s.counted_noted l st).updLine (fun r => r.lockoutAt_access ..) fun r => r.lockoutAt_programme ..

theorem State.reportTaken_at {st : CallState} (h : s.params.hitsThreshold ≤ s.hitsAfter l) :
    s.reportTaken l st =
      ((((s.updLine l fun r => { r with callState := st }).countHit l).offerHits l).updLine l fun r =>
        { r with hits := 0, hitsStart := some s.now, reOffer := false }).updLine l fun r => r.lockoutAt st (s.line l).callState s.now := by
  have hc : ((s.updLine l fun r => { r with callState := st }).countHit l).params.hitsThreshold ≤
      (((s.updLine l fun r => { r with callState := st }).countHit l).line l).hits := (s.counted_hits l st).symm ▸ h
  unfold State.reportTaken State.examineHits
  rw [if_pos hc]
  rfl

/-- The record of the line as a report leaves it before an owed re-offer is examined. -/
theorem State.reportTaken_record (s : State) (l : Nat) (st : CallState) :
    ((s.reportTaken l st).line l).callState = st
      ∧ ((s.reportTaken l st).line l).reOffer = ((s.line l).reOffer && decide (s.hitsAfter l < s.params.hitsThreshold)) := by
  have hl := s.reportTaken_line l st
  dsimp only at hl
  split at hl
  · next hge =>
    have hge : s.params.hitsThreshold ≤ s.hitsAfter l := hge
    obtain ⟨w, hw⟩ := LineRec.lockoutAt_eq ({ (s.line l).hit s.now s.params.hitsWindow with
      callState := st, hits := 0, hitsStart := some s.now, reOffer := false } : LineRec) st (s.line l).callState s.now
    rw [hw] at hl
    refine ⟨(congrArg LineRec.callState hl :), (congrArg LineRec.reOffer hl :).trans ?_⟩
    rw [decide_eq_false (Nat.not_lt.mpr hge), Bool.and_false]
    rfl
  · next hlt =>
    have hlt : s.hitsAfter l < s.params.hitsThreshold := Nat.lt_of_not_le hlt
    obtain ⟨w, hw⟩ := LineRec.lockoutAt_eq ({ (s.line l).hit s.now s.params.hitsWindow with callState := st } : LineRec) st
      (s.line l).callState s.now
    rw [hw] at hl
    refine ⟨(congrArg LineRec.callState hl :), (congrArg LineRec.reOffer hl :).trans ?_⟩
    rw [decide_eq_true hlt, Bool.and_true]
    exact LineRec.hit_reOffer ..

/-- The report owes an offer: the count has reached the threshold, or a re-offer is owed to a line now idle (R14, R18). -/
def State.offerOwed (s : State) (l : Nat) (st : CallState) : Prop :=
  s.params.hitsThreshold ≤ s.hitsAfter l ∨ (st = .idle ∧ (s.line l).reOffer = true ∧ (s.line l).access = .none)

/-- No re-offer is made while none is owed to an idle line with the access NONE. -/
theorem State.examineReOffer_none (h : ¬((s.line l).reOffer = true ∧ (s.line l).callState = .idle ∧ (s.line l).access = .none)) :
    s.examineReOffer l = s := if_neg h

theorem State.examineReOffer_owed (h : (s.line l).reOffer = true ∧ (s.line l).callState = .idle ∧ (s.line l).access = .none) :
    s.examineReOffer l = (s.offerHits l).updLine l fun r => { r with reOffer := false } := if_pos h

/-- The part after a report that has been taken: the re-offer of a line now idle examined (R18). -/
def State.reOffered (s : State) (l : Nat) (st : CallState) : State :=
  if st = .idle then (s.reportTaken l st).examineReOffer l else s.reportTaken l st

/-- The re-offer of a report that has been taken, when the count has offered already or stays below the threshold. -/
theorem State.reOffer_cases (ht : s.slotsTaken) (hs : s.settled) (st : CallState) :
    (s.offerOwed l st → s.refusal (s.hitsRequest l) = none → State.Offered l s (s.reOffered l st))
      ∧ (¬(s.offerOwed l st ∧ s.refusal (s.hitsRequest l) = none) → State.Noted l s (s.reOffered l st)) := by
  obtain ⟨hcall, hre⟩ := s.reportTaken_record l st
  rcases Nat.lt_or_ge (s.hitsAfter l) s.params.hitsThreshold with hlt | hge
  · have hn := State.reportTaken_below (st := st) hlt
    have hre' : ((s.reportTaken l st).line l).reOffer = (s.line l).reOffer := by simp [hre, hlt]
    by_cases ho : st = .idle ∧ (s.line l).reOffer = true ∧ (s.line l).access = .none
    · obtain ⟨hidle, howed, hnone⟩ := ho
      have hv : s.reOffered l st = ((s.reportTaken l st).offerHits l).updLine l fun r => { r with reOffer := false } := by
        unfold State.reOffered
        rw [if_pos hidle, State.examineReOffer_owed ⟨hre'.trans howed, hcall.trans hidle, hn.access.trans hnone⟩]
      rw [hv]
      refine ⟨fun _ hr => (hn.offerHits_accepted ht hs hr).updLine fun _ => rfl, fun hnot => ?_⟩
      rw [hn.offerHits_refused fun hr => hnot ⟨.inr ⟨hidle, howed, hnone⟩, hr⟩]
      exact hn.updLine (fun _ => rfl) fun _ => rfl
    · have hv : s.reOffered l st = s.reportTaken l st := by
        unfold State.reOffered
        split
        · next hidle =>
          exact State.examineReOffer_none fun ⟨howed, _, hnone⟩ => ho ⟨hidle, hre'.symm.trans howed, hn.access.symm.trans hnone⟩
        · rfl
      rw [hv]
      exact ⟨fun howed => absurd howed (not_or.mpr ⟨by omega, ho⟩), fun _ => hn⟩
  · have hv : s.reOffered l st = s.reportTaken l st := by
      have hfalse : ((s.reportTaken l st).line l).reOffer = false := by
        rw [hre, decide_eq_false (Nat.not_lt.mpr hge), Bool.and_false]
      unfold State.reOffered
      split
      · exact State.examineReOffer_none fun ⟨howed, _⟩ => Bool.false_ne_true (hfalse.symm.trans howed)
      · rfl
    have hn := s.counted_noted l st
    rw [hv, State.reportTaken_at hge]
    refine ⟨fun _ hr => ?_, fun hnot => ?_⟩
    · refine State.Offered.updLine (State.Offered.updLine (hn.offerHits_accepted ht hs hr) ?_) ?_
      · exact fun _ => rfl
      · exact fun r => r.lockoutAt_access ..
    · rw [hn.offerHits_refused fun hr => hnot ⟨.inl hge, hr⟩]
      refine State.Noted.updLine (State.Noted.updLine hn ?_ ?_) ?_ ?_
      · exact fun _ => rfl
      · exact fun _ => rfl
      · exact fun r => r.lockoutAt_access ..
      · exact fun r => r.lockoutAt_programme ..

theorem State.Noted.noRetests (h : State.Noted l s u) (hr : s.noRetests) : u.noRetests := by
  obtain ⟨⟨x, rfl⟩, -, -⟩ := h
  exact hr

theorem State.Offered.noRetests (h : State.Offered l s u) (hr : s.noRetests) : u.noRetests := by
  obtain ⟨⟨x, rfl⟩, -⟩ := h
  exact hr

/-- The walk owed. -/
def State.walkOwed (s : State) : State := s.updAc fun a => { a with walkDue := true }

/-- What a changed report offers, every fitting slot being taken and no retest wanted (R12–R18). -/
theorem State.applyReport_offers (ht : s.slotsTaken) (hs : s.settled) (hr : s.noRetests) {st : CallState}
    (hst : (s.line l).callState ≠ st) :
    ∃ u, s.applyReport l st = u.walkOwed
      ∧ (s.offerOwed l st → s.refusal (s.hitsRequest l) = none → State.Offered l s u)
      ∧ (¬(s.offerOwed l st ∧ s.refusal (s.hitsRequest l) = none) → State.Noted l s u) := by
  obtain ⟨hacc, href⟩ := State.reOffer_cases (l := l) ht hs st
  refine ⟨_, ?_, hacc, href⟩
  have hnone : (s.reOffered l st).noRetests := by
    rcases Classical.em (s.offerOwed l st ∧ s.refusal (s.hitsRequest l) = none) with h | h
    · exact (hacc h.1 h.2).noRetests hr
    · exact (href h).noRetests hr
  rw [State.applyReport_changed hst]
  unfold State.reOffered at hnone ⊢
  split
  · next hidle =>
    rw [if_pos hidle] at hnone
    rw [State.examineIdleRetest_of_noRetests hnone]
    rfl
  · rfl

end Sys2Proof.Machine
end

section
/-! PROOF of O15: the frame is forwarded and its report taken. -/

namespace Sys2Proof.Machine

variable {s t u v : State} {l : Nat}

/-- At a moment when the part is READY and no ORDER is latched the end of a command settles and shows the conditions. -/
theorem State.finish_of_ready {s : State} (hr : s.core.oh.ready = true) (hl : s.htp.latch = none) :
    s.finish = s.settle.refreshConditions := by
  have hk : State.Kept s s.settle.refreshConditions := State.refreshConditions_kept (State.settle_kept (.refl s))
  unfold State.finish
  rw [State.examineReadiness_of_ready (hk.core.oh.ready.trans hr), State.takeBadOrder_of_empty (hk.latch.trans hl)]

/-- A good LINE_STATE frame for another station is forwarded UP and its report taken (R161–R163). -/
theorem State.frameEnd_lineState {f : Octets} {st : CallState} (hrec : s.receiver .down = .hunting) (hf : frameOctets f = f)
    (hgood : goodFrame f = true) (hother : (f.getD 0 0).toNat ≠ s.core.oh.station) (hkind : (f.getD 2 0).toNat < 240)
    (htreat : (s.htp.entry (f.getD 2 0).toNat).treatment = .lineState)
    (hrep : s.htp.report (s.htp.entry (f.getD 2 0).toNat) (framePayload f) = some (l, st)) :
    s.frameEnd .down f none = ((s.passUp f).lineReport l st).setReceiver .down .hunting := by
  have hne : f ≠ [] := by
    rintro rfl
    exact absurd hgood (by decide)
  have hleft : s.leftOver .down f = [] := by
    unfold State.leftOver
    rw [hrec]
  have hentry : s.htp.treatmentOf (f.getD 2 0).toNat = s.htp.entry (f.getD 2 0).toNat := if_neg (by omega)
  have hpass : s.passFrame .down f = (s.passUp f).lineReport l st := by
    unfold State.passFrame
    simp only [hentry, htreat, hrep]
    rfl
  have hnil : s.frameEnds .down [] = s := if_pos rfl
  have hends : s.frameEnds .down f = (s.passUp f).lineReport l st := by
    unfold State.frameEnds
    rw [if_neg hne, if_pos hgood, if_neg hother, hpass]
  unfold State.frameEnd
  rw [hleft, hnil, hf, hends]

/-- A line in a live access has its report deferred, and any other its report applied (R10, R12). -/
theorem State.lineReport_live {st : CallState} {b : Nat} (ha : (s.line l).access = .inAccess b) (hb : s.slotLive b = true) :
    s.lineReport l st = s.updLine l fun r => { r with deferred := some st } := by
  unfold State.lineReport
  simp only [ha, hb, if_true]

theorem State.lineReport_applied {st : CallState} (h : ∀ b, (s.line l).access = .inAccess b → s.slotLive b = false) :
    s.lineReport l st = s.applyReport l st := by
  unfold State.lineReport
  split
  · next b hb => rw [if_neg (by simp [h b hb])]
  · rfl
  · rfl

/-- What the frame's end leaves of the lines, after the report. -/
theorem State.finish_line (hr : s.core.oh.ready = true) (hl : s.htp.latch = none) (k : Nat) :
    (s.finish.line k).sansAccess = (s.line k).sansAccess := by
  rw [State.finish_of_ready hr hl]
  exact (State.updOh_offerWork (State.settle_offerWork (.refl s)) _).line k

/-- The record of a line whose report has been taken at the end of the command, in the three cases of R13 and R14. -/
structure LineRec.Taken (r is : LineRec) (st : CallState) (now threshold h : Nat) (w : Option Nat) : Prop where
  below : h < threshold → is.hits = h ∧ is.hitsStart = w ∧ is.reOffer = (r.reOffer && !decide (st = .idle ∧ r.access = .none))
  reached : threshold ≤ h → is.hits = 0 ∧ is.hitsStart = some now ∧ is.reOffer = false

/-- The record of a line after a changed report (R12–R15, R18). -/
theorem State.applyReport_taken {st : CallState} (hst : (s.line l).callState ≠ st) {is : LineRec}
    (his : is.sansAccess = ((s.applyReport l st).line l).sansAccess) :
    is.callState = st
      ∧ LineRec.Taken (s.line l) is st s.now s.params.hitsThreshold (s.hitsAfter l) ((s.line l).hit s.now s.params.hitsWindow).hitsStart
      ∧ is.lockoutStart =
          (if st = .lockout then some s.now else if (s.line l).callState = .lockout then none else (s.line l).lockoutStart) := by
  have happly := his.trans (State.applyReport_line hst)
  obtain ⟨hcall, hre⟩ := s.reportTaken_record l st
  have hl := s.reportTaken_line l st
  dsimp only at hl
  refine ⟨(congrArg LineRec.callState happly :).trans hcall, ⟨fun hlt => ?_, fun hge => ?_⟩, ?_⟩
  · have hlt' : ¬s.params.hitsThreshold ≤ ((s.line l).hit s.now s.params.hitsWindow).hits := Nat.not_le.mpr hlt
    obtain ⟨w, hw⟩ := LineRec.lockoutAt_eq ({ (s.line l).hit s.now s.params.hitsWindow with callState := st } : LineRec) st
      (s.line l).callState s.now
    rw [if_neg hlt', hw] at hl
    refine ⟨(congrArg LineRec.hits happly :).trans (congrArg LineRec.hits hl :),
      (congrArg LineRec.hitsStart happly :).trans (congrArg LineRec.hitsStart hl :), (congrArg LineRec.reOffer happly :).trans ?_⟩
    have hacc := (State.reportTaken_below (st := st) hlt).access
    show (_ && _) = _
    rw [hre, hacc, decide_eq_true hlt, Bool.and_true]
  · have hge' : s.params.hitsThreshold ≤ ((s.line l).hit s.now s.params.hitsWindow).hits := hge
    obtain ⟨w, hw⟩ := LineRec.lockoutAt_eq ({ (s.line l).hit s.now s.params.hitsWindow with
      callState := st, hits := 0, hitsStart := some s.now, reOffer := false } : LineRec) st (s.line l).callState s.now
    rw [if_pos hge', hw] at hl
    refine ⟨(congrArg LineRec.hits happly :).trans (congrArg LineRec.hits hl :),
      (congrArg LineRec.hitsStart happly :).trans (congrArg LineRec.hitsStart hl :), (congrArg LineRec.reOffer happly :).trans ?_⟩
    show (_ && _) = _
    rw [hre, decide_eq_false (Nat.not_lt.mpr hge), Bool.and_false, Bool.false_and]
  · refine (congrArg LineRec.lockoutStart happly :).trans ((congrArg LineRec.lockoutStart hl :).trans ?_)
    refine (LineRec.lockoutAt_lockoutStart ..).trans ?_
    have hsame : ∀ r : LineRec, r.lockoutStart = (s.line l).lockoutStart →
        (if st = .lockout then some s.now else if (s.line l).callState = .lockout then none else r.lockoutStart) =
          (if st = .lockout then some s.now else if (s.line l).callState = .lockout then none else (s.line l).lockoutStart) :=
      fun r hr => by rw [hr]
    refine hsame _ ?_
    split
    · exact LineRec.hit_lockoutStart ..
    · exact LineRec.hit_lockoutStart ..

/-- The frame's end after a changed report that stands where every fitting slot is taken: the walk owed is made, and grants nothing. -/
theorem State.finish_walkOwed (hq : v.Quiet) (ht : v.slotsTaken) : v.walkOwed.finish = v := by
  have hw : v.walkOwed.settle = v := by
    rw [State.settle_of_taken (s := v.walkOwed) ht hq.settled.2]
    exact State.walked_of_settled hq.settled
  rw [State.finish_of_ready (s := v.walkOwed) hq.ready hq.latch, hw]
  exact State.refreshConditions_of_shown hq.conditions

/-- A changed report's one offer at the end of the frame: it waits in the queue or is dropped. -/
theorem State.report_offers (hq : s.Quiet) (ht : s.slotsTaken) (hr : s.noRetests) {st : CallState} (hst : (s.line l).callState ≠ st)
    (he : ((s.applyReport l st).setReceiver .down .hunting).finish = t) :
    (s.offerOwed l st → s.refusal (s.hitsRequest l) = none →
        (t.line l).access = .queued ∧ t.ac = (s.enterQueue (s.hitsRequest l)).walked.ac)
      ∧ (¬(s.offerOwed l st ∧ s.refusal (s.hitsRequest l) = none) → t.ac = s.ac ∧ (t.line l).access = (s.line l).access)
      ∧ t.core.tc = s.core.tc := by
  obtain ⟨v, hv, hacc, href⟩ := State.applyReport_offers (l := l) ht hq.settled hr hst
  have hcomm : v.walkOwed.setReceiver .down .hunting = (v.setReceiver .down .hunting).walkOwed := rfl
  rw [hv, hcomm] at he
  rcases Classical.em (s.offerOwed l st ∧ s.refusal (s.hitsRequest l) = none) with ho | ho
  · obtain ⟨⟨x, hx⟩, access⟩ := hacc ho.1 ho.2
    have hvq : (v.setReceiver .down .hunting).Quiet := by
      rw [hx]
      exact hq.of_same rfl ⟨rfl, hq.settled.2⟩ rfl rfl rfl rfl rfl rfl
    have hvt : (v.setReceiver .down .hunting).slotsTaken := by
      rw [hx]
      exact ht
    rw [State.finish_walkOwed hvq hvt] at he
    rw [← he]
    exact ⟨fun _ _ => ⟨access, by rw [hx]; rfl⟩, fun hnot => absurd ho hnot, by rw [hx]; rfl⟩
  · obtain ⟨⟨x, hx⟩, access, -⟩ := href ho
    have hvq : (v.setReceiver .down .hunting).Quiet := by
      rw [hx]
      exact hq.of_same rfl hq.settled rfl rfl rfl rfl rfl rfl
    have hvt : (v.setReceiver .down .hunting).slotsTaken := by
      rw [hx]
      exact ht
    rw [State.finish_walkOwed hvq hvt] at he
    rw [← he]
    exact ⟨fun howed hnone => absurd ⟨howed, hnone⟩ ho, fun _ => ⟨by rw [hx]; rfl, access⟩, by rw [hx]; rfl⟩

end Sys2Proof.Machine

open Sys2Proof Sys2Proof.Machine in
/-- Settles O15: the frame is forwarded and its report taken; what it writes in the line's record and what it offers are told apart. -/
theorem lineStateFrameIsTaken : Obligations.LineStateFrameIsTaken := by
  intro f l st s hq hrec hf hgood hother hkind htreat hrep
  have huq : (s.passUp f).Quiet := hq.of_same rfl hq.settled rfl rfl rfl rfl rfl rfl
  have hexec : exec (.frameEnd .down f none) s =
      .next (((s.passUp f).lineReport l st).setReceiver .down .hunting).finish := by
    rw [← State.frameEnd_lineState hrec hf hgood hother hkind htreat hrep]
    exact State.command_of_live hq.live _
  have hk : State.Kept (s.passUp f) ((s.passUp f).lineReport l st) := State.lineReport_kept (.refl _) l st
  have hready : (((s.passUp f).lineReport l st).setReceiver .down .hunting).core.oh.ready = true := hk.core.oh.ready.trans hq.ready
  have hlatch : (((s.passUp f).lineReport l st).setReceiver .down .hunting).htp.latch = none := hk.latch.trans hq.latch
  have hline : ((((s.passUp f).lineReport l st).setReceiver .down .hunting).finish.line l).sansAccess =
      (((s.passUp f).lineReport l st).line l).sansAccess := State.finish_line hready hlatch l
  refine ⟨_, hexec, ?_, fun ⟨b, ha, hb⟩ => ?_, fun h => ?_⟩
  · rw [State.finish_of_ready hready hlatch]
    have hfin := State.refreshConditions_kept (State.settle_kept
      (.refl (((s.passUp f).lineReport l st).setReceiver .down .hunting)))
    exact (congrArg OutPort.pass hfin.up).trans (congrArg OutPort.pass hk.up)
  · have hv := State.lineReport_live (s := s.passUp f) (st := st) ha hb
    rw [hv, State.line_updLine, if_pos rfl] at hline
    rw [hv]
    exact ⟨(congrArg LineRec.deferred hline :), (congrArg LineRec.callState hline :)⟩
  · have hv := State.lineReport_applied (s := s.passUp f) (st := st) h
    rw [hv] at hline ⊢
    rcases eq_or_ne st (s.line l).callState with hsame | hne
    · have hnone : ((s.passUp f).applyReport l st).setReceiver .down .hunting = (s.passUp f).setReceiver .down .hunting := by
        rw [State.applyReport_same (s := s.passUp f) hsame.symm]
      have hwq : ((s.passUp f).setReceiver .down .hunting).Quiet := hq.of_same rfl hq.settled rfl rfl rfl rfl rfl rfl
      rw [hnone, State.finish_of_quiet hwq]
      exact ⟨hsame.symm, fun _ => ⟨rfl, rfl, rfl⟩, fun hne => absurd hsame hne⟩
    · obtain ⟨hcall, htaken, hlock⟩ := State.applyReport_taken (s := s.passUp f) hne.symm hline
      refine ⟨hcall, fun he => absurd he hne, fun _ => ?_⟩
      intro params fresh counted
      have hcounted : counted (s.hitsAfter l) ((s.line l).hit s.now s.params.hitsWindow).hitsStart := by
        refine ⟨htaken.below, htaken.reached, fun hr ht => ?_⟩
        obtain ⟨hacc, href, htc⟩ := State.report_offers (s := s.passUp f) huq ht hr hne.symm rfl
        refine ⟨fun howed hnone => ?_, href, htc⟩
        obtain ⟨access, hac⟩ := hacc howed hnone
        refine ⟨access, ?_, s.entered (s.hitsRequest l), ?_, rfl, rfl, rfl, rfl, rfl⟩
        · rw [hac]
          exact s.enterQueue_length (s.hitsRequest l)
        · rw [hac]
          exact s.mem_enterQueue (s.hitsRequest l)
      refine ⟨fun hfresh => ?_, fun hstale => ?_, hlock⟩
      · have hhit : (s.line l).hit s.now s.params.hitsWindow = { s.line l with hits := 1, hitsStart := some s.now } := by
          refine LineRec.hit_restarts ?_
          rcases hs : (s.line l).hitsStart with _ | start
          · exact .inl rfl
          · exact .inr ⟨start, rfl, hfresh start hs⟩
        unfold State.hitsAfter at hcounted
        rw [hhit] at hcounted
        exact hcounted
      · have hhit : (s.line l).hit s.now s.params.hitsWindow = { s.line l with hits := (s.line l).hits + 1 } := by
          obtain ⟨start, hstart⟩ := Classical.not_forall.mp hstale
          obtain ⟨hs, hw⟩ := Classical.not_imp.mp hstart
          exact LineRec.hit_within hs (Nat.le_of_not_lt hw)
        unfold State.hitsAfter at hcounted
        rw [hhit] at hcounted
        exact hcounted
end

section
/-! SUPPORT. RESTART: the held orders, the lines whose access ends and the slots. -/

namespace Sys2Proof.Machine

/-! ### Lines whose access ends -/

/-- The lines of a list have no access any more. -/
def Core.freeLines (c : Core) (ls : List Nat) : Core := ls.foldl (fun c l => c.updLine l fun r => { r with access := .none }) c

theorem Core.freeLines_append (c : Core) (ls ks : List Nat) : c.freeLines (ls ++ ks) = (c.freeLines ls).freeLines ks :=
  List.foldl_append ..

/-- Such a line's access is NONE, and the rest of every record stands. -/
theorem Core.freeLines_line (c : Core) (ls : List Nat) (k : Nat) :
    (c.freeLines ls).line k = if k ∈ ls then { c.line k with access := .none } else c.line k := by
  induction ls generalizing c with
  | nil => rw [if_neg List.not_mem_nil]; rfl
  | cons l ls ih =>
    have hcons : c.freeLines (l :: ls) = (c.updLine l fun r => { r with access := .none }).freeLines ls := rfl
    rw [hcons, ih, Core.line_updLine]
    by_cases hl : k = l
    · subst hl
      rw [if_pos rfl, if_pos List.mem_cons_self]
      split <;> rfl
    · rw [if_neg hl]
      simp only [List.mem_cons, hl, false_or]

/-- Only the lines change. -/
theorem Core.freeLines_eq (c : Core) (ls : List Nat) : c.freeLines ls = { c with lines := (c.freeLines ls).lines } := by
  induction ls generalizing c with
  | nil => rfl
  | cons l ls ih =>
    have hcons : c.freeLines (l :: ls) = (c.updLine l fun r => { r with access := .none }).freeLines ls := rfl
    rw [hcons]
    exact ih _

/-! ### The held orders (R177) -/

/-- The held orders go into the DOWN pass buffer, and the rest of the part but its mark of a full buffer stands. -/
theorem State.restartGuard_eq (s : State) :
    ∃ strict, s.restartGuard =
      { s with
        htp := { s.htp with down := { s.htp.down with pass := s.htp.down.pass ++ s.cg.held.map (·.frame), strict := strict } }
        cg := { s.cg with held := [] } } := by
  have hpass : ∀ (l : List HeldOrder) (s : State), ∃ strict, l.foldl (fun s h => s.passDown h.frame) s =
      { s with htp := { s.htp with down := { s.htp.down with pass := s.htp.down.pass ++ l.map (·.frame), strict := strict } } } := by
    intro l
    induction l with
    | nil => exact fun s => ⟨s.htp.down.strict, by simp⟩
    | cons h l ih =>
      intro s
      obtain ⟨strict, hl⟩ := ih (s.passDown h.frame)
      refine ⟨strict, ?_⟩
      rw [List.foldl_cons, hl]
      simp [State.passDown, State.updHtp, OutPort.passAppend]
  obtain ⟨strict, h⟩ := hpass s.cg.held s
  refine ⟨strict, ?_⟩
  unfold State.restartGuard
  rw [h]
  rfl

/-! ### The slots (R49) -/

/-- A slot made FREE at RESTART. -/
def Slot.freed (r : Slot) : Slot := { r with state := .free, request := none, ended := false, holdDue := none, mark := none }

/-- A slot after RESTART: its order is forgotten, and a live one is FREE. -/
def Slot.restarted (r : Slot) : Slot := if r.state.live then { r.freed with order := .idle } else { r with order := .idle }

/-- The line of a live slot. -/
def State.liveLine (s : State) (b : Nat) : Option Nat := if (s.slot b).state.live then (s.slot b).line else none

/-- A change that leaves all but the lines, the shelves, the slots and the DOWN port's queue of insertions alone. -/
def State.AccessOnly (s t : State) : Prop :=
  ∃ lines shelves insertion sending slots, t =
    { s with
      core := { s.core with lines := lines, shelves := shelves }
      htp := { s.htp with down := { s.htp.down with insertion := insertion, sending := sending } }
      ac := { s.ac with slots := slots } }

theorem State.AccessOnly.refl (s : State) : State.AccessOnly s s := ⟨_, _, _, _, _, rfl⟩

theorem State.AccessOnly.trans {s t u : State} (h : State.AccessOnly s t) (k : State.AccessOnly t u) : State.AccessOnly s u := by
  obtain ⟨_, _, _, _, _, rfl⟩ := h
  obtain ⟨_, _, _, _, _, rfl⟩ := k
  exact ⟨_, _, _, _, _, rfl⟩

theorem State.setOrder_accessOnly (s : State) (o : AccessOwner) (t : Transaction) : State.AccessOnly s (s.setOrder o t) := by
  cases o <;> exact ⟨_, _, _, _, _, rfl⟩

theorem State.endOrder_accessOnly (s : State) (o : AccessOwner) : State.AccessOnly s (s.endOrder o) :=
  (s.setOrder_accessOnly o .idle).trans ⟨_, _, _, _, _, rfl⟩

theorem State.insertDown_accessOnly (s : State) (f : OwnFrame) : State.AccessOnly s (s.insertDown f) := ⟨_, _, _, _, _, rfl⟩

/-- The order of a slot forgotten. -/
theorem State.endOrder_slot (s : State) {b : Nat} (hb : b ∈ slotNumbers) (k : Nat) :
    (s.endOrder (slotOwner b)).slot k = if k = b then { s.slot b with order := .idle } else s.slot k := by
  rw [slotOwner_val hb]
  exact s.slot_updSlot b k fun r => { r with order := .idle }

/-- A frame for the RELEASE goes out unawaited where there is room. -/
def State.releaseUnawaited (s : State) (b : Nat) : State :=
  if s.downFree then s.insertDown { s.accessFrame (slotOwner b) .release with owner := none } else s

theorem State.releaseUnawaited_accessOnly (s : State) (b : Nat) : State.AccessOnly s (s.releaseUnawaited b) := by
  unfold State.releaseUnawaited
  split
  · exact s.insertDown_accessOnly _
  · exact .refl s

theorem State.releaseUnawaited_core (s : State) (b : Nat) : (s.releaseUnawaited b).core = s.core := by
  unfold State.releaseUnawaited
  split <;> rfl

theorem State.releaseUnawaited_slot (s : State) (b k : Nat) : (s.releaseUnawaited b).slot k = s.slot k := by
  unfold State.releaseUnawaited
  split <;> rfl

theorem State.restartSlot_live {s : State} {b : Nat} (h : (s.slot b).state.live = true) :
    s.restartSlot b =
      { ((s.endOrder (slotOwner b)).releaseUnawaited b).updSlot b Slot.freed with
        core := s.core.freeLines (s.liveLine b).toList } := by
  have hc : ((s.endOrder (slotOwner b)).releaseUnawaited b).core = s.core := State.releaseUnawaited_core _ b
  unfold State.restartSlot State.liveLine
  rw [if_pos h, if_pos h]
  cases hl : (s.slot b).line with
  | none => 
    show State.updSlot (State.releaseUnawaited _ b) b _ = _
    simp only [Option.toList, Core.freeLines, List.foldl_nil, ← hc]
    rfl
  | some l =>
    show State.updLine (State.updSlot (State.releaseUnawaited _ b) b _) l _ = _
    simp only [Option.toList, Core.freeLines, List.foldl_cons, List.foldl_nil, ← hc]
    rfl

theorem State.restartSlot_idle {s : State} {b : Nat} (h : (s.slot b).state.live = false) : s.restartSlot b = s.endOrder (slotOwner b) := by
  unfold State.restartSlot
  rw [if_neg (by simp [h])]

theorem State.restartSlot_accessOnly (s : State) (b : Nat) : State.AccessOnly s (s.restartSlot b) := by
  cases h : (s.slot b).state.live with
  | false => rw [State.restartSlot_idle h]; exact s.endOrder_accessOnly _
  | true =>
    rw [State.restartSlot_live h, Core.freeLines_eq]
    obtain ⟨_, _, _, _, _, he⟩ := (s.endOrder_accessOnly (slotOwner b)).trans (State.releaseUnawaited_accessOnly _ b)
    rw [he]
    exact ⟨_, _, _, _, _, rfl⟩

theorem State.restartSlot_core (s : State) {b : Nat} (hb : b ∈ slotNumbers) :
    (s.restartSlot b).core = s.core.freeLines (s.liveLine b).toList := by
  cases h : (s.slot b).state.live with
  | false =>
    rw [State.restartSlot_idle h, State.liveLine, if_neg (by simp [h]), slotOwner_val hb]
    rfl
  | true => rw [State.restartSlot_live h]

theorem State.restartSlot_slot (s : State) {b : Nat} (hb : b ∈ slotNumbers) (k : Nat) :
    (s.restartSlot b).slot k = if k = b then (s.slot b).restarted else s.slot k := by
  cases h : (s.slot b).state.live with
  | false =>
    have hr : (s.slot b).restarted = { s.slot b with order := .idle } := if_neg (by simp [h])
    rw [State.restartSlot_idle h, State.endOrder_slot s hb, hr]
  | true =>
    have hr : (s.slot b).restarted = { (s.slot b).freed with order := .idle } := if_pos h
    rw [State.restartSlot_live h, hr]
    refine (State.slot_updSlot ((s.endOrder (slotOwner b)).releaseUnawaited b) b k Slot.freed).trans ?_
    rw [State.releaseUnawaited_slot, State.releaseUnawaited_slot, State.endOrder_slot s hb, State.endOrder_slot s hb, if_pos rfl]
    split <;> rfl

/-- The slots of a list after RESTART, each once. -/
theorem State.restartSlots (l : List Nat) (hl : ∀ b ∈ l, b ∈ slotNumbers) (hn : l.Nodup) (s : State) :
    State.AccessOnly s (l.foldl State.restartSlot s)
      ∧ (l.foldl State.restartSlot s).core = s.core.freeLines (l.filterMap s.liveLine)
      ∧ ∀ k, (l.foldl State.restartSlot s).slot k = if k ∈ l then (s.slot k).restarted else s.slot k := by
  induction l generalizing s with
  | nil => exact ⟨.refl s, rfl, fun k => (if_neg List.not_mem_nil).symm⟩
  | cons b l ih =>
    obtain ⟨hbl, hn⟩ := List.nodup_cons.mp hn
    have hb := hl b List.mem_cons_self
    obtain ⟨only, core, slot⟩ := ih (fun k hk => hl k (List.mem_cons_of_mem b hk)) hn (s.restartSlot b)
    have hsame : ∀ k ∈ l, (s.restartSlot b).liveLine k = s.liveLine k := fun k hk => by
      unfold State.liveLine
      rw [State.restartSlot_slot s hb, if_neg fun e : k = b => hbl (e ▸ hk)]
    refine ⟨(s.restartSlot_accessOnly b).trans only, ?_, fun k => ?_⟩
    · rw [List.foldl_cons, core, State.restartSlot_core s hb, List.filterMap_congr hsame, ← Core.freeLines_append]
      cases hline : s.liveLine b with
      | none => rw [List.filterMap_cons_none hline]; rfl
      | some m => rw [List.filterMap_cons_some hline]; rfl
    · rw [List.foldl_cons, slot, State.restartSlot_slot s hb]
      by_cases hk : k = b
      · subst hk
        rw [if_neg hbl, if_pos rfl, if_pos List.mem_cons_self]
      · rw [if_neg hk]
        simp only [List.mem_cons, hk, false_or]

end Sys2Proof.Machine
end

section
/-! SUPPORT. RESTART: the RESULTs and the working state of the AC and the MS. -/

namespace Sys2Proof.Machine

variable {s t u : State}

/-! ### The RESULTs (R89) -/

/-- RESULTs join the list as long as there is room. -/
theorem State.foldl_resultOf (l : List (Request × Option Nat)) (o : RunOutcome) (s : State) :
    l.foldl (fun s e => s.resultOf e.1 e.2 o) s =
      s.updMs fun m => { m with results := m.results ++ (l.map fun e => e.1.result e.2 o).take (64 - m.results.length) } := by
  induction l generalizing s with
  | nil => simp [State.updMs]
  | cons e l ih =>
    have hone : s.resultOf e.1 e.2 o =
        s.updMs fun m => if m.results.length < 64 then { m with results := m.results ++ [e.1.result e.2 o] } else m := rfl
    rw [List.foldl_cons, ih, hone]
    by_cases h : s.ms.results.length < 64
    · have htake : 64 - s.ms.results.length = (64 - (s.ms.results.length + 1)) + 1 := by omega
      simp only [State.updMs, if_pos h, List.length_append, List.length_singleton, List.map_cons, htake, List.take_succ_cons,
        List.append_assoc, List.singleton_append]
    · have htake : 64 - s.ms.results.length = 0 := by omega
      simp only [State.updMs, if_neg h, htake, List.take_zero]

theorem SlotState.live_iff (st : SlotState) : st.live = true ↔ st = .seizing ∨ st = .held ∨ st = .releasing := by
  cases st <;> simp [SlotState.live]

/-- The DESK request of a slot that RESTART ends. -/
def State.slotEnding (s : State) (b : Nat) : Option Request :=
  (s.slot b).request.filter fun r =>
    decide ((s.slot b).state = .seizing ∨ (s.slot b).state = .held ∨ (s.slot b).state = .releasing)
      && !(s.slot b).ended && decide (r.cls = .desk)

/-- The RESULTs of RESTART, by slot and then by queue (log 17). -/
theorem State.restartEndings_results (s : State) (o : RunOutcome) :
    (s.restartEndings.map fun e => e.1.result e.2 o) =
      (slotNumbers.flatMap fun b => (s.slotEnding b).toList.map fun r => r.result (some b) o)
        ++ (s.ac.queue.filter fun r => decide (r.cls = .desk)).map fun r => r.result none o := by
  have hslot : ∀ b, (if (s.slot b).state.live && !(s.slot b).ended then
      ((s.slot b).request.filter fun r => decide (r.cls = .desk)).map fun r => (r, some b) else none) =
        (s.slotEnding b).map fun r => (r, some b) := by
    intro b
    have hlive : (s.slot b).state.live =
        decide ((s.slot b).state = .seizing ∨ (s.slot b).state = .held ∨ (s.slot b).state = .releasing) := by
      rw [Bool.eq_iff_iff, SlotState.live_iff, decide_eq_true_iff]
    unfold State.slotEnding
    rw [← hlive]
    cases (s.slot b).state.live && !(s.slot b).ended with
    | false => cases (s.slot b).request <;> rfl
    | true => simp
  unfold State.restartEndings
  simp only [hslot, List.map_append, List.map_map]
  congr 1
  rw [List.filterMap_eq_flatMap_toList, List.map_flatMap]
  congr 1
  funext b
  cases s.slotEnding b <;> rfl

/-! ### The AC's working state (R49) -/

/-- The AC and the MS at RESTART, before the shelves are probed. -/
def State.restartCleared (s : State) : State :=
  let endings := s.restartEndings
  let s := slotNumbers.foldl State.restartSlot s
  let s := s.updMs fun m => { m with runs := [], pendingRuns := [] }
  let s := endings.foldl (fun s e => s.resultOf e.1 e.2 .cancelled) s
  let s := s.ac.queue.foldl (fun s r => s.updLine r.line fun x => { x with access := .none }) s
  s.updAc fun a => { a with queue := [], quotaInForce := s.params.routineQuota, departed := a.departed || !a.queue.isEmpty }

theorem State.restartAccess_eq (s : State) :
    s.restartAccess = ((s.restartCleared.core.shelves.filter fun e => e.2.fitted).map (·.1)).foldl State.restartShelf s.restartCleared :=
  rfl

/-- The lines of queued requests become NONE. -/
theorem State.foldl_freeLines (l : List Request) (s : State) :
    l.foldl (fun s r => s.updLine r.line fun x => { x with access := .none }) s = s.updCore fun c => c.freeLines (l.map (·.line)) := by
  have hmap : ∀ c : Core, c.freeLines (l.map (·.line)) = l.foldl (fun c r => c.updLine r.line fun x => { x with access := .none }) c :=
    fun c => List.foldl_map
  simp only [hmap]
  exact State.foldl_updCore (fun c (r : Request) => c.updLine r.line fun x => { x with access := .none }) l s

/-- What RESTART makes of the AC's and the MS's working state. -/
theorem State.restartCleared_eq (s : State) :
    ∃ insertion sending slots, s.restartCleared =
      { s with
        core := s.core.freeLines s.restartLines
        htp := { s.htp with down := { s.htp.down with insertion := insertion, sending := sending } }
        ac :=
          { s.ac with
            queue := [], slots := slots, quotaInForce := s.params.routineQuota, departed := s.ac.departed || !s.ac.queue.isEmpty }
        ms :=
          { s.ms with
            runs := [], pendingRuns := []
            results := s.ms.results ++ (s.restartEndings.map fun e => e.1.result e.2 .cancelled).take (64 - s.ms.results.length) } }
      ∧ ∀ k, Table.get {} slots k = if k ∈ slotNumbers then (s.slot k).restarted else s.slot k := by
  obtain ⟨⟨_, _, i, x, sl, only⟩, core, slot⟩ := State.restartSlots slotNumbers (fun _ => id) (by decide) s
  have hslots : slotNumbers.foldl State.restartSlot s =
      { s with
        core := s.core.freeLines (slotNumbers.filterMap s.liveLine)
        htp := { s.htp with down := { s.htp.down with insertion := i, sending := x } }
        ac := { s.ac with slots := sl } } := by
    rw [only] at core ⊢
    rw [← core]
  have hlines : s.core.freeLines s.restartLines =
      (s.core.freeLines (slotNumbers.filterMap s.liveLine)).freeLines (s.ac.queue.map (·.line)) := Core.freeLines_append ..
  have hoh : ∀ ls, (s.core.freeLines ls).oh = s.core.oh := fun ls => by rw [Core.freeLines_eq]
  refine ⟨i, x, sl, ?_, fun k => ?_⟩
  · unfold State.restartCleared
    simp only [hslots, State.foldl_resultOf, State.foldl_freeLines, hlines]
    simp only [State.updAc, State.updCore, State.updMs, State.params, ← Core.freeLines_append, hoh]
  · rw [hslots] at slot
    exact slot k

end Sys2Proof.Machine
end

section
/-! SUPPORT. RESTART: the shelves, the test sets and the tickets. -/

namespace Sys2Proof.Machine

variable {s t u : State}

/-! ### The shelves at RESTART (R49) -/

/-- A change of shelf records and of the DOWN port's queue of insertions alone. -/
def State.ShelfOnly (s t : State) : Prop :=
  ∃ shelves insertion sending, t =
    { s with
      core := { s.core with shelves := shelves }
      htp := { s.htp with down := { s.htp.down with insertion := insertion, sending := sending } } }

theorem State.ShelfOnly.refl (s : State) : State.ShelfOnly s s := ⟨_, _, _, rfl⟩

theorem State.ShelfOnly.trans (h : State.ShelfOnly s t) (k : State.ShelfOnly t u) : State.ShelfOnly s u := by
  obtain ⟨_, _, _, rfl⟩ := h
  obtain ⟨_, _, _, rfl⟩ := k
  exact ⟨_, _, _, rfl⟩

theorem State.ShelfOnly.slot (h : State.ShelfOnly s t) (k : Nat) : t.slot k = s.slot k := by
  obtain ⟨_, _, _, rfl⟩ := h
  rfl

/-- The order of a shelf forgotten. -/
theorem State.endOrder_shelf (s : State) (n k : Nat) :
    State.ShelfOnly s (s.endOrder (shelfOwner n))
      ∧ (s.endOrder (shelfOwner n)).shelf k = if k = n % 64 then { s.shelf (n % 64) with order := .idle } else s.shelf k :=
  ⟨⟨_, _, _, rfl⟩, s.shelf_updShelf (n % 64) k fun r => { r with order := .idle }⟩

/-- The order stands made ready: placed, or waiting for a place. -/
def Transaction.isReady (t : Transaction) (op : AccessOp) : Prop := t = .placed op none ∨ t = .waiting op

/-- An order of a shelf made ready. -/
theorem State.makeReady_shelf (s : State) (n : Nat) (op : AccessOp) :
    State.ShelfOnly s (s.makeReady (shelfOwner n) op)
      ∧ ∃ order : Transaction, order.isReady op
        ∧ ∀ k, (s.makeReady (shelfOwner n) op).shelf k = if k = n % 64 then { s.shelf (n % 64) with order := order } else s.shelf k := by
  unfold State.makeReady
  split
  · exact ⟨⟨_, _, _, rfl⟩, .placed op none, .inl rfl, fun k => s.shelf_updShelf (n % 64) k fun r => { r with order := .placed op none }⟩
  · exact ⟨⟨_, _, _, rfl⟩, .waiting op, .inr rfl, fun k => s.shelf_updShelf (n % 64) k fun r => { r with order := .waiting op }⟩

/-- A shelf PROBING with its RELEASE_ALL made ready, no failure counted and so many pairs free. -/
structure ShelfRec.Reprobed (pairs : Nat) (h : ShelfRec) : Prop where
  state : h.state = .probing
  failures : h.failures = 0
  freePairs : h.freePairs = pairs
  order : h.order.isReady .releaseAll

/-- How many slots stand FAULTED on a shelf. -/
def State.faultedOn (s : State) (n : Nat) : Nat := (s.slotsOn n (decide <| · = .faulted)).length

theorem State.ShelfOnly.faultedOn (h : State.ShelfOnly s t) (n : Nat) : t.faultedOn n = s.faultedOn n := by
  unfold State.faultedOn State.slotsOn
  simp only [h.slot]

/-- One shelf at RESTART: the record of its own number, of the number that its order has, and of the others. -/
theorem State.restartShelf_shelf (s : State) (n : Nat) :
    State.ShelfOnly s (s.restartShelf n)
      ∧ ∃ order : Transaction, order.isReady .releaseAll ∧ ∀ k, (s.restartShelf n).shelf k =
          { s.shelf k with
            state := if k = n then .probing else (s.shelf k).state
            failures := if k = n then 0 else (s.shelf k).failures
            probeDue := if k = n then none else (s.shelf k).probeDue
            freePairs := if k = n then 2 - s.faultedOn n else (s.shelf k).freePairs
            order := if k = n % 64 then order else (s.shelf k).order } := by
  obtain ⟨only, order, hready, hshelf⟩ := State.makeReady_shelf
    ((s.endOrder (shelfOwner n)).updShelf n fun h => { h with state := .probing, failures := 0, probeDue := none }) n .releaseAll
  refine ⟨((s.endOrder_shelf n 0).1.trans ⟨_, _, _, rfl⟩).trans (only.trans ⟨_, _, _, rfl⟩), order, hready, fun k => ?_⟩
  have hr : (s.restartShelf n).shelf k = if k = n then { (s.probeShelf n).shelf n with freePairs := 2 - s.faultedOn n }
      else (s.probeShelf n).shelf k := State.shelf_updShelf ..
  have hp : ∀ k, (s.probeShelf n).shelf k = _ := hshelf
  rw [hr, hp, hp]
  simp only [State.shelf_updShelf, (s.endOrder_shelf n _).2]
  by_cases hk : k = n
  · subst hk
    by_cases hm : k = k % 64
    · simp [← hm]
    · simp [hm]
  · by_cases hm : k = n % 64
    · subst hm
      simp [hk]
    · simp [hk, hm]

theorem State.restartShelves (l : List Nat) (s : State) :
    State.ShelfOnly s (l.foldl State.restartShelf s)
      ∧ (∀ k, ((l.foldl State.restartShelf s).shelf k).fitted = (s.shelf k).fitted)
      ∧ ∀ k, k ≤ 63 → (k ∈ l ∨ (s.shelf k).Reprobed (2 - s.faultedOn k)) →
          ((l.foldl State.restartShelf s).shelf k).Reprobed (2 - s.faultedOn k) := by
  induction l generalizing s with
  | nil => exact ⟨.refl s, fun _ => rfl, fun k _ h => h.resolve_left List.not_mem_nil⟩
  | cons n l ih =>
    obtain ⟨only, order, hready, hshelf⟩ := s.restartShelf_shelf n
    obtain ⟨only', fitted, reprobed⟩ := ih (s.restartShelf n)
    refine ⟨only.trans only', fun k => (fitted k).trans (by rw [hshelf]), fun k hk hor => ?_⟩
    rw [← only.faultedOn k]
    refine reprobed k hk ?_
    rcases Classical.em (k ∈ l) with hin | hout
    · exact .inl hin
    · refine .inr ?_
      rw [only.faultedOn k, hshelf]
      by_cases hkn : k = n
      · subst hkn
        have hm : k = k % 64 := (Nat.mod_eq_of_lt (by omega)).symm
        exact ⟨if_pos rfl, if_pos rfl, if_pos rfl, by simpa only [if_pos hm] using hready⟩
      · have hold : (s.shelf k).Reprobed (2 - s.faultedOn k) :=
          hor.resolve_left fun hmem => (List.mem_cons.mp hmem).elim hkn hout
        refine ⟨(if_neg hkn).trans hold.state, (if_neg hkn).trans hold.failures, (if_neg hkn).trans hold.freePairs, ?_⟩
        show Transaction.isReady (if _ then _ else _) _
        split
        · exact hready
        · exact hold.order

/-! ### The test sets (R51) -/

/-- A change of test set records alone. -/
def State.SetOnly (s t : State) : Prop := ∃ sets, t = { s with core := { s.core with sets := sets } }

theorem State.SetOnly.refl (s : State) : State.SetOnly s s := ⟨_, rfl⟩

theorem State.SetOnly.trans (h : State.SetOnly s t) (k : State.SetOnly t u) : State.SetOnly s u := by
  obtain ⟨_, rfl⟩ := h
  obtain ⟨_, rfl⟩ := k
  exact ⟨_, rfl⟩

theorem State.SetOnly.updTestSet (h : State.SetOnly s t) (n : Nat) (f : TestSet → TestSet) : State.SetOnly s (t.updTestSet n f) :=
  h.trans ⟨_, rfl⟩

/-- A test set with its step timers stopped. -/
def TestSet.stopped (t : TestSet) : TestSet :=
  { t with firstTagDue := none, sampleDue := none, sending := t.sending.map (·.untime false) }

/-- A test set that has been sent SOURCE OFF and STREAM off. -/
def TestSet.turnedOff (t : TestSet) : TestSet :=
  { t with
    tag := nextTag t.tag, range := .low, stream := false
    sending := t.sending ++ [{ msg := .source (nextTag t.tag) .tg .off 0 0 .low .dc, timed := false }]
      ++ [{ msg := .stream false, timed := false }] }

/-- A test set after RESTART. -/
def TestSet.restarted (t : TestSet) : TestSet := if t.state = .ready then t.stopped.turnedOff else t.stopped

theorem State.stopStepTimers_testSet (s : State) (n k : Nat) :
    (s.stopStepTimers n).testSet k = if k = n then (s.testSet n).stopped else s.testSet k := State.testSet_updTestSet ..

theorem State.turnOff_testSet (s : State) (n k : Nat) :
    ((s.sourceOff n).sendStream n false).testSet k = if k = n then (s.testSet n).turnedOff else s.testSet k := by
  unfold State.sendStream State.sourceOff State.sendSource State.sendLink
  simp only [State.testSet_updTestSet]
  by_cases hk : k = n
  · simp [hk, TestSet.turnedOff]
  · simp [hk]

theorem State.restartLink_eq (s : State) (n : Nat) :
    State.SetOnly s (s.restartLink n)
      ∧ ∀ k, (s.restartLink n).testSet k = if k = n then (s.testSet n).restarted else s.testSet k := by
  have hstate : ((s.stopStepTimers n).testSet n).state = (s.testSet n).state := by
    rw [State.stopStepTimers_testSet, if_pos rfl]
    rfl
  unfold State.restartLink TestSet.restarted
  simp only [hstate]
  split
  · refine ⟨((((State.SetOnly.refl s).updTestSet _ _).updTestSet _ _).updTestSet _ _ |>.updTestSet _ _).updTestSet _ _, fun k => ?_⟩
    rw [State.turnOff_testSet, State.stopStepTimers_testSet, State.stopStepTimers_testSet, if_pos rfl]
    split <;> rfl
  · exact ⟨(State.SetOnly.refl s).updTestSet _ _, s.stopStepTimers_testSet n⟩

theorem State.restartLinks (l : List Nat) (hn : l.Nodup) (s : State) :
    State.SetOnly s (l.foldl State.restartLink s)
      ∧ ∀ k, (l.foldl State.restartLink s).testSet k = if k ∈ l then (s.testSet k).restarted else s.testSet k := by
  induction l generalizing s with
  | nil => exact ⟨.refl s, fun k => (if_neg List.not_mem_nil).symm⟩
  | cons n l ih =>
    obtain ⟨hnl, hn⟩ := List.nodup_cons.mp hn
    obtain ⟨only, hset⟩ := s.restartLink_eq n
    obtain ⟨only', hsets⟩ := ih hn (s.restartLink n)
    refine ⟨only.trans only', fun k => ?_⟩
    rw [List.foldl_cons, hsets, hset]
    by_cases hk : k = n
    · subst hk
      rw [if_neg hnl, if_pos rfl, if_pos List.mem_cons_self]
    · rw [if_neg hk]
      simp only [List.mem_cons, hk, false_or]

/-! ### The tickets (R132) -/

/-- Tickets of these numbers leave the table, one after another. -/
theorem Core.dropTickets (ns : List Nat) (c : Core) :
    Core.TicketWork c (ns.foldl (fun c n => c.dropTicket n) c)
      ∧ (ns.foldl (fun c n => c.dropTicket n) c).tc.tickets = c.tc.tickets.filter fun u => decide (u.number ∉ ns) := by
  refine ⟨Core.foldl_work (fun c n => Core.dropTicket_work (.refl c) n) ns c, ?_⟩
  induction ns generalizing c with
  | nil => simp
  | cons n ns ih =>
    have hone : (c.dropTicket n).tc.tickets = c.tc.tickets.filter fun u => decide (u.number ≠ n) := by
      rcases ht : c.ticket n with _ | t
      · have hnone : ∀ u ∈ c.tc.tickets, u.number ≠ n := fun u hu he => by
          have := List.find?_eq_none.mp (show c.tc.tickets.find? (fun u => decide (u.number = n)) = none from ht) u hu
          simp [he] at this
        rw [List.filter_eq_self.mpr fun u hu => decide_eq_true (hnone u hu)]
        simp only [Core.dropTicket, ht]
      · exact Core.dropTicket_tickets ht
    rw [List.foldl_cons, ih, hone, List.filter_filter]
    congr 1
    funext u
    simp [Bool.and_comm]

/-- A ticket that stands at RESTART: its attempts become 0, and an outstanding retest of a LINE ticket becomes due (R132). -/
def Ticket.restarted (now : Nat) (t : Ticket) : Ticket :=
  match t.retest with
  | none => t
  | some w =>
    if t.kind = .line ∧ w.due = .outstanding then
      { t with retest := some { w with attempts := 0, due := .dueAt now, fellDue := none } }
    else { t with retest := some { w with attempts := 0 } }

theorem Ticket.restarted_state (now : Nat) (t : Ticket) : (t.restarted now).state = t.state := by
  unfold Ticket.restarted
  repeat' split
  all_goals rfl

theorem Ticket.restarted_of_none {t : Ticket} (h : t.retest = none) (now : Nat) : t.restarted now = t := by
  unfold Ticket.restarted
  simp only [h]

/-- PROVISIONAL tickets leave the table at RESTART; the others keep their state, and those that want no retest are as they were. -/
theorem Core.restartTickets_tickets {c : Core} (h : c.Sound) :
    Core.TicketWork c c.restartTickets ∧ c.restartTickets.noProvisional
      ∧ ((∀ k ∈ c.tc.tickets, k.retest = none) →
          c.restartTickets.tc.tickets = c.tc.tickets.filter fun k => decide (k.state ≠ .provisional)) := by
  obtain ⟨hwork, hdrop⟩ := Core.dropTickets ((c.tc.tickets.filter fun t : Ticket => decide (t.state = .provisional)).map (·.number)) c
  have hstanding : c.tc.tickets.filter (fun u =>
      decide (u.number ∉ (c.tc.tickets.filter fun t => decide (t.state = .provisional)).map (·.number))) =
        c.tc.tickets.filter fun k => decide (k.state ≠ .provisional) := by
    refine List.filter_congr fun u hu => ?_
    rw [decide_eq_decide, not_iff_not, List.mem_map]
    constructor
    · rintro ⟨v, hv, he⟩
      obtain ⟨hv, hp⟩ := List.mem_filter.mp hv
      rw [← List.inj_on_of_nodup_map h.tc.numbers hv hu he]
      exact of_decide_eq_true hp
    · exact fun hp => ⟨u, List.mem_filter.mpr ⟨hu, decide_eq_true hp⟩, rfl⟩
  rw [hstanding] at hdrop
  obtain ⟨now, hmap⟩ : ∃ now, c.restartTickets.tc.tickets =
      (c.tc.tickets.filter fun k => decide (k.state ≠ .provisional)).map (Ticket.restarted now) := by
    rw [← hdrop]
    exact ⟨_, rfl⟩
  have hno : c.restartTickets.noProvisional := by
    intro u hu
    rw [hmap] at hu
    obtain ⟨v, hv, rfl⟩ := List.mem_map.mp hu
    rw [Ticket.restarted_state]
    exact of_decide_eq_true (List.mem_filter.mp hv).2
  refine ⟨⟨hwork.line, hwork.shelf, hwork.testSet, fun _ => hno⟩, hno, fun hnone => ?_⟩
  rw [hmap]
  refine (List.map_congr_left fun k hk => ?_).trans (List.map_id _)
  exact Ticket.restarted_of_none (hnone k (List.mem_filter.mp hk).1) now

end Sys2Proof.Machine
end

section
/-! SUPPORT. RESTART: the conditions shown, and the end of a command while no retest is wanted. -/

namespace Sys2Proof.Machine

variable {s t u : State}

/-! ### Conditions shown (R180) -/

theorem Flags.has_put (fl : Flags) (on : Bool) (f g : Flag) : (fl.put on f).has g = if g = f then on else fl.has g := by
  cases f <;> cases g <;> rfl

theorem Oh.latchFlag_current (o : Oh) (f : Flag) : (o.latchFlag f).current = o.current := by
  unfold Oh.latchFlag
  repeat' split
  all_goals rfl

theorem Oh.setCondition_current (o : Oh) (f : Flag) (on : Bool) (g : Flag) :
    (o.setCondition f on).current.has g = if g = f then on else o.current.has g := by
  unfold Oh.setCondition
  split
  · next h => split <;> simp_all
  · split
    · next hon => rw [Oh.latchFlag_current, Flags.has_put, hon]
    · next hoff => rw [Flags.has_put, Bool.eq_false_iff.mpr hoff]

/-- Refreshed conditions show the part as it is. -/
theorem State.refreshConditions_shown (s : State) : s.refreshConditions.ConditionsShown := by
  have hcur : ∀ f, s.refreshConditions.core.oh.current.has f =
      ((((s.core.oh.setCondition .shelfSilent s.core.anyShelfSilent).setCondition .testSetSilent s.core.anySetSilent).setCondition
        .busFaulted s.anyFaulted).setCondition .ticketsFull (decide (256 ≤ s.core.tc.tickets.length))).current.has f := fun _ => rfl
  simp only [Oh.setCondition_current] at hcur
  exact ⟨hcur .shelfSilent, hcur .testSetSilent, hcur .busFaulted, hcur .ticketsFull⟩

/-! ### The end of a command while no retest is wanted -/

/-- No request is noted as departed. -/
def State.departureTold (s : State) : State := s.updAc fun a => { a with departed := false }

theorem State.dueRetests_of_noRetests (h : s.noRetests) : s.dueRetests = [] := by
  have hdue : s.core.tc.tickets.filter s.retestDue = [] := by
    refine List.filter_eq_nil_iff.mpr fun k hk => ?_
    unfold State.retestDue
    rw [h k hk]
    cases k.kind <;> simp
  unfold State.dueRetests
  rw [hdue]
  rfl

theorem State.settle_of_noRetests (h : s.noRetests) (hw : s.ac.walkDue = false) : s.settle = s.departureTold := by
  have htold : s.departureTold.offerRetests s.departureTold.dueRetests = s.departureTold := by
    rw [State.dueRetests_of_noRetests (s := s.departureTold) h]
    rfl
  unfold State.settle State.settleRounds
  dsimp only
  split
  · rw [← State.departureTold, htold]
    exact if_neg (by simp [State.departureTold, hw])
  · next hd =>
    have hsame : s.departureTold = s := by
      obtain ⟨_, _, _, _, _, _, ⟨_, _, _, _, d⟩, _, _, _⟩ := s
      obtain rfl : d = false := Bool.eq_false_iff.mpr hd
      rfl
    rw [hsame]
    exact if_neg (by simp [hw])

theorem State.examineIdleRetests_of_noRetests (h : s.noRetests) (ls : List Nat) : ls.foldl State.examineIdleRetest s = s := by
  induction ls with
  | nil => rfl
  | cons l ls ih => rw [List.foldl_cons, State.examineIdleRetest_of_noRetests h, ih]

/-! ### What the blocks do at RESTART (R194) -/

/-- How many slots stand FAULTED with a line of the shelf. -/
def State.faultedLines (s : State) (n : Nat) : Nat :=
  (slotNumbers.filter fun b => decide ((s.slot b).state = .faulted) && decide ((s.slot b).line.map shelfOf = some n)).length

/-- What RESTART leaves once the blocks have acted. -/
structure State.Restarted (s t : State) : Prop where
  downPass : t.htp.down.pass = s.htp.down.pass ++ s.cg.held.map (·.frame)
  cg : t.cg = { s.cg with held := [] }
  runs : t.ms.runs = [] ∧ t.ms.pendingRuns = []
  results : t.ms.results =
    s.ms.results ++ (s.restartEndings.map fun e => e.1.result e.2 .cancelled).take (64 - s.ms.results.length)
  rs : t.rs = { s.rs with running := false, accumulator := 0, eventDue := false }
  sweepRunning : t.core.oh.sweepRunning = false
  queue : t.ac.queue = []
  walkDue : t.ac.walkDue = s.ac.walkDue
  quota : t.ac.quotaInForce = s.params.routineQuota
  slot : ∀ k, t.slot k = if k ∈ slotNumbers then (s.slot k).restarted else s.slot k
  line : ∀ l, (t.line l).sansTicket =
    (LineRec.unwatched (if l ∈ s.restartLines then { s.line l with access := .none } else s.line l)).sansTicket
  fitted : ∀ n, (t.shelf n).fitted = (s.shelf n).fitted
  shelf : ∀ n, n ≤ 63 → (s.shelf n).fitted = true → (t.shelf n).Reprobed (2 - s.faultedLines n)
  testSet : ∀ n ∈ slotNumbers, (t.testSet n).sansTicket = (s.testSet n).restarted.sansTicket
  firm : t.core.noProvisional
  tickets : s.noRetests → t.core.tc.tickets = s.core.tc.tickets.filter fun k => decide (k.state ≠ .provisional)

theorem Slot.restarted_of_faulted {r : Slot} (h : r.state = .faulted) : r.restarted = { r with order := .idle } := by
  unfold Slot.restarted
  rw [h, if_neg (by simp [SlotState.live])]

theorem Slot.restarted_faulted (r : Slot) : r.restarted.state = .faulted ↔ r.state = .faulted := by
  unfold Slot.restarted
  cases r.state <;> simp [SlotState.live, Slot.freed]

/-- A FAULTED slot carries its line through RESTART. -/
theorem State.faultedOn_restarted (hslot : ∀ k, t.slot k = if k ∈ slotNumbers then (s.slot k).restarted else s.slot k) (n : Nat) :
    t.faultedOn n = s.faultedLines n := by
  unfold State.faultedOn State.slotsOn State.faultedLines
  congr 1
  refine List.filter_congr fun b hb => ?_
  rw [hslot, if_pos hb, Bool.eq_iff_iff]
  simp only [Bool.and_eq_true, decide_eq_true_iff, Slot.restarted_faulted]
  refine and_congr_right fun hf => ?_
  rw [Slot.restarted_of_faulted hf]
  unfold Slot.onShelf Slot.line
  rw [hf]
  cases (s.slot b).request <;> simp

/-- An entry of a fitted shelf stands in the table. -/
theorem State.mem_fittedShelves {n : Nat} (h : (s.shelf n).fitted = true) :
    n ∈ (s.core.shelves.filter fun e => e.2.fitted).map (·.1) := by
  have hget : ∀ tb : Table ShelfRec, (Table.get {} tb n).fitted = true → n ∈ (tb.filter fun e => e.2.fitted).map (·.1) := by
    intro tb
    induction tb with
    | nil => exact fun h => absurd h Bool.false_ne_true
    | cons e tb ih =>
      obtain ⟨i, v⟩ := e
      intro h
      rw [List.filter_cons]
      by_cases hi : i = n
      · subst hi
        rw [Table.get, if_pos rfl] at h
        rw [if_pos h]
        exact List.mem_cons_self
      · rw [Table.get, if_neg hi] at h
        split
        · exact List.mem_cons_of_mem _ (ih h)
        · exact ih h
  exact hget _ h

end Sys2Proof.Machine
end

section
/-! SUPPORT. RESTART: what every block has done of it. -/

namespace Sys2Proof.Machine

variable {s t u : State}

theorem LineRec.unwatched_sansTicket {r u : LineRec} (h : r.sansTicket = u.sansTicket) :
    r.unwatched.sansTicket = u.unwatched.sansTicket := congrArg LineRec.unwatched h

theorem ShelfRec.Reprobed.of_sansTicket {pairs : Nat} {h k : ShelfRec} (hr : h.Reprobed pairs) (e : k.sansTicket = h.sansTicket) :
    k.Reprobed pairs :=
  ⟨(congrArg ShelfRec.state e :).trans hr.state, (congrArg ShelfRec.failures e :).trans hr.failures,
    (congrArg ShelfRec.freePairs e :).trans hr.freePairs, by
      rw [show k.order = h.order from (congrArg ShelfRec.order e :)]
      exact hr.order⟩

/-- The AC and the MS at RESTART, with the CG before them. -/
theorem State.restartAccess_eqs (s : State) :
    ∃ strict insertion sending slots shelves,
      s.restartGuard.restartAccess =
        { s with
          core := { s.core.freeLines s.restartLines with shelves := shelves }
          htp := { s.htp with down := { s.htp.down with
            pass := s.htp.down.pass ++ s.cg.held.map (·.frame), insertion := insertion, strict := strict, sending := sending } }
          cg := { s.cg with held := [] }
          ac :=
            { s.ac with
              queue := [], slots := slots, quotaInForce := s.params.routineQuota, departed := s.ac.departed || !s.ac.queue.isEmpty }
          ms :=
            { s.ms with
              runs := [], pendingRuns := []
              results := s.ms.results ++ (s.restartEndings.map fun e => e.1.result e.2 .cancelled).take (64 - s.ms.results.length) } }
        ∧ (∀ k, Table.get {} slots k = if k ∈ slotNumbers then (s.slot k).restarted else s.slot k)
        ∧ (∀ n, (Table.get {} shelves n).fitted = (s.shelf n).fitted)
        ∧ ∀ n, n ≤ 63 → (s.shelf n).fitted = true → (Table.get {} shelves n).Reprobed (2 - s.faultedLines n) := by
  obtain ⟨strict, hguard⟩ := s.restartGuard_eq
  obtain ⟨i, x, slots, hcleared, hslots⟩ := s.restartGuard.restartCleared_eq
  obtain ⟨⟨shelves, i', x', only⟩, fitted, reprobed⟩ := State.restartShelves
    ((s.restartGuard.restartCleared.core.shelves.filter fun e => e.2.fitted).map (·.1)) s.restartGuard.restartCleared
  have hslots' : ∀ k, Table.get {} slots k = if k ∈ slotNumbers then (s.slot k).restarted else s.slot k := by
    rw [hguard] at hslots
    exact hslots
  have hshelf : ∀ n, s.restartGuard.restartCleared.shelf n = s.shelf n := fun n => by
    rw [hcleared, hguard]
    show Table.get {} (Core.freeLines _ _).shelves n = _
    rw [Core.freeLines_eq]
    rfl
  have hfaulted : ∀ n, s.restartGuard.restartCleared.faultedOn n = s.faultedLines n := fun n => by
    refine State.faultedOn_restarted (fun k => ?_) n
    rw [hcleared]
    exact hslots' k
  rw [← State.restartAccess_eq] at only fitted reprobed
  have hget : ∀ n, s.restartGuard.restartAccess.shelf n = Table.get {} shelves n := fun n => by rw [only]; rfl
  refine ⟨strict, i', x', slots, shelves, ?_, hslots', fun n => ?_, fun n hn hf => ?_⟩
  · rw [only, hcleared, hguard]
    rfl
  · rw [← hget, fitted, hshelf]
  · rw [← hget, ← hfaulted]
    exact reprobed n hn (.inl (State.mem_fittedShelves (by rw [hshelf]; exact hf)))

theorem Core.restartWatch_line {c : Core} (h : c.Sound) (l : Nat) : (c.restartWatch.line l) = (c.line l).unwatched :=
  Table.get_mapAll ({} : LineRec) LineRec.unwatched rfl c.lines h.lines l

/-- What the TC, the GM, the LW and the RS do at RESTART, after the CG, the AC, the MS and the TLC. -/
def State.restartRecords (s : State) : State :=
  (s.updCore fun c => ((c.restartTickets).rebuildGroups).restartWatch).restartSweep

/-- They change the core and the sweep; of the subjects' records the watch fields and the tickets. -/
structure State.RecordsRestarted (s t : State) : Prop where
  htp : t.htp = s.htp
  cg : t.cg = s.cg
  ac : t.ac = s.ac
  ms : t.ms = s.ms
  rs : t.rs = { s.rs with running := false, accumulator := 0, eventDue := false }
  sweepRunning : t.core.oh.sweepRunning = false
  line : ∀ l, (t.line l).sansTicket = (s.line l).unwatched.sansTicket
  shelf : ∀ n, (t.shelf n).sansTicket = (s.shelf n).sansTicket
  testSet : ∀ n, (t.testSet n).sansTicket = (s.testSet n).sansTicket
  firm : t.core.noProvisional
  tickets : s.noRetests → t.core.tc.tickets = s.core.tc.tickets.filter fun k => decide (k.state ≠ .provisional)

theorem State.restartRecords_restarted (h : s.core.Sound) : State.RecordsRestarted s s.restartRecords := by
  obtain ⟨hwork, hfirm, htickets⟩ := Core.restartTickets_tickets h
  have hwatch : s.core.restartTickets.rebuildGroups.Sound :=
    (Core.rebuildGroups_kept (Core.restartTickets_kept (.refl _))).sound h
  exact
    { htp := rfl, cg := rfl, ac := rfl, ms := rfl, rs := rfl, sweepRunning := rfl
      line := fun l => (congrArg LineRec.sansTicket (Core.restartWatch_line hwatch l)).trans (LineRec.unwatched_sansTicket (hwork.line l))
      shelf := hwork.shelf
      testSet := hwork.testSet
      firm := hfirm
      tickets := htickets }

/-- The part once the CG, the AC, the MS and the TLC have acted at RESTART. -/
def State.restartWorked (s : State) : State := slotNumbers.foldl State.restartLink s.restartGuard.restartAccess

theorem State.restartBlocks_eq (s : State) : s.restartBlocks = s.restartWorked.restartRecords := rfl

theorem State.restartWorked_sound (h : s.Sound) : s.restartWorked.core.Sound :=
  (State.foldl_kept (fun u n => u.restartLink_kept n) slotNumbers
    (s.restartGuard_kept.trans (State.restartAccess_kept _))).core.sound h.core

theorem State.restartWorked_eqs (s : State) :
    ∃ strict insertion sending slots shelves sets,
      s.restartWorked =
        { s with
          core := { s.core with lines := (s.core.freeLines s.restartLines).lines, shelves := shelves, sets := sets }
          htp := { s.htp with down := { s.htp.down with
            pass := s.htp.down.pass ++ s.cg.held.map (·.frame), insertion := insertion, strict := strict, sending := sending } }
          cg := { s.cg with held := [] }
          ac :=
            { s.ac with
              queue := [], slots := slots, quotaInForce := s.params.routineQuota, departed := s.ac.departed || !s.ac.queue.isEmpty }
          ms :=
            { s.ms with
              runs := [], pendingRuns := []
              results := s.ms.results ++ (s.restartEndings.map fun e => e.1.result e.2 .cancelled).take (64 - s.ms.results.length) } }
        ∧ (∀ k, Table.get {} slots k = if k ∈ slotNumbers then (s.slot k).restarted else s.slot k)
        ∧ (∀ n, (Table.get {} shelves n).fitted = (s.shelf n).fitted)
        ∧ (∀ n, n ≤ 63 → (s.shelf n).fitted = true → (Table.get {} shelves n).Reprobed (2 - s.faultedLines n))
        ∧ ∀ n ∈ slotNumbers, Table.get {} sets n = (s.testSet n).restarted := by
  obtain ⟨strict, i, x, slots, shelves, haccess, hslots, hfitted, hreprobed⟩ := s.restartAccess_eqs
  obtain ⟨⟨sets, honly⟩, hsets⟩ := State.restartLinks slotNumbers (by decide) s.restartGuard.restartAccess
  rw [← State.restartWorked] at honly hsets
  rw [Core.freeLines_eq] at haccess
  refine ⟨strict, i, x, slots, shelves, sets, ?_, hslots, hfitted, hreprobed, fun n hn => ?_⟩
  · rw [honly, haccess]
  · have hget := hsets n
    rw [if_pos hn, honly, haccess] at hget
    exact hget

/-- Every block has done its part of RESTART. -/
theorem State.restartBlocks_restarted (h : s.Sound) : State.Restarted s s.restartBlocks := by
  have hrecords := State.restartRecords_restarted (s.restartWorked_sound h)
  rw [← State.restartBlocks_eq] at hrecords
  obtain ⟨strict, i, x, slots, shelves, sets, hworked, hslots, hfitted, hreprobed, hsets⟩ := s.restartWorked_eqs
  have hline : ∀ l, s.restartWorked.line l = if l ∈ s.restartLines then { s.line l with access := .none } else s.line l := fun l => by
    rw [hworked]
    exact Core.freeLines_line s.core s.restartLines l
  have hshelf : ∀ n, s.restartWorked.shelf n = Table.get {} shelves n := fun n => by rw [hworked]; rfl
  have hset : ∀ n, s.restartWorked.testSet n = Table.get {} sets n := fun n => by rw [hworked]; rfl
  have hmine : s.restartWorked.core.tc.tickets = s.core.tc.tickets := by rw [hworked]
  exact
    { downPass := by rw [hrecords.htp, hworked]
      cg := by rw [hrecords.cg, hworked]
      runs := by rw [hrecords.ms, hworked]; exact ⟨rfl, rfl⟩
      results := by rw [hrecords.ms, hworked]
      rs := by rw [hrecords.rs, hworked]
      sweepRunning := hrecords.sweepRunning
      queue := by rw [hrecords.ac, hworked]
      walkDue := by rw [hrecords.ac, hworked]
      quota := by rw [hrecords.ac, hworked]
      slot := fun k => by
        rw [← hslots k, State.slot, hrecords.ac, hworked]
      line := fun l => by rw [hrecords.line, hline]
      fitted := fun n => by
        rw [← hfitted, ← hshelf]
        exact (ShelfRec.state_of_sansTicket (hrecords.shelf n)).2
      shelf := fun n hn hf => by
        have hr := hreprobed n hn hf
        rw [← hshelf] at hr
        exact hr.of_sansTicket (hrecords.shelf n)
      testSet := fun n hn => by rw [hrecords.testSet, hset, hsets n hn]
      firm := hrecords.firm
      tickets := fun hnone => by
        rw [← hmine]
        refine hrecords.tickets fun k hk => hnone k ?_
        rw [← hmine]
        exact hk }

end Sys2Proof.Machine
end

section
/-! PROOF of O36: RESTART, from the work of the blocks to the end of the command. -/

namespace Sys2Proof.Machine

variable {s t u : State}

/-! ### The end of RESTART (R194) -/

/-- The part with the blocks' work done and the latch at the current conditions. -/
def State.relatched (s : State) : State := s.refreshConditions.updOh Oh.relatch

theorem State.restart_eq (s : State) : s.restart = s.restartLines.foldl State.examineIdleRetest s.restartBlocks.relatched := rfl

theorem State.relatched_kept (s : State) : State.Kept s s.relatched :=
  State.updCore_kept (f := fun c => c.updOh Oh.relatch) (State.refreshConditions_kept (.refl s))
    (Core.updOh_kept (.refl _) ⟨rfl, rfl, rfl, rfl, rfl, rfl⟩ ⟨rfl, rfl, rfl⟩)

theorem State.relatched_noRetests (h : s.noRetests) : s.relatched.noRetests := h

theorem State.relatched_walkDue (h : s.ac.walkDue = false) : s.relatched.ac.walkDue = false := h

theorem State.relatched_shown (s : State) : s.relatched.departureTold.ConditionsShown :=
  have h := s.refreshConditions_shown
  ⟨h.shelf, h.testSet, h.bus, h.table⟩

theorem State.relatched_offerWork (s : State) : State.OfferWork s s.relatched :=
  State.updOh_offerWork (State.updOh_offerWork (.refl s) _) _

/-- After the blocks the lines that have become NONE are examined, and the command ends: offers and grants, and what the OH shows. -/
theorem State.restart_end (s : State) (hr : s.restartBlocks.core.oh.ready = true) (hl : s.restartBlocks.htp.latch = none) :
    State.OfferWork s.restartBlocks s.restart.finish ∧ State.Kept s.restartBlocks s.restart.finish := by
  have hk : State.Kept s.restartBlocks s.restart :=
    State.foldl_kept (fun u l => State.examineIdleRetest_kept (.refl u) l) _ (State.relatched_kept _)
  have hw : State.OfferWork s.restartBlocks s.restart :=
    (State.relatched_offerWork _).trans (State.foldl_offerWork (fun u l => State.examineIdleRetest_offerWork (.refl u) l) _ _)
  rw [State.finish_of_ready (hk.core.oh.ready.trans hr) (hk.latch.trans hl)]
  exact ⟨State.updOh_offerWork (State.settle_offerWork hw) _, State.refreshConditions_kept (State.settle_kept hk)⟩

/-- With no retest wanted nothing is offered, and the part stands as the blocks left it, with the latch at the current conditions. -/
theorem State.restart_end_of_noRetests (s : State) (hr : s.restartBlocks.core.oh.ready = true) (hl : s.restartBlocks.htp.latch = none)
    (hw : s.restartBlocks.ac.walkDue = false) (hn : s.restartBlocks.noRetests) :
    s.restart.finish = s.restartBlocks.relatched.departureTold := by
  have hrelatch := State.relatched_noRetests hn
  have hwalk := State.relatched_walkDue hw
  have hk := s.restartBlocks.relatched_kept
  rw [State.restart_eq, State.examineIdleRetests_of_noRetests hrelatch, State.finish_of_ready (hk.core.oh.ready.trans hr)
    (hk.latch.trans hl), State.settle_of_noRetests hrelatch hwalk,
    State.refreshConditions_of_shown s.restartBlocks.relatched_shown]

/-- What RESTART's blocks and the sweep's halt leave of the highway, the store, the tables and the OH. -/
structure State.RestKept (s t : State) : Prop where
  up : t.htp.up = s.htp.up
  latch : t.htp.latch = s.htp.latch
  treatment : t.htp.treatment = s.htp.treatment
  stateMap : t.htp.stateMap = s.htp.stateMap
  csi : t.csi = s.csi
  programmes : t.ms.programmes = s.ms.programmes
  steps : t.ms.steps = s.ms.steps
  limits : t.ms.limits = s.ms.limits
  params : t.core.oh.params = s.core.oh.params
  ready : t.core.oh.ready = s.core.oh.ready
  passCount : t.core.oh.passCount = s.core.oh.passCount

theorem State.Kept.rest (h : State.Kept s t) : State.RestKept s t :=
  ⟨h.up, h.latch, h.treatment, h.stateMap, h.csi, h.programmes, h.steps, h.limits, h.core.oh.params, h.core.oh.ready, h.core.oh.passCount⟩

theorem State.RestKept.trans (h : State.RestKept s t) (k : State.RestKept t u) : State.RestKept s u :=
  ⟨k.up.trans h.up, k.latch.trans h.latch, k.treatment.trans h.treatment, k.stateMap.trans h.stateMap, k.csi.trans h.csi,
    k.programmes.trans h.programmes, k.steps.trans h.steps, k.limits.trans h.limits, k.params.trans h.params, k.ready.trans h.ready,
    k.passCount.trans h.passCount⟩

theorem State.restartSweep_rest (s : State) : State.RestKept s s.restartSweep := ⟨rfl, rfl, rfl, rfl, rfl, rfl, rfl, rfl, rfl, rfl, rfl⟩

theorem State.restartBlocks_rest (s : State) : State.RestKept s s.restartBlocks :=
  s.restartWork_kept.rest.trans (State.restartSweep_rest _)

/-- A test set's record at RESTART, frame by frame. -/
theorem TestSet.restarted_facts {r is : TestSet} (h : is.sansTicket = r.restarted.sansTicket) :
    is.state = r.state ∧ is.firstTagDue = none ∧ is.sampleDue = none
      ∧ (r.state = .ready → is.stream = false ∧ is.tag = (r.tag + 1) % 16
          ∧ is.sending.map (·.msg) = r.sending.map (·.msg) ++ [.source ((r.tag + 1) % 16) .tg .off 0 0 .low .dc, .stream false])
      ∧ (r.state ≠ .ready → is.stream = r.stream ∧ is.tag = r.tag ∧ is.sending.map (·.msg) = r.sending.map (·.msg)) := by
  have huntime : (r.sending.map (·.untime false)).map (·.msg) = r.sending.map (·.msg) := by
    rw [List.map_map]
    refine List.map_congr_left fun f _ => ?_
    simp only [Function.comp_apply, LinkFrame.untime]
    split <;> rfl
  have hstate : is.state = r.restarted.state := (congrArg TestSet.state h :)
  have hfirst : is.firstTagDue = r.restarted.firstTagDue := (congrArg TestSet.firstTagDue h :)
  have hsample : is.sampleDue = r.restarted.sampleDue := (congrArg TestSet.sampleDue h :)
  have hstream : is.stream = r.restarted.stream := (congrArg TestSet.stream h :)
  have htag : is.tag = r.restarted.tag := (congrArg TestSet.tag h :)
  have hsending : is.sending = r.restarted.sending := (congrArg TestSet.sending h :)
  rw [hstate, hfirst, hsample, hstream, htag, hsending]
  unfold TestSet.restarted
  split
  · next hready =>
    refine ⟨rfl, rfl, rfl, fun _ => ⟨rfl, rfl, ?_⟩, fun hne => absurd hready hne⟩
    simp only [TestSet.turnedOff, TestSet.stopped, List.map_append, huntime, List.append_assoc]
    rfl
  · next hne => exact ⟨rfl, rfl, rfl, fun hready => absurd hready hne, fun _ => ⟨rfl, rfl, huntime⟩⟩

/-- A live slot's line is among those whose access RESTART ends, as is a queued request's; no other is. -/
theorem State.mem_restartLines (s : State) (l : Nat) :
    l ∈ s.restartLines ↔
      (∃ b ∈ slotNumbers, (s.slot b).state.live = true ∧ (s.slot b).line = some l) ∨ ∃ r ∈ s.ac.queue, r.line = l := by
  unfold State.restartLines
  rw [List.mem_append, List.mem_filterMap, List.mem_map]
  refine or_congr (exists_congr fun b => and_congr_right fun _ => ?_) Iff.rfl
  split
  · next h => simp [h]
  · next h => simp [h]

/-- A line's record at the end of RESTART, but for its access state and ticket. -/
theorem State.Restarted.line_end (r : State.Restarted s t) (w : State.OfferWork t u) (l : Nat) :
    (u.line l).sansAccess = (s.line l).unwatched.sansAccess := by
  refine (w.line l).trans ((LineRec.sansAccess_of_sansTicket (r.line l)).trans ?_)
  split <;> rfl

/-- A FAULTED slot keeps its request and pair through RESTART and what follows it. -/
theorem State.Restarted.faulted_end (r : State.Restarted s t) (w : State.OfferWork t u) {b : Nat} (hb : b ∈ slotNumbers)
    (h : (s.slot b).state = .faulted) : u.slot b = { s.slot b with order := .idle } := by
  have hslot : t.slot b = { s.slot b with order := .idle } := by rw [r.slot, if_pos hb, Slot.restarted_of_faulted h]
  rw [w.slot b (by rw [hslot, h]; decide), hslot]

/-- A fitted shelf at the end of RESTART: it is PROBING, so that nothing is granted on it. -/
theorem State.Restarted.shelf_end (r : State.Restarted s t) (w : State.OfferWork t u) {n : Nat} (hn : n ≤ 63)
    (h : (s.shelf n).fitted = true) : (u.shelf n).Reprobed (2 - s.faultedLines n) := by
  have hr := r.shelf n hn h
  exact hr.of_sansTicket (w.shelf n (by rw [hr.state]; decide))

/-- What RESTART leaves with no retest wanted: no request, no live slot, and none of their lines in access. -/
theorem State.Restarted.quiet_end (r : State.Restarted s t) (hn : s.noRetests) :
    (∀ k ∈ t.core.tc.tickets, k.retest = none)
      ∧ (∀ b ∈ slotNumbers, (s.slot b).state.live = true →
          (t.slot b).state = .free ∧ (t.slot b).request = none ∧ (t.slot b).order = .idle)
      ∧ (∀ l, (t.line l).access = if l ∈ s.restartLines then .none else (s.line l).access) := by
  refine ⟨fun k hk => ?_, fun b hb hlive => ?_, fun l => ?_⟩
  · rw [r.tickets hn] at hk
    exact hn k (List.mem_filter.mp hk).1
  · have hslot : t.slot b = { (s.slot b).freed with order := .idle } := by rw [r.slot, if_pos hb, Slot.restarted, if_pos hlive]
    rw [hslot]
    exact ⟨rfl, rfl, rfl⟩
  · refine (congrArg LineRec.access (r.line l) :).trans ?_
    show LineRec.access (if _ then _ else _) = _
    split <;> rfl

end Sys2Proof.Machine

open Sys2Proof Sys2Proof.Machine in
/-- Settles O36: what the blocks leave (`State.Restarted`), and what the offers and grants of the end leave of that. -/
theorem restartClearsTheWork : Obligations.RestartClearsTheWork := by
  intro ref s ht hsound
  have hans : s.answer (.restart ref) .accepted = s.withUpFrame (s.answerFrame (.restart ref) .accepted []) :=
    State.answer_eq s rfl .accepted []
  have hexec : exec (.restart ref) s = .next (s.answer (.restart ref) .accepted).restart.finish := State.orderCommand_of_takes ht _ _
  have hroom : s.htp.up.insertion.length < 16 := by
    have := State.ohReady_room ht.ohReady
    omega
  have r := State.restartBlocks_restarted (hsound.answer (.restart ref) .accepted [] hroom)
  have rest := (s.answer (.restart ref) .accepted).restartBlocks_rest
  rw [hans] at hexec r rest
  have hready := rest.ready.trans ht.quiet.ready
  have hlatch := rest.latch.trans ht.quiet.latch
  obtain ⟨w, k⟩ := State.restart_end _ hready hlatch
  have hend := State.restart_end_of_noRetests _ hready hlatch (r.walkDue.trans ht.quiet.settled.1)
  have kept := rest.trans k.rest
  generalize (s.withUpFrame (s.answerFrame (.restart ref) .accepted [])).restart.finish = t at hexec w k hend kept
  generalize (s.withUpFrame (s.answerFrame (.restart ref) .accepted [])).restartBlocks = u at r w k hend
  have hresults := (congrArg Ms.results w.ms).trans r.results
  rw [State.restartEndings_results] at hresults
  refine ⟨t, hexec, (congrArg OutPort.insertion kept.up :), (congrArg OutPort.pass kept.up :), w.downPass.trans r.downPass, w.cg.trans r.cg,
    fun b => ?_, w.firm r.firm, w.rs.trans r.rs, k.core.oh.sweepRunning.trans r.sweepRunning, fun l => ?_,
    fun n => (w.fitted n).trans (r.fitted n), fun n hn hf => ?_, fun b hb hf => r.faulted_end w hb hf, w.quota.trans r.quota,
    fun n hn => TestSet.restarted_facts ((w.testSet n).trans (r.testSet n hn)), hresults, kept.params, kept.ready.trans ht.quiet.ready,
    kept.passCount, kept.programmes, kept.steps, kept.limits, kept.treatment, kept.stateMap, kept.latch.trans ht.quiet.latch, kept.csi,
    fun hn => ?_⟩
  · have hruns : t.ms.runs = [] ∧ t.ms.pendingRuns = [] := by rw [w.ms]; exact r.runs
    unfold State.run State.pendingRun
    rw [hruns.1, hruns.2]
    exact ⟨rfl, rfl⟩
  · have hl := r.line_end w l
    exact ⟨(congrArg LineRec.hits hl :), (congrArg LineRec.hitsStart hl :), (congrArg LineRec.lockoutStart hl :),
      (congrArg LineRec.deferred hl :), (congrArg LineRec.reOffer hl :), (congrArg LineRec.callState hl :), (congrArg LineRec.group hl :),
      (congrArg LineRec.routineEnabled hl :), (congrArg LineRec.programme hl :), (congrArg LineRec.channels hl :),
      (congrArg LineRec.trend hl :)⟩
  · obtain ⟨state, failures, freePairs, order⟩ := r.shelf_end w hn hf
    exact ⟨state, failures, freePairs, order⟩
  · obtain ⟨hnone, hslots, haccess⟩ := r.quiet_end hn
    have ht := hend hnone
    have hmem := State.mem_restartLines (s.withUpFrame (s.answerFrame (.restart ref) .accepted []))
    subst ht
    refine ⟨r.queue, rfl, r.tickets hn, fun b hb hlive => ?_, fun q hq => ?_, fun l hslot hqueue => ?_⟩
    · have hlive := (SlotState.live_iff _).mpr hlive
      obtain ⟨free, request, order⟩ := hslots b hb hlive
      exact ⟨free, request, order, fun l hl => (haccess l).trans (if_pos ((hmem l).mpr (.inl ⟨b, hb, hlive, hl⟩)))⟩
    · exact (haccess q.line).trans (if_pos ((hmem q.line).mpr (.inr ⟨q, hq, rfl⟩)))
    · refine (haccess l).trans (if_neg fun hin => ?_)
      rcases (hmem l).mp hin with ⟨b, hb, hlive, hl⟩ | ⟨q, hq, hl⟩
      · rcases hslot b hb hl with hf | hf
        · exact absurd (hf ▸ hlive) (by decide)
        · exact absurd (hf ▸ hlive) (by decide)
      · exact hqueue q hq hl
end

section
/-! PROOF of O5 and O3: nothing is owed between commands, and nothing after reset. -/

namespace Sys2Proof.Machine

/-- A command leaves nothing owing, nor does one that comes while the part is held in reset. -/
theorem State.command_settled {s t : State} (h : s.settled) {f : State → State} (e : s.command f = .next t) : t.settled := by
  obtain rfl := Host.Outcome.next.inj e
  unfold State.whenLive
  split
  · exact h
  · exact State.finish_settled _

/-- Every command ends settled: the two of the reset input touch no mark of the AC or clear both, every other one is a `State.command`. -/
theorem exec_settled {s t : State} (h : s.settled) (c : Instr) (e : exec c s = .next t) : t.settled := by
  cases c with
  | resetAssert => obtain rfl := Host.Outcome.next.inj e; exact h
  | powerOn straps => obtain rfl := Host.Outcome.next.inj e; exact ⟨rfl, rfl⟩
  | _ => exact State.command_settled h e

end Sys2Proof.Machine

/-- Settles O5: the command at the front is executed with the queue's rest, and every command ends settled. -/
theorem nothingIsOwedBetweenCommands : Obligations.NothingIsOwedBetweenCommands := by
  intro s t h e
  unfold Sys2Proof.Machine.step at e
  split at e
  · obtain rfl := Host.Outcome.next.inj e; exact h
  · next c rest _ => exact Sys2Proof.Machine.exec_settled (s := { s with pending := rest }) h c e

/-- Settles O3: the reset state is sound, and its AC marks are clear. -/
theorem resetStateIsSound : Obligations.ResetStateIsSound := ⟨Sys2Proof.Machine.State.reset_sound, rfl, rfl⟩
end

section
/-! SUPPORT. The end of a command that owes nothing, and ACCESS orders made ready and placed. -/

namespace Sys2Proof.Machine

variable {s t u : State}

/-! ### The end of a command that owes nothing -/

/-- A command that keeps a quiet moment's latch and readiness and owes nothing ends with the conditions shown. -/
theorem State.finish_of_kept (hq : s.Quiet) (hk : State.Kept s u) (hs : u.settled) : u.finish = u.refreshConditions :=
  State.finish_of_settled (hk.core.oh.ready.trans hq.ready) hs (hk.latch.trans hq.latch)

/-- Such a command's step. -/
theorem State.command_of_kept (hq : s.Quiet) {f : State → State} (hk : State.Kept s (f s)) (hs : (f s).settled) :
    s.command f = .next (f s).refreshConditions := by
  rw [State.command_of_live hq.live, State.finish_of_kept hq hk hs]

/-- A command that does nothing at a quiet moment. -/
theorem State.command_of_same (hq : s.Quiet) {f : State → State} (hf : f s = s) : s.command f = .next s := by
  rw [State.command_of_live hq.live, hf, State.finish_of_quiet hq]

/-- The step of an order that is answered and does no more. -/
theorem State.orderCommand_of_answer (ht : s.Takes) {i : Instr} {code ref : Byte} {args : Octets} (he : encodeOrder i = code :: ref :: args)
    {judge : State → State} {a : Answer} {d : Octets} (hj : judge s = s.answer i a d) :
    s.orderCommand i judge = .next (s.withUpFrame (s.answerFrame i a d)) := by
  rw [State.orderCommand_of_takes ht, hj, State.answer_eq s he, State.finish_of_quiet (ht.quiet.withUpFrame _)]

/-! ### Orders made ready -/

theorem State.downFree_iff (s : State) : s.downFree = true ↔ s.htp.down.insertion.length < 16 := decide_eq_true_iff

/-- An order of one owner is written, and every other owner's stands. -/
theorem State.order_setOrder (s : State) (o p : AccessOwner) (t : Transaction) :
    (s.setOrder o t).order p = if p = o then t else s.order p := by
  have hval {n : Nat} (a b : Fin n) : a = b ↔ a.val = b.val := Fin.ext_iff
  cases o with
  | slot b =>
    cases p with
    | slot k =>
      simp only [State.order, State.setOrder, State.slot_updSlot, AccessOwner.slot.injEq, hval]
      split <;> rfl
    | shelf n => rfl
  | shelf n =>
    cases p with
    | slot k => rfl
    | shelf k =>
      simp only [State.order, State.setOrder, State.shelf_updShelf, AccessOwner.shelf.injEq, hval]
      split <;> rfl

/-- With a place in the DOWN queue an order made ready is placed there (R28). -/
theorem State.makeReady_of_free (o : AccessOwner) (op : AccessOp) (h : s.htp.down.insertion.length < 16) :
    s.makeReady o op = (s.insertDown (s.accessFrame o op)).setOrder o (.placed op none) :=
  if_pos (s.downFree_iff.mpr h)

theorem State.madeReady_eq (s : State) (op : AccessOp) :
    s.madeReady op = if s.downFree then .placed op none else .waiting op := by
  simp only [State.madeReady, State.downFree, decide_eq_true_eq]

/-- The owner's order as it is made ready. -/
theorem State.order_makeReady (s : State) (o p : AccessOwner) (op : AccessOp) :
    (s.makeReady o op).order p = if p = o then s.madeReady op else s.order p := by
  unfold State.makeReady
  rw [State.madeReady_eq]
  split
  · rw [State.order_setOrder]; rfl
  · rw [State.order_setOrder]

/-- A slot whose order is made ready. -/
theorem State.makeReady_slot (s : State) {b : Nat} (hb : b ∈ slotNumbers) (op : AccessOp) (k : Nat) :
    (s.makeReady (slotOwner b) op).slot k = if k = b then { s.slot b with order := s.madeReady op } else s.slot k := by
  rw [slotOwner_val hb]
  unfold State.makeReady
  rw [State.madeReady_eq]
  split
  · exact (s.insertDown _).slot_updSlot b k fun r => { r with order := .placed op none }
  · exact s.slot_updSlot b k fun r => { r with order := .waiting op }

/-- A shelf whose order is made ready. -/
theorem State.makeReady_shelfOwner (s : State) {n : Nat} (hn : n < 64) (op : AccessOp) (k : Nat) :
    (s.makeReady (shelfOwner n) op).shelf k = if k = n then { s.shelf n with order := s.madeReady op } else s.shelf k := by
  have ho : shelfOwner n = .shelf ⟨n, hn⟩ := by simp [shelfOwner, Nat.mod_eq_of_lt hn]
  rw [ho]
  unfold State.makeReady
  rw [State.madeReady_eq]
  split
  · exact (s.insertDown _).shelf_updShelf n k fun r => { r with order := .placed op none }
  · exact s.shelf_updShelf n k fun r => { r with order := .waiting op }

end Sys2Proof.Machine
end

section
/-! PROOF of O39: waiting ACCESS orders and the probes of SILENT shelves. -/

namespace Sys2Proof.Machine

variable {s : State}

theorem State.placeOrder_full {o : AccessOwner} (h : 16 ≤ s.htp.down.insertion.length) : s.placeOrder o = s := by
  have hfull : s.downFree = false := by simpa [State.downFree] using h
  unfold State.placeOrder
  split
  · simp [hfull]
  · rfl
  · rfl

theorem State.placeOrder_waiting {o : AccessOwner} {op : AccessOp} (ho : s.order o = .waiting op) (h : s.htp.down.insertion.length < 16) :
    s.placeOrder o = s.makeReady o op := by
  simp [State.placeOrder, ho, s.downFree_iff.mpr h]

/-- The probe timer of a SILENT shelf put on by 10 s (R36). -/
def State.probePutOn (s : State) (n due : Nat) : State := s.updShelf n fun h => { h with probeDue := some (due + 10000) }

/-- The probe of a SILENT shelf that is due (R36). -/
theorem State.shelfProbeDue_eq {n due : Nat} (hst : (s.shelf n).state = .silent) (hp : (s.shelf n).probeDue = some due)
    (hd : due ≤ s.core.timeMs) :
    s.shelfProbeDue n =
      if (s.shelf n).order = .idle then (s.probePutOn n due).makeReady (shelfOwner n) .releaseAll else s.probePutOn n due := by
  simp only [State.shelfProbeDue, hp, hd, hst, and_self, if_true, decide_eq_true_eq]
  rfl

end Sys2Proof.Machine

open Sys2Proof Sys2Proof.Machine in
/-- Settles O39: an order is made ready in place of the one that waited, and a probe falls due by whether one is under way. -/
theorem accessOrdersAreMade : Obligations.AccessOrdersAreMade := by
  refine ⟨fun o op s hq ho => ⟨fun hfull => State.command_of_same hq (State.placeOrder_full hfull), fun hfree => ?_⟩,
    fun b l s hl => ?_, fun n due s hq hst hp hd => ?_⟩
  · have hplace := State.placeOrder_waiting ho hfree
    have hs : (s.placeOrder o).settled := by
      rw [hplace]
      exact ⟨(s.makeReady_walkDue o op).trans hq.settled.1, (s.makeReady_departed o op).trans hq.settled.2⟩
    have hexec : exec (.accessOrderPlace o) s = .next (s.placeOrder o).refreshConditions :=
      State.command_of_kept hq (s.placeOrder_kept o) hs
    rw [hplace, State.makeReady_of_free o op hfree] at hexec
    have horder := (s.insertDown (s.accessFrame o op)).order_setOrder o
    refine ⟨_, hexec, ?_⟩
    cases o with
    | slot b => exact ⟨(horder _ _).trans (if_pos rfl), rfl, rfl, fun p hp => (horder p _).trans (if_neg hp), rfl, rfl, rfl, rfl, rfl⟩
    | shelf n => exact ⟨(horder _ _).trans (if_pos rfl), rfl, rfl, fun p hp => (horder p _).trans (if_neg hp), rfl, rfl, rfl, rfl, rfl⟩
  · simp only [State.accessFrame, hl]
    rfl
  · have hs : (s.shelfProbeDue n.val).settled := by
      rw [State.shelfProbeDue_eq hst hp hd]
      split
      · exact ⟨(State.makeReady_walkDue ..).trans hq.settled.1, (State.makeReady_departed ..).trans hq.settled.2⟩
      · exact hq.settled
    have hexec : exec (.shelfProbeTimer n) s = .next (s.shelfProbeDue n.val).refreshConditions :=
      State.command_of_kept hq (s.shelfProbeDue_kept n.val) hs
    rw [State.shelfProbeDue_eq hst hp hd] at hexec
    have hput (k : Nat) : (s.probePutOn n.val due).shelf k =
        if k = n.val then { s.shelf n.val with probeDue := some (due + 10000) } else s.shelf k := State.shelf_updShelf ..
    split at hexec
    · next hidle =>
      have hshelf (k : Nat) : ((s.probePutOn n.val due).makeReady (shelfOwner n.val) .releaseAll).shelf k =
          if k = n.val then { s.shelf n.val with probeDue := some (due + 10000), order := s.madeReady .releaseAll } else s.shelf k := by
        rw [State.makeReady_shelfOwner _ n.isLt, hput, hput, if_pos rfl]
        split <;> rfl
      have hn := hshelf n.val
      rw [if_pos rfl] at hn
      refine ⟨_, hexec, (congrArg ShelfRec.probeDue hn :), (congrArg ShelfRec.state hn :).trans hst, ?_,
        fun k hk => (hshelf k).trans (if_neg hk), ?_⟩
      · rw [if_pos hidle]
        exact (congrArg ShelfRec.order hn :)
      · unfold State.makeReady
        split <;> exact ⟨rfl, rfl, rfl, rfl, rfl, rfl⟩
    · next hbusy =>
      have hn := hput n.val
      rw [if_pos rfl] at hn
      refine ⟨_, hexec, (congrArg ShelfRec.probeDue hn :), (congrArg ShelfRec.state hn :).trans hst, ?_,
        fun k hk => (hput k).trans (if_neg hk), rfl, rfl, rfl, rfl, rfl, rfl⟩
      rw [if_neg hbusy]
      exact (congrArg ShelfRec.order hn :)
end

section
/-! PROOF of O27: the five tests of R22. -/

namespace Sys2Proof.Machine

/-- Test 3 of R22, with the sets written out. -/
theorem State.someSetAgrees_iff (s : State) (k : KindSet) :
    s.someSetAgrees k = true ↔ ∃ n ∈ slotNumbers,
      ((s.testSet n).state = .probing ∨ (s.testSet n).state = .ready ∨ (s.testSet n).state = .silent)
        ∧ ∃ a, (s.testSet n).agreedKinds = some a ∧ a.contains k = true := by
  have hagrees (t : TestSet) : t.agrees k = true ↔ ∃ a, t.agreedKinds = some a ∧ a.contains k = true := by
    unfold TestSet.agrees
    split
    · next h => simp [h]
    · next a h => simp [h]
  unfold State.someSetAgrees
  rw [List.any_eq_true]
  simp only [Bool.and_eq_true, Bool.or_eq_true, decide_eq_true_eq, hagrees, or_assoc]

/-- An accepted request's line is QUEUED (R22). -/
theorem State.line_queued (s : State) (r : Request) (k : Nat) :
    (s.enterQueue r).line k = if k = r.line then { s.line k with access := .queued } else s.line k := by
  rw [State.line_enterQueue]
  split
  · next h => rw [h]
  · rfl

/-- An accepted offer begins a walk, and a refused one does nothing (R22). -/
theorem State.offer_eq (s : State) (r : Request) :
    s.offer r = match s.refusal r with
      | none => ((s.enterQueue r).settle, none)
      | some a => (s, some a) := by
  rcases s.offerCore_cases r with ⟨hr, ho⟩ | ⟨a, hr, ho⟩
  · unfold State.offer
    rw [ho, hr]
  · unfold State.offer
    rw [ho, hr]

end Sys2Proof.Machine

open Sys2Proof Sys2Proof.Machine in
/-- Settles O27: the chain of tests is that of `State.refusal`, its third with the four sets written out. -/
theorem offeredRequestIsJudgedInOrder : Obligations.OfferedRequestIsJudgedInOrder := by
  intro r s
  refine ⟨?_, rfl, rfl, s.enterQueue_length r, s.mem_enterQueue r, s.line_queued r, fun h => ?_, fun a h => ?_⟩
  · have hsets : s.someSetAgrees r.kinds = false ↔ ¬∃ n ∈ slotNumbers,
        ((s.testSet n).state = .probing ∨ (s.testSet n).state = .ready ∨ (s.testSet n).state = .silent)
          ∧ ∃ a, (s.testSet n).agreedKinds = some a ∧ a.contains r.kinds = true := by
      rw [← State.someSetAgrees_iff, Bool.not_eq_true]
    simp only [slotNumbers, List.exists_mem_cons_iff, List.not_mem_nil, false_and, exists_false, or_false] at hsets
    unfold State.offerCore State.refusal
    dsimp only
    simp only [hsets]
    split_ifs <;> rfl
  · rw [State.offer_eq, h]
  · rw [State.offer_eq, h]
end

section
/-! PROOF of O25 and O26: TEST. -/

namespace Sys2Proof.Machine

variable {s t u : State}

/-! ### The place of an accepted request -/

/-- An element enters behind those it does not come before, and ahead of one it comes before. -/
theorem insertBy_split {α : Type} (before : α → α → Bool) (x : α) (l : List α) :
    ∃ front back, l = front ++ back ∧ insertBy before x l = front ++ x :: back ∧ (∀ y ∈ front, before x y = false)
      ∧ ∀ y, back.head? = some y → before x y = true := by
  induction l with
  | nil => exact ⟨[], [], rfl, rfl, fun _ h => absurd h List.not_mem_nil, fun _ h => nomatch h⟩
  | cons z l ih =>
    unfold insertBy
    split
    · next hz => exact ⟨[], z :: l, rfl, rfl, fun _ h => absurd h List.not_mem_nil, fun y h => Option.some.inj h ▸ hz⟩
    · next hz =>
      obtain ⟨front, back, hl, hi, hfront, hback⟩ := ih
      refine ⟨z :: front, back, by rw [hl]; rfl, by rw [hi]; rfl, fun y hy => ?_, hback⟩
      rcases List.mem_cons.mp hy with rfl | hy
      · exact Bool.eq_false_iff.mpr hz
      · exact hfront y hy

/-- DESK comes before every other class (R24). -/
theorem ReqClass.desk_before (c : ReqClass) : ReqClass.desk.before c = true ↔ c ≠ .desk := by cases c <;> decide

/-! ### TEST judged -/

/-- The arguments of a TEST that are taken (R184). -/
theorem State.testArgsOk_iff (s : State) (position : Byte) (line : BitVec 16) (programme flags : Byte) :
    s.testArgsOk position line programme flags = true ↔ line.toNat ≤ 8191 ∧ position.toNat ≤ 7
      ∧ (programme ≠ 0xFF → programme.toNat ≤ 31 ∧ s.ms.programme programme.toNat ≠ none)
      ∧ (programme = 0xFF → flags.getLsbD 1 = true) := by
  unfold State.testArgsOk
  split
  · next hp => subst hp; simp [and_assoc]
  · next hp =>
    have hp : programme ≠ 255#8 := hp
    simp [hp, and_assoc, Option.isSome_iff_ne_none]

/-- A TEST of good arguments that the AC refuses is answered with the refusal (R22). -/
theorem State.takeTest_refused {i : Instr} {position programme flags : Byte} {line hold wait : BitVec 16} {a : Answer}
    (hargs : s.testArgsOk position line programme flags = true)
    (hr : s.refusal (s.deskRequest position line programme flags hold wait (s.freeToken 255 s.core.oh.tokenCounter)) = some a) :
    s.takeTest i position line programme flags hold wait = s.answer i a := by
  unfold State.takeTest
  rw [if_pos hargs]
  simp only [State.offer_eq, hr]

/-- The token counter moves past the token given (R184). -/
def State.tokenGiven (s : State) (token : Nat) : State := s.updOh fun o => { o with tokenCounter := nextToken token }

/-- A TEST that the AC accepts is answered with its token (R184). -/
theorem State.takeTest_accepted {i : Instr} {position programme flags : Byte} {line hold wait : BitVec 16}
    (hargs : s.testArgsOk position line programme flags = true)
    (hr : s.refusal (s.deskRequest position line programme flags hold wait (s.freeToken 255 s.core.oh.tokenCounter)) = none) :
    s.takeTest i position line programme flags hold wait =
      (((s.enterQueue (s.deskRequest position line programme flags hold wait (s.freeToken 255 s.core.oh.tokenCounter))).settle).tokenGiven
        (s.freeToken 255 s.core.oh.tokenCounter)).answer i .accepted [byte (s.freeToken 255 s.core.oh.tokenCounter)] := by
  unfold State.takeTest
  rw [if_pos hargs]
  simp only [State.offer_eq, hr]
  rfl

/-- The step of a TEST that the AC accepts, the AC being settled before its answer. -/
theorem exec_test_accepted {ref position programme flags : Byte} {line hold wait : BitVec 16} (ht : s.Takes)
    (hargs : s.testArgsOk position line programme flags = true)
    (hr : s.refusal (s.deskRequest position line programme flags hold wait (s.freeToken 255 s.core.oh.tokenCounter)) = none) :
    let token := s.freeToken 255 s.core.oh.tokenCounter
    let v := (s.enterQueue (s.deskRequest position line programme flags hold wait token)).settle
    exec (.test ref position line programme flags hold wait) s =
      .next ((v.tokenGiven token).withUpFrame (s.answerFrame (.test ref position line programme flags hold wait) .accepted [byte token])).refreshConditions := by
  intro token v
  have hv : State.Kept s v := State.settle_kept (State.enterQueue_kept (.refl s) _ (State.refusal_room hr))
  have hans : (v.tokenGiven token).answerFrame (.test ref position line programme flags hold wait) .accepted [byte token] =
      s.answerFrame (.test ref position line programme flags hold wait) .accepted [byte token] :=
    congrArg (fun n => ({ octets := highwayFrame 0 n _ _ } : OwnFrame)) hv.core.oh.station
  refine (State.orderCommand_of_takes ht _ _).trans ?_
  rw [State.takeTest_accepted hargs hr, State.answer_eq _ rfl, hans, State.finish_of_settled]
  · exact hv.core.oh.ready.trans ht.quiet.ready
  · exact State.settle_settled _
  · exact hv.latch.trans ht.quiet.latch

theorem State.refreshConditions_token (s : State) : s.refreshConditions.core.oh.tokenCounter = s.core.oh.tokenCounter :=
  (State.refreshConditions_kept (.refl s)).core.oh.token

/-! ### A granted line keeps its access -/

/-- Line l is IN_ACCESS on bus b and no queued request is for it. -/
structure State.Seated (l b : Nat) (s : State) : Prop where
  access : (s.line l).access = .inAccess b
  queue : ∀ q ∈ s.ac.queue, q.line ≠ l

variable {l b : Nat}

/-- A change of the AC that queues nothing for the line, and of no line. -/
theorem State.Seated.updAc (h : s.Seated l b) {f : Ac → Ac} (hf : (f s.ac).queue ⊆ s.ac.queue) : (s.updAc f).Seated l b :=
  ⟨h.access, fun q hq => h.queue q (hf hq)⟩

theorem State.Seated.updCore (h : s.Seated l b) {f : Core → Core} (hf : Core.TicketWork s.core (f s.core)) : (s.updCore f).Seated l b :=
  ⟨((congrArg LineRec.access (hf.line l) :)).trans h.access, h.queue⟩

theorem State.Seated.putTicket (h : s.Seated l b) (n : Nat) {f : Ticket → Ticket} (hf : Ticket.Firm f) :
    (s.updCore fun c => c.putTicket n f).Seated l b :=
  h.updCore (f := fun c => c.putTicket n f) (Core.putTicket_work (.refl _) n hf)

/-- A request that is accepted is for a line whose access is NONE. -/
theorem State.Seated.enterQueue (h : s.Seated l b) {r : Request} (hr : s.refusal r = none) : (s.enterQueue r).Seated l b := by
  have hne : r.line ≠ l := by
    rintro rfl
    have hacc : (s.line r.line).access ≠ .none := by rw [h.access]; exact fun e => nomatch e
    unfold State.refusal at hr
    rw [if_pos hacc] at hr
    split at hr <;> exact nomatch hr
  refine ⟨?_, fun q hq => ?_⟩
  · rw [State.line_queued, if_neg hne.symm]
    exact h.access
  · rw [State.enterQueue_queue, (insertBy_perm ..).mem_iff] at hq
    rcases List.mem_cons.mp hq with rfl | hq
    · exact hne
    · exact h.queue q hq

theorem State.Seated.offerCore (h : s.Seated l b) (r : Request) : (s.offerCore r).1.Seated l b := by
  rcases s.offerCore_cases r with ⟨hr, ho⟩ | ⟨a, -, ho⟩
  · rw [ho]; exact h.enterQueue hr
  · rw [ho]; exact h

/-- A grant to a request for another line. -/
theorem State.Seated.grant (h : s.Seated l b) {r : Request} (hr : r.line ≠ l) (k : Nat) : (s.grant r k).Seated l b := by
  obtain ⟨i, sl, he⟩ := s.grant_eq r k
  rw [he]
  refine ⟨?_, fun q hq => h.queue q (List.mem_of_mem_erase hq)⟩
  show (((s.updLine r.line fun l => { l with access := .inAccess k }).line l)).access = _
  rw [State.line_updLine, if_neg hr.symm]
  exact h.access

theorem State.Seated.visits (rs : List Request) (h : s.Seated l b) (hrs : ∀ r ∈ rs, r.line ≠ l) : (rs.foldl State.visit s).Seated l b := by
  induction rs generalizing s with
  | nil => exact h
  | cons r rs ih =>
    refine ih ?_ fun q hq => hrs q (List.mem_cons_of_mem r hq)
    rcases s.visit_cases r with hv | ⟨k, -, -, hv⟩
    · rw [hv]; exact h
    · rw [hv]; exact h.grant (hrs r List.mem_cons_self) k

theorem State.Seated.offerRetest (h : s.Seated l b) (n : Nat) : (s.offerRetest n).1.Seated l b := by
  unfold State.offerRetest
  split
  · exact h
  · next t ht =>
    split
    · split
      · exact h
      · next w hw =>
        have ho := h.offerCore (s.retestRequest t.subject (s.routineProgramme t.subject) w.reason (some n))
        dsimp only
        split
        · refine ho.putTicket n ?_
          exact fun _ => id
        · exact ho.updCore (f := fun c => c.retestAttempt n false) (Core.retestAttempt_work (.refl _) n false)
        · refine ho.putTicket n ?_
          exact fun _ => id
    · exact h

theorem State.Seated.offerRetests (h : s.Seated l b) (ns : List Nat) : (s.offerRetests ns).Seated l b := by
  induction ns generalizing s with
  | nil => exact h
  | cons n ns ih =>
    unfold State.offerRetests
    dsimp only
    split
    · exact h.offerRetest n
    · exact ih (h.offerRetest n)

theorem State.Seated.settleRounds (n : Nat) (h : s.Seated l b) : (State.settleRounds n s).Seated l b := by
  induction n generalizing s with
  | zero => exact h
  | succ n ih =>
    unfold State.settleRounds
    dsimp only
    generalize hu : (if s.ac.departed = true then
        (s.updAc fun a => { a with departed := false }).offerRetests (s.updAc fun a => { a with departed := false }).dueRetests
        else s) = u
    have hk : u.Seated l b := by
      rw [← hu]
      split
      · exact (h.updAc fun _ => id).offerRetests _
      · exact h
    split
    · exact ih ((hk.updAc fun _ => id).visits _ hk.queue)
    · exact hk

/-! ### A request granted at once -/

/-- The slot that a grant takes (R27). -/
theorem State.grant_slot_self (s : State) (r : Request) {b : Nat} (hb : b ∈ slotNumbers) :
    (s.grant r b).slot b =
      { state := .seizing, request := some { r with waitDue := none }, pair := s.choosePair (shelfOf r.line), attempt := 1,
        order := s.madeReady .operate } := by
  unfold State.grant
  rw [State.makeReady_slot _ hb, if_pos rfl, State.slot_setSlot, if_pos rfl]
  rfl

/-- With no other request waiting, one that is accepted and finds a fitting slot is granted it in the first walk (R26). -/
theorem State.settle_granted {r : Request} (hq : s.ac.queue = []) (hd : s.ac.departed = false) (hg : s.grantable r = true)
    (hf : slotNumbers.find? (fun k => s.fitting r k) = some b) :
    (s.enterQueue r).settle = State.settleRounds 7 ((s.enterQueue r).walked.grant (s.entered r) b) := by
  have hqueue : (s.enterQueue r).walked.ac.queue = [s.entered r] := by
    show (s.enterQueue r).ac.queue = _
    rw [State.enterQueue_queue, hq]
    rfl
  have hcall : ((s.enterQueue r).walked.line r.line).callState = (s.line r.line).callState := by
    show ((s.enterQueue r).line r.line).callState = _
    rw [State.line_queued, if_pos rfl]
  have hgrant : (s.enterQueue r).walked.grantable (s.entered r) = true := by
    have he : (s.enterQueue r).walked.callAllows (s.entered r) = s.callAllows r := by
      unfold State.callAllows
      rw [show (s.entered r).line = r.line from rfl, hcall]
      rfl
    unfold State.grantable at hg ⊢
    rw [he]
    exact hg
  have hvisit : (s.enterQueue r).walked.visit (s.entered r) = (s.enterQueue r).walked.grant (s.entered r) b := by
    unfold State.visit
    rw [if_pos hgrant]
    rw [show (slotNumbers.find? fun k => (s.enterQueue r).walked.fitting (s.entered r) k) = some b from hf]
  have hround : (s.enterQueue r).settle = State.settleRounds 7 (s.enterQueue r).walked.walk := by
    have hd' : (s.enterQueue r).ac.departed = false := hd
    have hw' : (s.enterQueue r).ac.walkDue = true := rfl
    unfold State.settle
    rw [State.settleRounds]
    simp only [hd', hw', Bool.false_eq_true, if_false, if_true]
    rfl
  rw [hround, State.walk, hqueue, List.foldl_cons, List.foldl_nil, hvisit]

/-- Once the part has settled, the slot granted and the line's access state are as the grant left them. -/
theorem State.settle_of_granted {r : Request} (hq : s.ac.queue = []) (hd : s.ac.departed = false) (hg : s.grantable r = true)
    (hf : slotNumbers.find? (fun k => s.fitting r k) = some b) :
    (s.enterQueue r).settle.slot b =
        { state := .seizing, request := some { s.entered r with waitDue := none }, pair := s.choosePair (shelfOf r.line), attempt := 1,
          order := s.madeReady .operate }
      ∧ ((s.enterQueue r).settle.line r.line).access = .inAccess b := by
  have hb : b ∈ slotNumbers := List.mem_of_find?_eq_some hf
  have hslot := (s.enterQueue r).walked.grant_slot_self (s.entered r) hb
  have hseated : ((s.enterQueue r).walked.grant (s.entered r) b).Seated r.line b := by
    obtain ⟨i, sl, he⟩ := (s.enterQueue r).walked.grant_eq (s.entered r) b
    rw [he]
    refine ⟨?_, fun q hin => ?_⟩
    · exact congrArg LineRec.access (((s.enterQueue r).walked.line_updLine r.line r.line
        fun l => { l with access := .inAccess b }).trans (if_pos rfl))
    · have hnil : (s.enterQueue r).walked.ac.queue.erase (s.entered r) = [] := by
        show (insertBy _ (s.entered r) s.ac.queue).erase _ = []
        rw [hq]
        exact List.erase_cons_head ..
      rw [show (_ : List Request) = [] from hnil] at hin
      exact absurd hin List.not_mem_nil
  rw [State.settle_granted hq hd hg hf]
  refine ⟨?_, (hseated.settleRounds 7).access⟩
  rw [(State.settleRounds_offerWork 7 (.refl _)).slot b (by rw [hslot]; exact fun e => nomatch e), hslot]
  rfl

end Sys2Proof.Machine

open Sys2Proof Sys2Proof.Machine in
/-- Settles O25: accepted with every fitting slot taken the request waits, and refused the TEST is answered alone. -/
theorem testIsQueued : Obligations.TestIsQueued := by
  intro ref position line programme flags hold wait s ht i token r
  have hanswer {a : Answer} (hj : s.takeTest i position line programme flags hold wait = s.answer i a) :
      exec i s = .next (s.withUpFrame (s.answerFrame i a [])) := State.orderCommand_of_answer ht rfl hj
  refine ⟨fun hargs hr htaken => ?_, s.testArgsOk_iff .., fun hargs => hanswer (if_neg (by simp [hargs])),
    fun a hargs hr => hanswer (State.takeTest_refused hargs hr)⟩
  have hexec := exec_test_accepted (ref := ref) ht hargs hr
  have hsettle : (s.enterQueue r).settle = (s.enterQueue r).walked := State.settle_of_taken (s := s.enterQueue r) htaken ht.quiet.settled.2
  obtain ⟨front, back, hqueue, hin, hfront, hback⟩ :=
    insertBy_split (fun x y : Request => x.cls.before y.cls) (s.entered r) s.ac.queue
  dsimp only at hexec
  rw [hsettle] at hexec
  refine ⟨_, front, back, hexec, hqueue, (s.enterQueue_queue r).trans hin, fun q hq => ?_, fun q hq => ?_, rfl, rfl, rfl, rfl, rfl, rfl, rfl, rfl,
    rfl, rfl, rfl, s.line_queued r, ?_, rfl, rfl, rfl, rfl, rfl, rfl, rfl⟩
  · exact not_not.mp fun hne => Bool.false_ne_true ((hfront q hq).symm.trans ((ReqClass.desk_before q.cls).mpr hne))
  · exact (ReqClass.desk_before q.cls).mp (hback q hq)
  · exact State.refreshConditions_token _

open Sys2Proof Sys2Proof.Machine in
/-- Settles O26: the one request is granted in the first walk, and what the settling does after that leaves its slot and its line. -/
theorem testIsGranted : Obligations.TestIsGranted := by
  intro ref position line programme flags hold wait b s ht i token r hargs hr hq hg hf
  have hexec := exec_test_accepted (ref := ref) ht hargs hr
  obtain ⟨hslot, haccess⟩ := State.settle_of_granted hq ht.quiet.settled.2 hg hf
  have hkept : State.Kept s (s.enterQueue r).settle := State.settle_kept (State.enterQueue_kept (.refl s) _ (State.refusal_room hr))
  have hwork : State.OfferWork s (s.enterQueue r).settle := State.settle_offerWork (State.enterQueue_offerWork (.refl s) r)
  have hpair : s.choosePair (shelfOf r.line) =
      if ∃ k ∈ slotNumbers, (s.slot k).onShelf (shelfOf line.toNat) = true ∧ (s.slot k).pair = 0 then 1 else 0 := by
    unfold State.choosePair
    simp only [List.any_eq_true, Bool.and_eq_true, decide_eq_true_eq]
    rfl
  dsimp only at hexec
  generalize (s.enterQueue r).settle = v at hexec hslot haccess hkept hwork
  refine ⟨_, hexec, (congrArg Slot.state hslot :), (congrArg Slot.request hslot :), (congrArg Slot.pair hslot :).trans hpair,
    (congrArg Slot.attempt hslot :), (congrArg Slot.cause hslot :), (congrArg Slot.heldAt hslot :),
    (congrArg Slot.order hslot :).trans (s.madeReady_eq .operate), haccess, ?_, (congrArg Ms.runs hwork.ms :), hwork.rs, hwork.cg⟩
  exact congrArg (fun p : OutPort => p.insertion ++ [_]) hkept.up
end

section
/-! SUPPORT. What the hand-over of a run and the equipment tickets leave of the lines, the shelves and the test sets. -/

namespace Sys2Proof.Machine

variable {c₀ c d : Core}

/-! ### More work on tickets that stand -/

@[simp] theorem Ticket.reopen_firm : Ticket.Firm Ticket.reopen := fun _ _ => by simp [Ticket.reopen]

@[simp] theorem Ticket.update_firm (now : Nat) (cls : FaultClass) (values : Option (List LastValue)) :
    Ticket.Firm fun t => t.update now cls values := fun t ht => by
  unfold Ticket.update
  dsimp only
  split <;> exact ht

@[simp] theorem Core.raiseParent_work (h : Core.TicketWork c₀ c) (g v : Nat) : Core.TicketWork c₀ (c.raiseParent g v) := by
  unfold Core.raiseParent
  repeat' split
  all_goals simp (maxDischargeDepth := 20) [h]

@[simp] theorem Core.failure_work (h : Core.TicketWork c₀ c) (n : Nat) (cls : FaultClass) (values : Option (List LastValue)) (direct : Bool) :
    Core.TicketWork c₀ (c.failure n cls values direct) := by
  unfold Core.failure
  dsimp only
  have hu := Core.putTicket_work h n (Ticket.update_firm c.now cls values)
  have hr := Core.putTicket_work hu n Ticket.reopen_firm
  repeat' split
  all_goals simp (maxDischargeDepth := 20) [h, hu, hr]

@[simp] theorem Core.confirmFail_work (h : Core.TicketWork c₀ c) (n : Nat) (cls : FaultClass) (values : List LastValue) :
    Core.TicketWork c₀ (c.confirmFail n cls values) := by
  refine Core.openProvisional_work (Core.putTicket_work h n fun t ht => ?_) n
  dsimp only
  split
  · exact Ticket.update_firm c.now cls (some values) t ht
  · exact Ticket.update_firm c.now cls (some values) t ht

@[simp] theorem Core.verifyGood_work (h : Core.TicketWork c₀ c) (n : Nat) : Core.TicketWork c₀ (c.verifyGood n) := by
  unfold Core.verifyGood
  repeat' split
  all_goals simp (maxDischargeDepth := 20) [h]

/-- The line's record names its new ticket, or bears the mark of R115. -/
theorem Core.setLineTicket_work (h : Core.TicketWork c₀ c) (l : Nat) {f : LineRec → LineRec} (hf : ∀ r, (f r).sansTicket = r.sansTicket) :
    Core.TicketWork c₀ (c.updLine l f) := by
  refine h.trans ⟨fun k => ?_, fun _ => rfl, fun _ => rfl, id⟩
  rw [Core.line_updLine]
  split
  · next e => rw [e, hf]
  · rfl

theorem Core.setReference_work (h : Core.TicketWork c₀ c) (kind : TicketKind) (subject n : Nat) :
    Core.TicketWork c₀ (c.setReference kind subject n) := by
  refine h.trans ?_
  unfold Core.setReference
  split
  · refine ⟨fun _ => rfl, fun k => ?_, fun _ => rfl, id⟩
    rw [Core.shelf_updShelf]
    split
    · next e => rw [e]; rfl
    · rfl
  · refine ⟨fun _ => rfl, fun _ => rfl, fun k => ?_, id⟩
    rw [Core.testSet_updTestSet]
    split
    · next e => rw [e]; rfl
    · rfl
  · exact .refl c
  · exact .refl c
  · exact .refl c

@[simp] theorem Core.askEquipment_work (h : Core.TicketWork c₀ c) (kind : TicketKind) (subject : Nat) (cls : FaultClass) :
    Core.TicketWork c₀ (c.askEquipment kind subject cls) := by
  unfold Core.askEquipment
  dsimp only
  repeat' split
  · exact Core.noticeDue_work (Core.setReference_work (Core.enter_work (Core.makeRoom_work h) (by simp)) kind subject _) _
  · exact Core.makeRoom_work h
  · simp (maxDischargeDepth := 20) [h]
  · simp (maxDischargeDepth := 20) [h]

@[simp] theorem Core.recovered_work (h : Core.TicketWork c₀ c) (kind : TicketKind) (subject : Nat) :
    Core.TicketWork c₀ (c.recovered kind subject) := by
  unfold Core.recovered
  repeat' split
  all_goals simp (maxDischargeDepth := 20) [h]

@[simp] theorem Core.retestReturned_work (h : Core.TicketWork c₀ c) (r : Request) (p : Bool) : Core.TicketWork c₀ (c.retestReturned r p) := by
  unfold Core.retestReturned
  repeat' split
  all_goals simp (maxDischargeDepth := 20) [h]

/-! ### The records that the tickets are about -/

/-- Of the lines, shelves and test sets only the references to their tickets differ. -/
structure Core.SubjectsKept (c d : Core) : Prop where
  line : ∀ l, (d.line l).sansTicket = (c.line l).sansTicket
  shelf : ∀ n, (d.shelf n).sansTicket = (c.shelf n).sansTicket
  testSet : ∀ n, (d.testSet n).sansTicket = (c.testSet n).sansTicket

theorem Core.TicketWork.subjects (h : Core.TicketWork c d) : Core.SubjectsKept c d := ⟨h.line, h.shelf, h.testSet⟩

theorem Core.SubjectsKept.trans {e : Core} (h : Core.SubjectsKept c d) (k : Core.SubjectsKept d e) : Core.SubjectsKept c e :=
  ⟨fun l => (k.line l).trans (h.line l), fun n => (k.shelf n).trans (h.shelf n), fun n => (k.testSet n).trans (h.testSet n)⟩

/-- A ticket that enters, also a PROVISIONAL one. -/
theorem Core.enter_subjects (c : Core) (t : Ticket) : Core.SubjectsKept c (c.enter t).1 := ⟨fun _ => rfl, fun _ => rfl, fun _ => rfl⟩

theorem Core.createLine_subjects (c : Core) (l : Nat) (cls : FaultClass) (provisional : Bool) (values : List LastValue) :
    Core.SubjectsKept c (c.createLine l cls provisional values) := by
  have hroom := (Core.makeRoom_work (.refl c)).subjects
  have hline (e : Core) (n : Option Nat) (b : Bool) : Core.TicketWork e (e.updLine l fun r => { r with ticket := n, unticketed := b }) :=
    Core.setLineTicket_work (.refl e) l fun _ => rfl
  have hin (t : Ticket) : Core.SubjectsKept c (c.makeRoom.1.enter t).1 := hroom.trans (Core.enter_subjects _ t)
  unfold Core.createLine
  dsimp only
  repeat' split
  · exact (hin _).trans (Core.adopt_work (hline _ _ _) _ _).subjects
  · exact (hin _).trans (hline _ _ _).subjects
  · exact (hin _).trans (Core.standAlone_work (hline _ _ _) _).subjects
  · exact hroom.trans (Core.setLineTicket_work (.refl _) l (f := fun r => { r with unticketed := true }) fun _ => rfl).subjects

theorem Core.directFailure_subjects (c : Core) (l : Nat) (cls : FaultClass) (values : Option (List LastValue)) :
    Core.SubjectsKept c (c.directFailure l cls values) := by
  unfold Core.directFailure
  split
  · exact (Core.failure_work (.refl c) _ _ _ _).subjects
  · exact c.createLine_subjects _ _ _ _

theorem Core.judgeRetest_subjects (c : Core) (r : Request) (reason : Reason) (outcome : RunOutcome) (verdict : RunVerdict)
    (values : List LastValue) : Core.SubjectsKept c (c.judgeRetest r reason outcome verdict values) := by
  unfold Core.judgeRetest
  split
  · exact c.directFailure_subjects _ _ _
  · exact (Core.TicketWork.refl c).subjects
  · refine Core.TicketWork.subjects ?_
    split <;> simp
  · refine Core.TicketWork.subjects ?_
    split <;> simp
  · refine Core.TicketWork.subjects ?_
    split <;> simp

/-- The second part of a hand-over, that of a DEGRADING report (R116). -/
def Core.handDegrading (l : Nat) (values : List LastValue) (c : Core) : Core :=
  match (c.line l).ticket with
  | some n => c.failure n .degrading none true
  | none => c.createLine l .degrading false values

theorem Core.handDegrading_subjects (l : Nat) (values : List LastValue) (c : Core) : Core.SubjectsKept c (c.handDegrading l values) := by
  unfold Core.handDegrading
  split
  · exact (Core.failure_work (.refl c) _ _ _ _).subjects
  · exact c.createLine_subjects _ _ _ _

theorem Core.SubjectsKept.ite {p : Prop} [Decidable p] {f : Core → Core} (h : Core.SubjectsKept c d)
    (k : ∀ d, Core.SubjectsKept d (f d)) : Core.SubjectsKept c (if p then f d else d) := by
  split
  · exact h.trans (k d)
  · exact h

/-- The hand-over of a run (R116). -/
theorem Core.handOver_subjects (c : Core) (r : Request) (outcome : RunOutcome) (cls : Option FaultClass) (results : List StepResult)
    (degrading : Bool) : Core.SubjectsKept c (c.handOver r outcome cls results degrading) := by
  have hrefl : Core.SubjectsKept c c := (Core.TicketWork.refl c).subjects
  unfold Core.handOver
  refine Core.SubjectsKept.ite (f := Core.handDegrading r.line (lastValuesOf results)) ?_ (Core.handDegrading_subjects _ _)
  split
  · split
    · exact (Core.failure_work (.refl c) _ _ _ _).subjects
    · exact c.createLine_subjects _ _ _ _
  · split
    · exact c.directFailure_subjects _ _ _
    · exact hrefl
  · exact c.directFailure_subjects _ _ _
  · exact c.directFailure_subjects _ _ _
  · exact c.directFailure_subjects _ _ _
  · exact c.judgeRetest_subjects _ _ _ _ _
  · exact c.judgeRetest_subjects _ _ _ _ _
  · exact hrefl

end Sys2Proof.Machine
end

section
/-! SUPPORT. What the ending of a run and of a slot's request leaves of the part, and the RELEASE that follows it. -/

namespace Sys2Proof.Machine

variable {s₀ s t u : State} {b : Nat}

/-! ### Work of the links, the sequencer and the TC -/

/-- A change of the records of the core and of the sequencer alone. -/
def State.RunWork (s t : State) : Prop := ∃ c m, t = { s with core := c, ms := m }

theorem State.RunWork.refl (s : State) : State.RunWork s s := ⟨_, _, rfl⟩

theorem State.RunWork.trans (h : State.RunWork s t) (k : State.RunWork t u) : State.RunWork s u := by
  obtain ⟨_, _, rfl⟩ := h
  obtain ⟨_, _, rfl⟩ := k
  exact ⟨_, _, rfl⟩

theorem State.RunWork.ac (h : State.RunWork s t) : t.ac = s.ac := by
  obtain ⟨_, _, rfl⟩ := h
  rfl

theorem State.RunWork.htp (h : State.RunWork s t) : t.htp = s.htp := by
  obtain ⟨_, _, rfl⟩ := h
  rfl

theorem State.RunWork.slot (h : State.RunWork s t) (k : Nat) : t.slot k = s.slot k := by
  unfold State.slot
  rw [h.ac]

theorem State.updCore_runWork (h : State.RunWork s₀ s) (f : Core → Core) : State.RunWork s₀ (s.updCore f) := h.trans ⟨_, _, rfl⟩

theorem State.updMs_runWork (h : State.RunWork s₀ s) (f : Ms → Ms) : State.RunWork s₀ (s.updMs f) := h.trans ⟨_, _, rfl⟩

theorem State.updLine_runWork (h : State.RunWork s₀ s) (l : Nat) (f : LineRec → LineRec) : State.RunWork s₀ (s.updLine l f) :=
  h.trans ⟨_, _, rfl⟩

theorem State.updTestSet_runWork (h : State.RunWork s₀ s) (n : Nat) (f : TestSet → TestSet) : State.RunWork s₀ (s.updTestSet n f) :=
  h.trans ⟨_, _, rfl⟩

@[simp] theorem State.stopStepTimers_runWork (h : State.RunWork s₀ s) (n : Nat) : State.RunWork s₀ (s.stopStepTimers n) :=
  State.updTestSet_runWork h n _

@[simp] theorem State.sendLink_runWork (h : State.RunWork s₀ s) (n : Nat) (m : LinkMsg) (timed : Bool) :
    State.RunWork s₀ (s.sendLink n m timed) := State.updTestSet_runWork h n _

@[simp] theorem State.sendStream_runWork (h : State.RunWork s₀ s) (n : Nat) (on : Bool) : State.RunWork s₀ (s.sendStream n on) :=
  State.sendLink_runWork (State.updTestSet_runWork h n _) n _ _

@[simp] theorem State.sendSource_runWork (h : State.RunWork s₀ s) (n : Nat) (p : LeadPair) (m : SourceMode) (l sl : Int) (r : CurrentRange)
    (c : Coupling) (timed : Bool) : State.RunWork s₀ (s.sendSource n p m l sl r c timed) :=
  State.sendLink_runWork (State.updTestSet_runWork h n _) n _ _

@[simp] theorem State.sourceOff_runWork (h : State.RunWork s₀ s) (n : Nat) : State.RunWork s₀ (s.sourceOff n) :=
  State.sendSource_runWork h n _ _ _ _ _ _ _

@[simp] theorem State.restSource_runWork (h : State.RunWork s₀ s) (n : Nat) : State.RunWork s₀ (s.restSource n) := by
  unfold State.restSource
  dsimp only
  split
  · exact State.sendStream_runWork (State.sourceOff_runWork (State.stopStepTimers_runWork h n) n) n false
  · exact State.stopStepTimers_runWork h n

theorem State.resultOf_runWork (h : State.RunWork s₀ s) (r : Request) (bus : Option Nat) (o : RunOutcome) :
    State.RunWork s₀ (s.resultOf r bus o) := State.updMs_runWork h _

/-- The RESULT of a run is made, or none is due (R88). -/
theorem State.runResult_cases (s : State) (b : Nat) (r : Request) (x : Run) (o : RunOutcome) (f : Option FaultClass) :
    (∃ y, s.runResult b r x o f = s.makeResult y) ∨ s.runResult b r x o f = s := by
  exact (ite_eq_or_eq _ _ _).imp (fun h => ⟨_, h⟩) id

theorem State.runResult_runWork (h : State.RunWork s₀ s) (b : Nat) (r : Request) (x : Run) (o : RunOutcome) (f : Option FaultClass) :
    State.RunWork s₀ (s.runResult b r x o f) := by
  rcases s.runResult_cases b r x o f with ⟨_, he⟩ | he
  · rw [he]; exact State.updMs_runWork h _
  · rw [he]; exact h

theorem State.closeRun_runWork (h : State.RunWork s₀ s) (b : Nat) (o : RunOutcome) : State.RunWork s₀ (s.closeRun b o) := by
  unfold State.closeRun
  split
  · exact State.updMs_runWork (State.runResult_runWork (State.updCore_runWork (State.updLine_runWork
      (State.restSource_runWork h b) _ _) _) _ _ _ _ _) _
  · exact State.updMs_runWork h _

theorem State.endRunEarly_runWork (h : State.RunWork s₀ s) (b : Nat) (o : RunOutcome) : State.RunWork s₀ (s.endRunEarly b o) := by
  unfold State.endRunEarly
  dsimp only
  split
  · exact State.closeRun_runWork (State.updMs_runWork h _) b o
  · exact State.updMs_runWork h _

theorem State.returnRetest_runWork (h : State.RunWork s₀ s) (r : Request) (p : Bool) : State.RunWork s₀ (s.returnRetest r p) := by
  unfold State.returnRetest
  split
  · split
    · exact State.updLine_runWork h _ _
    · exact h
  · split
    · exact State.updLine_runWork h _ _
    · exact h
  · exact State.updCore_runWork h _
  · exact State.updCore_runWork h _
  · exact h

theorem State.endRequest_runWork (h : State.RunWork s₀ s) (r : Request) (bus : Option Nat) (e : Ending) :
    State.RunWork s₀ (s.endRequest r bus e) := by
  unfold State.endRequest
  split
  case h_1 => exact State.resultOf_runWork h _ _ _
  case h_4 => exact State.returnRetest_runWork h _ _
  case h_5 => exact State.returnRetest_runWork h _ _
  case h_7 | h_8 | h_9 => exact State.updLine_runWork h _ _
  all_goals exact h

/-! ### A slot whose request ends -/

/-- Work of that kind beside the mark on slot b that its request has had its ending. -/
structure State.Ended (b : Nat) (s t : State) : Prop where
  only : ∃ c m sl, t = { s with core := c, ms := m, ac := { s.ac with slots := sl } }
  other : ∀ k, k ≠ b → t.slot k = s.slot k
  owner : ∃ e, t.slot b = { s.slot b with ended := e }

theorem State.RunWork.ended (h : State.RunWork s t) (b : Nat) : State.Ended b s t where
  only := by
    obtain ⟨_, _, rfl⟩ := h
    exact ⟨_, _, _, rfl⟩
  other k _ := h.slot k
  owner := ⟨_, h.slot b⟩

theorem State.Ended.trans (h : State.Ended b s t) (k : State.Ended b t u) : State.Ended b s u where
  only := by
    obtain ⟨_, _, _, rfl⟩ := h.only
    obtain ⟨_, _, _, rfl⟩ := k.only
    exact ⟨_, _, _, rfl⟩
  other m hm := (k.other m hm).trans (h.other m hm)
  owner := by
    obtain ⟨_, he⟩ := h.owner
    obtain ⟨e, hf⟩ := k.owner
    exact ⟨e, by rw [hf, he]⟩

theorem State.Ended.queue (h : State.Ended b s t) : t.ac.queue = s.ac.queue := by
  obtain ⟨_, _, _, rfl⟩ := h.only
  rfl

theorem State.Ended.settled (h : State.Ended b s t) (hs : s.settled) : t.settled := by
  obtain ⟨_, _, _, rfl⟩ := h.only
  exact hs

theorem State.Ended.htp (h : State.Ended b s t) : t.htp = s.htp := by
  obtain ⟨_, _, _, rfl⟩ := h.only
  rfl

/-- The mark keeps the request, the pair, the cause and the order of the slot. -/
theorem State.Ended.slot (h : State.Ended b s t) (k : Nat) : ∃ e, t.slot k = { s.slot k with ended := e } := by
  by_cases hk : k = b
  · exact hk ▸ h.owner
  · exact ⟨_, h.other k hk⟩

theorem State.markEnded_ended (s : State) (b : Nat) : State.Ended b s (s.markEnded b) where
  only := ⟨_, _, _, rfl⟩
  other k hk := (s.slot_updSlot b k _).trans (if_neg hk)
  owner := ⟨true, (s.slot_updSlot b b _).trans (if_pos rfl)⟩

theorem State.endSlotRequest_ended (s : State) (b : Nat) (e : Ending) : State.Ended b s (s.endSlotRequest b e) := by
  unfold State.endSlotRequest
  repeat' split
  · exact (State.RunWork.refl s).ended b
  · exact (State.RunWork.refl s).ended b
  · exact (s.markEnded_ended b).trans ((State.endRequest_runWork (.refl _) _ _ _).ended b)

theorem State.setPendingRun_runWork (s : State) (b : Nat) (p : Option Nat) : State.RunWork s (s.setPendingRun b p) := ⟨_, _, rfl⟩

theorem State.endHeld_ended (s : State) (b : Nat) (run : RunOutcome) (idle : Option RunOutcome) : State.Ended b s (s.endHeld b run idle) := by
  unfold State.endHeld
  split
  · exact ((State.endRunEarly_runWork (.refl s) b run).ended b).trans (State.markEnded_ended _ b)
  · refine ((s.setPendingRun_runWork b none).ended b).trans ?_
    dsimp only
    split
    · exact State.endSlotRequest_ended _ b _
    · exact State.markEnded_ended _ b

/-! ### No run is left -/

/-- The RESULTs, the lines, the sets and the tickets do not bear on what runs are active or pending. -/
def State.SameRuns (s t : State) : Prop := t.ms.runs = s.ms.runs ∧ t.ms.pendingRuns = s.ms.pendingRuns

theorem State.SameRuns.run (h : State.SameRuns s t) (k : Nat) : t.run k = s.run k := by
  unfold State.run
  rw [h.1]

theorem State.SameRuns.pendingRun (h : State.SameRuns s t) (k : Nat) : t.pendingRun k = s.pendingRun k := by
  unfold State.pendingRun
  rw [h.2]

theorem State.makeResult_sameRuns (s : State) (r : Result) : State.SameRuns s (s.makeResult r) := by
  unfold State.makeResult State.SameRuns
  simp only [State.updMs_ms]
  split <;> exact ⟨rfl, rfl⟩

theorem State.runResult_sameRuns (s : State) (b : Nat) (r : Request) (x : Run) (o : RunOutcome) (f : Option FaultClass) :
    State.SameRuns s (s.runResult b r x o f) := by
  rcases s.runResult_cases b r x o f with ⟨y, he⟩ | he
  · rw [he]; exact s.makeResult_sameRuns y
  · rw [he]; exact ⟨rfl, rfl⟩

theorem State.returnRetest_ms (s : State) (r : Request) (p : Bool) : (s.returnRetest r p).ms = s.ms := by
  unfold State.returnRetest
  repeat' split
  all_goals rfl

theorem State.endRequest_sameRuns (s : State) (r : Request) (bus : Option Nat) (e : Ending) : State.SameRuns s (s.endRequest r bus e) := by
  unfold State.endRequest
  split
  case h_1 => exact s.makeResult_sameRuns _
  case h_4 | h_5 => exact ⟨congrArg Ms.runs (s.returnRetest_ms _ _), congrArg Ms.pendingRuns (s.returnRetest_ms _ _)⟩
  all_goals exact ⟨rfl, rfl⟩

theorem State.endSlotRequest_sameRuns (s : State) (b : Nat) (e : Ending) : State.SameRuns s (s.endSlotRequest b e) := by
  unfold State.endSlotRequest
  repeat' split
  · exact ⟨rfl, rfl⟩
  · exact ⟨rfl, rfl⟩
  · exact (s.markEnded b).endRequest_sameRuns _ _ _

theorem State.closeRun_run (s : State) (b k : Nat) (o : RunOutcome) : (s.closeRun b o).run k = if k = b then none else s.run k := by
  unfold State.closeRun
  split
  · rw [State.run_setRun, (State.runResult_sameRuns ..).run]
    exact congrArg (fun m : Ms => if k = b then none else Table.get none m.runs k) (s.restSource_ms b)
  · exact State.run_setRun ..

theorem State.closeRun_pendingRun (s : State) (b k : Nat) (o : RunOutcome) : (s.closeRun b o).pendingRun k = s.pendingRun k := by
  unfold State.closeRun
  split
  · rw [State.pendingRun_setRun, (State.runResult_sameRuns ..).pendingRun]
    exact congrArg (fun m : Ms => Table.get none m.pendingRuns k) (s.restSource_ms b)
  · rfl

/-- A run ended from outside leaves no run and none pending (R84). -/
theorem State.endRunEarly_runs (s : State) (b : Nat) (o : RunOutcome) :
    (s.endRunEarly b o).run b = none ∧ (s.endRunEarly b o).pendingRun b = none := by
  unfold State.endRunEarly
  dsimp only
  split
  · rw [State.closeRun_run, State.closeRun_pendingRun, State.pendingRun_setPendingRun, if_pos rfl, if_pos rfl]
    exact ⟨rfl, rfl⟩
  · next hr => exact ⟨by simpa [State.running] using hr, (s.pendingRun_setPendingRun b b none).trans (if_pos rfl)⟩

theorem State.endHeld_runs (s : State) (b : Nat) (run : RunOutcome) (idle : Option RunOutcome) :
    (s.endHeld b run idle).run b = none ∧ (s.endHeld b run idle).pendingRun b = none := by
  unfold State.endHeld
  split
  · exact s.endRunEarly_runs b run
  · next hr =>
    have hrun : (s.setPendingRun b none).run b = none := by simpa [State.running] using hr
    have hpend : (s.setPendingRun b none).pendingRun b = none := (s.pendingRun_setPendingRun b b none).trans (if_pos rfl)
    dsimp only
    split
    · have hsame := (s.setPendingRun b none).endSlotRequest_sameRuns b
      exact ⟨((hsame _).run b).trans hrun, ((hsame _).pendingRun b).trans hpend⟩
    · exact ⟨hrun, hpend⟩

/-! ### The RESULT of a request that ends at the AC's word (R41, R88) -/

theorem State.resultOf_eq (s : State) (r : Request) (bus : Option Nat) (o : RunOutcome) (h : s.ms.results.length < 64) :
    s.resultOf r bus o = s.updMs fun m => { m with results := m.results ++ [r.result bus o] } := by
  simp only [State.resultOf, State.makeResult, State.updMs, if_pos h]
  rfl

/-- A DESK request of a slot has its ending, with room for the RESULT. -/
theorem State.endSlotRequest_desk {r : Request} {o : RunOutcome} (he : (s.slot b).ended = false) (hr : (s.slot b).request = some r)
    (hc : r.cls = .desk) (hroom : s.ms.results.length < 64) :
    s.endSlotRequest b (.outcome o) = (s.markEnded b).updMs fun m => { m with results := m.results ++ [r.result (some b) o] } := by
  simp only [State.endSlotRequest, he, hr, State.endRequest, hc, Bool.false_eq_true, if_false]
  exact State.resultOf_eq _ r (some b) o hroom

theorem State.endSlotRequest_of_ended (he : (s.slot b).ended = true) (e : Ending) : s.endSlotRequest b e = s := if_pos he

/-! ### RELEASE begun -/

/-- A slot as it begins to release. -/
def Slot.releasing (r : Slot) (cause : Cause) (order : Transaction) : Slot :=
  { r with state := .releasing, cause := some cause, attempt := 1, holdDue := none, order := order }

theorem State.beginRelease_slot (s : State) (hb : b ∈ slotNumbers) (cause : Cause) (k : Nat) :
    (s.beginRelease b cause).slot k = if k = b then (s.slot b).releasing cause (s.madeReady .release) else s.slot k := by
  unfold State.beginRelease
  rw [State.makeReady_slot _ hb, State.slot_updSlot, State.slot_updSlot, if_pos rfl]
  by_cases hk : k = b
  · rw [if_pos hk, if_pos hk]; rfl
  · rw [if_neg hk, if_neg hk, if_neg hk]

/-- The RELEASE begun writes slots and the DOWN port alone. -/
theorem State.beginRelease_eq (s : State) (b : Nat) (cause : Cause) :
    ∃ i sl, s.beginRelease b cause =
      { s with
        htp := { s.htp with down := { s.htp.down with insertion := i } }
        ac := { s.ac with slots := sl } } := by
  obtain ⟨i, sl, h⟩ := State.makeReady_slotOwner
    (s.updSlot b fun r => { r with state := .releasing, cause := some cause, attempt := 1, holdDue := none }) b .release
  exact ⟨i, sl, h⟩

theorem State.beginRelease_core (s : State) (b : Nat) (cause : Cause) : (s.beginRelease b cause).core = s.core := by
  obtain ⟨_, _, h⟩ := s.beginRelease_eq b cause
  rw [h]

theorem State.beginRelease_ms (s : State) (b : Nat) (cause : Cause) : (s.beginRelease b cause).ms = s.ms := by
  obtain ⟨_, _, h⟩ := s.beginRelease_eq b cause
  rw [h]

theorem State.beginRelease_up (s : State) (b : Nat) (cause : Cause) : (s.beginRelease b cause).htp.up = s.htp.up := by
  obtain ⟨_, _, h⟩ := s.beginRelease_eq b cause
  rw [h]

theorem State.beginRelease_queue (s : State) (b : Nat) (cause : Cause) : (s.beginRelease b cause).ac.queue = s.ac.queue := by
  obtain ⟨_, _, h⟩ := s.beginRelease_eq b cause
  rw [h]

theorem State.beginRelease_settled (hs : s.settled) (b : Nat) (cause : Cause) : (s.beginRelease b cause).settled := by
  obtain ⟨_, _, h⟩ := s.beginRelease_eq b cause
  rw [h]
  exact hs

/-- A slot's request ends and the slot begins to release. -/
theorem State.Ended.release_slot (h : State.Ended b s t) (hb : b ∈ slotNumbers) (cause : Cause) (k : Nat) :
    ∃ e, (t.beginRelease b cause).slot k =
      if k = b then { (s.slot b).releasing cause (s.madeReady .release) with ended := e } else s.slot k := by
  have hready : t.madeReady .release = s.madeReady .release := by unfold State.madeReady; rw [h.htp]
  obtain ⟨e, he⟩ := h.owner
  refine ⟨e, ?_⟩
  rw [t.beginRelease_slot hb, hready, he]
  by_cases hk : k = b
  · rw [if_pos hk, if_pos hk]; rfl
  · rw [if_neg hk, if_neg hk, h.other k hk]

/-! ### A set that is not READY -/

/-- Between two moments nothing is sent to a set and its state, its failures and its probe timer stand. -/
structure TestSet.Unsent (t u : TestSet) : Prop where
  state : u.state = t.state
  stream : u.stream = t.stream
  failures : u.failures = t.failures
  probeDue : u.probeDue = t.probeDue
  msgs : u.sending.map (·.msg) = t.sending.map (·.msg)

theorem TestSet.Unsent.refl (t : TestSet) : TestSet.Unsent t t := ⟨rfl, rfl, rfl, rfl, rfl⟩

theorem TestSet.Unsent.trans {t u v : TestSet} (h : TestSet.Unsent t u) (k : TestSet.Unsent u v) : TestSet.Unsent t v :=
  ⟨k.state.trans h.state, k.stream.trans h.stream, k.failures.trans h.failures, k.probeDue.trans h.probeDue, k.msgs.trans h.msgs⟩

theorem TestSet.Unsent.of_sansTicket {t u : TestSet} (h : u.sansTicket = t.sansTicket) : TestSet.Unsent t u :=
  ⟨(congrArg TestSet.state h :), (congrArg TestSet.stream h :), (congrArg TestSet.failures h :), (congrArg TestSet.probeDue h :),
    (congrArg (fun v : TestSet => v.sending.map (·.msg)) h :)⟩

@[simp] theorem LinkFrame.untime_msg (f : LinkFrame) (identify : Bool) : (f.untime identify).msg = f.msg := by
  unfold LinkFrame.untime
  split <;> rfl

theorem LinkFrame.untime_msgs (fs : List LinkFrame) (identify : Bool) : (fs.map (·.untime identify)).map (·.msg) = fs.map (·.msg) := by
  rw [List.map_map]
  exact List.map_congr_left fun f _ => f.untime_msg identify

theorem TestSet.stopped_unsent (t : TestSet) : TestSet.Unsent t t.stopped := ⟨rfl, rfl, rfl, rfl, LinkFrame.untime_msgs t.sending false⟩

theorem State.restSource_testSet_of_ne (h : (s.testSet b).state ≠ .ready) : s.restSource b = s.stopStepTimers b := by
  have hstate : ((s.stopStepTimers b).testSet b).state = (s.testSet b).state := by
    rw [State.stopStepTimers_testSet, if_pos rfl]; rfl
  exact if_neg (hstate ▸ h)

theorem State.runResult_core (s : State) (b : Nat) (r : Request) (x : Run) (o : RunOutcome) (f : Option FaultClass) :
    (s.runResult b r x o f).core = s.core := by
  rcases s.runResult_cases b r x o f with ⟨_, he⟩ | he
  · rw [he]; rfl
  · rw [he]

/-- Closing a run sends nothing to a set that is not READY (R82). -/
theorem State.closeRun_unsent (h : (s.testSet b).state ≠ .ready) (o : RunOutcome) :
    TestSet.Unsent (s.testSet b) ((s.closeRun b o).testSet b) := by
  unfold State.closeRun
  split
  · rw [State.restSource_testSet_of_ne h]
    have hstop : TestSet.Unsent (s.testSet b) ((s.stopStepTimers b).testSet b) := by
      rw [State.stopStepTimers_testSet, if_pos rfl]
      exact TestSet.stopped_unsent _
    refine hstop.trans (.of_sansTicket ?_)
    show (Core.testSet (State.runResult _ _ _ _ _ _).core b).sansTicket = _
    rw [State.runResult_core]
    exact (Core.handOver_subjects _ _ _ _ _ _).testSet b
  · exact .refl _

theorem State.endRunEarly_unsent (h : (s.testSet b).state ≠ .ready) (o : RunOutcome) :
    TestSet.Unsent (s.testSet b) ((s.endRunEarly b o).testSet b) := by
  unfold State.endRunEarly
  dsimp only
  split
  · exact State.closeRun_unsent (s := s.setPendingRun b none) h o
  · exact .refl _

theorem State.returnRetest_unsent (s : State) (r : Request) (p : Bool) (n : Nat) :
    ((s.returnRetest r p).testSet n).sansTicket = (s.testSet n).sansTicket := by
  unfold State.returnRetest
  split
  · split <;> rfl
  · split <;> rfl
  · exact (Core.retestReturned_work (.refl s.core) r p).testSet n
  · exact (Core.retestReturned_work (.refl s.core) r p).testSet n
  · rfl

theorem State.endRequest_unsent (s : State) (r : Request) (bus : Option Nat) (e : Ending) (n : Nat) :
    ((s.endRequest r bus e).testSet n).sansTicket = (s.testSet n).sansTicket := by
  unfold State.endRequest
  split
  case h_4 | h_5 => exact s.returnRetest_unsent r _ n
  all_goals rfl

theorem State.endHeld_unsent (h : (s.testSet b).state ≠ .ready) (run : RunOutcome) (idle : Option RunOutcome) :
    TestSet.Unsent (s.testSet b) ((s.endHeld b run idle).testSet b) := by
  unfold State.endHeld
  split
  · exact State.endRunEarly_unsent h run
  · dsimp only
    split
    · unfold State.endSlotRequest
      repeat' split
      · exact .refl _
      · exact .refl _
      · exact .of_sansTicket (State.endRequest_unsent _ _ _ _ b)
    · exact .refl _

end Sys2Proof.Machine
end

section
/-! SUPPORT. The end of a command after a request has left the queue or a slot has gone FREE, while no retest is wanted. -/

namespace Sys2Proof.Machine

variable {s u : State} {r : Request}

/-- Nothing is owed and no departure is noted. -/
def State.paid (s : State) : State := s.updAc fun a => { a with walkDue := false, departed := false }

theorem State.walk_of_empty (h : s.ac.queue = []) : s.walk = s := by
  unfold State.walk
  rw [h]
  rfl

/-- A round with no request queued and no retest wanted. -/
theorem State.settleRounds_of_empty (h : s.noRetests) (hq : s.ac.queue = []) (n : Nat) :
    s.settleRounds (n + 1) = if s.ac.walkDue then s.paid.settleRounds n else s.departureTold := by
  have hoffer : (if s.ac.departed then s.departureTold.offerRetests s.departureTold.dueRetests else s) = s.departureTold := by
    split
    · rw [State.dueRetests_of_noRetests (s := s.departureTold) h]
      rfl
    · next hd =>
      obtain ⟨_, _, _, _, _, _, ⟨_, _, _, _, d⟩, _, _, _⟩ := s
      obtain rfl : d = false := Bool.eq_false_iff.mpr hd
      rfl
  rw [State.settleRounds]
  dsimp only
  rw [← State.departureTold, hoffer, State.walk_of_empty (s := s.departureTold.updAc fun a => { a with walkDue := false }) hq]
  rfl

/-- With no request queued and no retest wanted the AC and the TC have nothing to do. -/
theorem State.settle_of_empty (h : s.noRetests) (hq : s.ac.queue = []) : s.settle = s.paid := by
  unfold State.settle
  rw [State.settleRounds_of_empty h hq]
  split
  · rw [State.settleRounds_of_empty (s := s.paid) h hq]
    rfl
  · next hw =>
    unfold State.departureTold State.paid State.updAc
    rw [← Bool.eq_false_iff.mpr hw]

theorem State.finish_of_empty (hr : u.core.oh.ready = true) (hl : u.htp.latch = none) (hn : u.noRetests) (he : u.ac.queue = []) :
    u.finish = u.paid.refreshConditions := by
  rw [State.finish_of_ready hr hl, State.settle_of_empty hn he]

theorem State.finish_of_departure (hr : u.core.oh.ready = true) (hl : u.htp.latch = none) (hn : u.noRetests) (hw : u.ac.walkDue = false) :
    u.finish = u.departureTold.refreshConditions := by
  rw [State.finish_of_ready hr hl, State.settle_of_noRetests hn hw]

/-! ### A line that becomes NONE with nothing to offer -/

theorem State.examineLockout_none {l : Nat} (h : (s.line l).lockoutStart = none) : s.examineLockout l = s := by
  unfold State.examineLockout
  rw [h]

theorem State.lineIdle_of_rests {l : Nat} (h : (s.line l).lockoutStart = none) (hn : s.noRetests) : s.lineIdle l = s := by
  unfold State.lineIdle
  rw [State.examineLockout_none h, State.examineIdleRetest_of_noRetests hn]

/-! ### A request leaves the queue with an ending -/

theorem State.dequeue_eq (s : State) (r : Request) :
    s.dequeue r = { s with
      ac := { s.ac with queue := s.ac.queue.erase r, departed := true }
      core := s.core.updLine r.line fun l => { l with access := .none } } := rfl

/-- An ending that returns no retest marks at most the line. -/
theorem State.endRequest_lines (h : r.cls = .retest → r.reason = none) (bus : Option Nat) (e : Ending) :
    (s.endRequest r bus e).core.tc = s.core.tc
      ∧ (∃ b, (s.endRequest r bus e).line r.line = { s.line r.line with skipped := b })
      ∧ ∀ k, k ≠ r.line → (s.endRequest r bus e).line k = s.line k := by
  have hsame : s.core.tc = s.core.tc ∧ (∃ b, s.line r.line = { s.line r.line with skipped := b }) ∧ ∀ k, k ≠ r.line → s.line k = s.line k :=
    ⟨rfl, ⟨_, rfl⟩, fun _ _ => rfl⟩
  have hmarked : (s.markSkipped r.line).core.tc = s.core.tc
      ∧ (∃ b, (s.markSkipped r.line).line r.line = { s.line r.line with skipped := b })
      ∧ ∀ k, k ≠ r.line → (s.markSkipped r.line).line k = s.line k :=
    ⟨rfl, ⟨true, (s.line_updLine _ _ _).trans (if_pos rfl)⟩, fun k hk => (s.line_updLine _ _ _).trans (if_neg hk)⟩
  have hreturn (hc : r.cls = .retest) (p : Bool) : s.returnRetest r p = s := by
    unfold State.returnRetest
    rw [h hc]
  unfold State.endRequest
  split
  case h_4 _ hc | h_5 hc => rw [hreturn hc]; exact hsame
  case h_7 | h_8 | h_9 => exact hmarked
  all_goals exact hsame

/-- One request ends on its way out of the queue, and its line has nothing to offer (R24). -/
theorem State.expel_one (hc : r.cls = .retest → r.reason = none) (hn : s.noRetests) (hl : (s.line r.line).lockoutStart = none) (e : Ending) :
    s.expel [r] e = (s.dequeue r).endRequest r none e := by
  obtain ⟨htc, ⟨b, hline⟩, -⟩ := State.endRequest_lines (s := s.dequeue r) hc none e
  show ((s.dequeue r).endRequest r none e).lineIdle r.line = _
  refine State.lineIdle_of_rests ?_ ?_
  · rw [hline, State.dequeue_eq]
    exact (congrArg LineRec.lockoutStart ((s.line_updLine _ _ _).trans (if_pos rfl))).trans hl
  · unfold State.noRetests
    rw [htc]
    exact hn

end Sys2Proof.Machine
end

section
/-! PROOF of O42: the wait limit of a queued request. -/

open Sys2Proof Sys2Proof.Machine in
/-- Settles O42: the request leaves the queue, and with no retest wanted nothing follows its ending. -/
theorem waitLimitEndsTheRequest : Obligations.WaitLimitEndsTheRequest := by
  intro l r due s hq hfind hwait hdue htickets hlock hreason
  have hline : r.line = l.val := by simpa using List.find?_some hfind
  have hn : s.noRetests := fun k hk => absurd (htickets ▸ hk) List.not_mem_nil
  have hc : r.cls = .retest → r.reason = none := fun _ => hreason
  have hexpel : s.waitExpires l.val = (s.dequeue r).endRequest r none (.outcome .waitExpired) := by
    unfold State.waitExpires
    simp only [hfind, hwait, State.due, decide_eq_true hdue, if_true]
    exact State.expel_one hc hn (hline ▸ hlock) _
  obtain ⟨htc, ⟨b, hskip⟩, hother⟩ := State.endRequest_lines (s := s.dequeue r) hc none (.outcome .waitExpired)
  have hwork := State.endRequest_runWork (.refl (s.dequeue r)) r none (.outcome .waitExpired)
  have hcommand : exec (.waitExpiry l) s = .next (s.waitExpires l.val).finish := State.command_of_live hq.live _
  have hnone : ((s.dequeue r).endRequest r none (.outcome .waitExpired)).noRetests := by
    unfold State.noRetests
    rw [htc]
    exact hn
  have hend : ((s.dequeue r).endRequest r none (.outcome .waitExpired)).ms =
      if r.cls = .desk then ((s.dequeue r).resultOf r none .waitExpired).ms else s.ms := by
    have hreturn : (s.dequeue r).returnRetest r false = s.dequeue r := by
      unfold State.returnRetest
      rw [hreason]
    cases hcls : r.cls with
    | desk => simp only [State.endRequest, hcls, if_true]
    | retest => simp only [State.endRequest, hcls, hreturn, reduceCtorEq, if_false]; rfl
    | routine => simp only [State.endRequest, hcls, reduceCtorEq, if_false]; rfl
  have hmark : r.cls = .routine → ((s.dequeue r).endRequest r none (.outcome .waitExpired)).line r.line =
      { (s.dequeue r).line r.line with skipped := true } := fun hcls => by
    simp only [State.endRequest, hcls, State.markSkipped, State.line_updLine, if_true]
  have hk : State.Kept s ((s.dequeue r).endRequest r none (.outcome .waitExpired)) :=
    State.endRequest_kept (State.dequeue_kept (.refl s) r) r none _
  rw [hexpel, State.finish_of_departure (hk.core.oh.ready.trans hq.ready) (hk.latch.trans hq.latch) hnone ((congrArg Ac.walkDue hwork.ac).trans hq.settled.1)] at hcommand
  generalize (s.dequeue r).endRequest r none (.outcome .waitExpired) = v at *
  have haccess (k : Nat) : (s.dequeue r).line k = if k = r.line then { s.line r.line with access := .none } else s.line k :=
    s.line_updLine _ _ _
  refine ⟨_, hcommand, congrArg Ac.queue hwork.ac, ?_, ?_, fun k hkl => ?_, fun hcls => ⟨?_, ?_⟩, fun hcls hroom => ?_,
    ?_, hwork.htp, ?_⟩
  · show v.ac.slots = s.ac.slots
    rw [hwork.ac]
    rfl
  · show (v.line l.val).access = .none
    rw [← hline, hskip, haccess, if_pos rfl]
  · show v.line k = s.line k
    rw [hother k (hline ▸ hkl), haccess, if_neg (hline ▸ hkl)]
  · show (v.line l.val).skipped = true
    rw [← hline, hmark hcls]
  · show v.ms = s.ms
    rw [hend, if_neg (by simp [hcls])]
  · show v.ms = _
    rw [hend, if_pos hcls, State.resultOf_eq (s.dequeue r) r none .waitExpired hroom, ← hline, ← hcls]
    rfl
  · obtain ⟨_, _, rfl⟩ := hwork
    rfl
  · obtain ⟨_, _, rfl⟩ := hwork
    rfl
end

section
/-! PROOF of O41: the hold limit of a HELD slot. -/

open Sys2Proof Sys2Proof.Machine in
/-- Settles O41: the request of the slot ends, and then the slot releases. -/
theorem holdLimitReleasesTheSlot : Obligations.HoldLimitReleasesTheSlot := by
  intro b due s hq hheld hhold hdue
  have hb : b.val ∈ slotNumbers := by simp only [slotNumbers, List.mem_cons, List.not_mem_nil, or_false]; omega
  have hended := s.endHeld_ended b.val .abortedHold (some .abortedHold)
  have hexec : exec (.holdExpiry b) s = .next (s.holdEnds b.val).refreshConditions := by
    have hdue' : s.due (s.slot b.val).holdDue = true := by rw [hhold]; exact decide_eq_true hdue
    refine (State.command_of_live hq.live _).trans ?_
    rw [if_pos ⟨hheld, hdue'⟩]
    exact congrArg _ (State.finish_of_kept hq (State.holdEnds_kept (.refl s) b.val) (State.beginRelease_settled (hended.settled hq.settled) _ _))
  have hruns := s.endHeld_runs b.val .abortedHold (some .abortedHold)
  have hms : (s.holdEnds b.val).ms = (s.endHeld b.val .abortedHold (some .abortedHold)).ms := State.beginRelease_ms ..
  obtain ⟨e, hslot⟩ := hended.release_slot hb .holdExpired b.val
  rw [if_pos rfl] at hslot
  have hother (k : Nat) (hk : k ≠ b.val) : (s.holdEnds b.val).slot k = s.slot k := by
    obtain ⟨_, h⟩ := hended.release_slot hb .holdExpired k
    exact h.trans (if_neg hk)
  refine ⟨_, hexec, congrArg Slot.state hslot, congrArg Slot.cause hslot, congrArg Slot.attempt hslot, congrArg Slot.holdDue hslot, ?_, ?_,
    congrArg Slot.order hslot, hother, (State.beginRelease_queue ..).trans hended.queue, fun r hrun he hr hc hroom => ?_⟩
  · show (s.holdEnds b.val).run b.val = none
    unfold State.run
    rw [hms]
    exact hruns.1
  · show (s.holdEnds b.val).pendingRun b.val = none
    unfold State.pendingRun
    rw [hms]
    exact hruns.2
  · show (s.holdEnds b.val).ms.results = _
    have hidle : s.endHeld b.val .abortedHold (some .abortedHold) =
        (s.setPendingRun b.val none).endSlotRequest b.val (.outcome .abortedHold) := by
      unfold State.endHeld State.running
      rw [hrun]
      rfl
    rw [hms, hidle, State.endSlotRequest_desk (s := s.setPendingRun b.val none) he hr hc hroom, ← hc]
    rfl
end

section
/-! SUPPORT. A test set enumerated, probed, turned off and lost. -/

namespace Sys2Proof.Machine

variable {s t u : State}

theorem mem_slotNumbers {n : Nat} : n ∈ slotNumbers ↔ n < 4 := by
  simp only [slotNumbers, List.mem_cons, List.not_mem_nil, or_false]
  omega

/-! ### The record of a set -/

/-- A set whose answer timer is stopped. -/
def TestSet.unanswering (t : TestSet) : TestSet := { t with answerDue := none, sending := t.sending.map (·.untime true) }

/-- A set that has been sent STREAM on and IDENTIFY. -/
def TestSet.asked (t : TestSet) : TestSet :=
  { t with
    stream := true, expected := 0
    sending := t.sending ++ [{ msg := .stream true, timed := false }] ++ [{ msg := .identify, timed := true }] }

/-- A set as it enters enumeration (R53). -/
def TestSet.enumerating (t : TestSet) : TestSet :=
  { { t.unanswering with state := .probing, failures := 0, samplesSeen := false, probeDue := none }.asked with attempt := 1 }

/-- A set put into DISABLED (R66). -/
def TestSet.disabled (t : TestSet) : TestSet :=
  { t.stopped.unanswering with state := .disabled, attempt := 0, samplesSeen := false, failures := 0, probeDue := none }.turnedOff

theorem TestSet.unanswering_msgs (t : TestSet) : t.unanswering.sending.map (·.msg) = t.sending.map (·.msg) :=
  LinkFrame.untime_msgs t.sending true

theorem TestSet.asked_msgs (t : TestSet) : t.asked.sending.map (·.msg) = t.sending.map (·.msg) ++ [.stream true, .identify] := by
  simp [TestSet.asked]

theorem TestSet.enumerating_msgs (t : TestSet) :
    t.enumerating.sending.map (·.msg) = t.sending.map (·.msg) ++ [.stream true, .identify] := by
  rw [← t.unanswering_msgs]
  exact TestSet.asked_msgs _

theorem TestSet.turnedOff_msgs (t : TestSet) :
    t.turnedOff.sending.map (·.msg) = t.sending.map (·.msg) ++ [.source (nextTag t.tag) .tg .off 0 0 .low .dc, .stream false] := by
  simp [TestSet.turnedOff]

theorem TestSet.disabled_msgs (t : TestSet) :
    t.disabled.sending.map (·.msg) = t.sending.map (·.msg) ++ [.source (nextTag t.tag) .tg .off 0 0 .low .dc, .stream false] := by
  have hstop : t.stopped.unanswering.sending.map (·.msg) = t.sending.map (·.msg) :=
    t.stopped.unanswering_msgs.trans t.stopped_unsent.msgs
  rw [← hstop]
  exact TestSet.turnedOff_msgs _

/-! ### The set in the state -/

/-- Only the record of set n differs, and it is now r. -/
def State.SetIs (s t : State) (n : Nat) (r : TestSet) : Prop :=
  State.SetOnly s t ∧ ∀ k, t.testSet k = if k = n then r else s.testSet k

theorem State.updTestSet_setIs (s : State) (n : Nat) (f : TestSet → TestSet) : State.SetIs s (s.updTestSet n f) n (f (s.testSet n)) :=
  ⟨⟨_, rfl⟩, fun k => s.testSet_updTestSet n k f⟩

theorem State.SetIs.then {n : Nat} {r : TestSet} (h : State.SetIs s t n r) (f : TestSet → TestSet) :
    State.SetIs s (t.updTestSet n f) n (f r) := by
  refine ⟨h.1.updTestSet n f, fun k => ?_⟩
  rw [State.testSet_updTestSet, h.2 n, h.2 k, if_pos rfl]
  split <;> rfl

theorem State.SetIs.self {n : Nat} {r : TestSet} (h : State.SetIs s t n r) : t.testSet n = r := (h.2 n).trans (if_pos rfl)

/-- STREAM on and IDENTIFY sent. -/
theorem State.SetIs.ask {n : Nat} {r : TestSet} (h : State.SetIs s t n r) :
    State.SetIs s ((t.sendStream n true).sendLink n .identify true) n r.asked :=
  ((h.then _).then _).then _

/-- SOURCE OFF and STREAM off sent. -/
theorem State.SetIs.turnOff {n : Nat} {r : TestSet} (h : State.SetIs s t n r) :
    State.SetIs s ((t.sourceOff n).sendStream n false) n r.turnedOff := by
  refine ⟨(((h.1.updTestSet _ _).updTestSet _ _).updTestSet _ _).updTestSet _ _, fun k => ?_⟩
  rw [State.turnOff_testSet, h.2 n, h.2 k, if_pos rfl]
  split <;> rfl

theorem State.enumerate_setIs (s : State) (n : Nat) : State.SetIs s (s.enumerate n) n (s.testSet n).enumerating :=
  (((s.updTestSet_setIs n _).then _).ask).then _

theorem State.probeSet_setIs (s : State) (n : Nat) :
    State.SetIs s (s.probeSet n) n { (s.testSet n).asked with attempt := 1, probeDue := some (s.core.timeMs + 5000) } :=
  (State.SetIs.ask ⟨.refl s, fun k => by split <;> simp_all⟩).then _

/-- A set that is not DISABLED is turned off, before its access is told (R66). -/
def State.setDisabled (s : State) (n : Nat) : State :=
  let s := ((s.stopStepTimers n).stopAnswerTimer n).updTestSet n fun t =>
    { t with state := .disabled, attempt := 0, samplesSeen := false, failures := 0, probeDue := none }
  (s.sourceOff n).sendStream n false

theorem State.setDisabled_setIs (s : State) (n : Nat) : State.SetIs s (s.setDisabled n) n (s.testSet n).disabled :=
  (((s.updTestSet_setIs n _).then _).then _).turnOff

theorem State.disableSet_eq {n : Nat} (h : (s.testSet n).state ≠ .disabled) :
    s.disableSet n = if (s.testSet n).state = .ready then (s.setDisabled n).setLost n else s.setDisabled n := if_neg h

/-! ### The access of a lost set (R47) -/

theorem State.setLost_idle {b : Nat} (h : (s.slot b).state ≠ .held) : s.setLost b = s := if_neg h

/-- What a HELD access on a lost set comes to. -/
structure State.SetLost (s t : State) (b : Nat) : Prop where
  slot : (t.slot b).state = .releasing ∧ (t.slot b).cause = some .equipment
  run : t.run b = none
  testSet : TestSet.Unsent (s.testSet b) (t.testSet b)
  up : t.htp.up = s.htp.up
  settled : s.settled → t.settled

theorem State.setLost_held {b : Nat} (hb : b ∈ slotNumbers) (h : (s.slot b).state = .held) (hset : (s.testSet b).state ≠ .ready) :
    State.SetLost s (s.setLost b) b := by
  have he : s.setLost b = (s.endHeld b .equipment (some .equipment)).beginRelease b .equipment := if_pos h
  have hended := s.endHeld_ended b .equipment (some .equipment)
  obtain ⟨_, hslot⟩ := hended.release_slot hb .equipment b
  rw [if_pos rfl] at hslot
  rw [he]
  refine ⟨⟨congrArg Slot.state hslot, congrArg Slot.cause hslot⟩, ?_, ?_, ?_, fun hs => State.beginRelease_settled (hended.settled hs) _ _⟩
  · unfold State.run
    rw [State.beginRelease_ms]
    exact (s.endHeld_runs b .equipment (some .equipment)).1
  · unfold State.testSet
    rw [State.beginRelease_core]
    exact State.endHeld_unsent hset .equipment (some .equipment)
  · rw [State.beginRelease_up, hended.htp]

end Sys2Proof.Machine
end

section
/-! PROOF of O35: test sets enabled and disabled. -/

namespace Sys2Proof.Machine

variable {s : State} {n : Nat}

/-- TESTSET ENABLE of a set that is enumerated. -/
theorem State.enableSet_enumerates (h : (s.testSet n).state = .disabled ∨ (s.testSet n).state = .absent ∨ (s.testSet n).state = .silent) :
    s.enableSet n = s.enumerate n := by
  unfold State.enableSet
  rcases h with h | h | h <;> rw [h]

/-- TESTSET ENABLE of a set that is left alone. -/
theorem State.enableSet_same (h : (s.testSet n).state = .ready ∨ (s.testSet n).state = .probing) : s.enableSet n = s := by
  unfold State.enableSet
  rcases h with h | h <;> rw [h]

/-- An order that is answered first and then does work that keeps the part. -/
theorem State.orderCommand_of_answered (ht : s.Takes) {i : Instr} {code ref : Byte} {args : Octets} (he : encodeOrder i = code :: ref :: args)
    {judge work : State → State} {a : Answer} {d : Octets} (hj : judge s = work (s.answer i a d))
    (hk : ∀ u, State.Kept u (work u)) (hs : (work (s.withUpFrame (s.answerFrame i a d))).settled) :
    s.orderCommand i judge = .next (work (s.withUpFrame (s.answerFrame i a d))).refreshConditions := by
  rw [State.orderCommand_of_takes ht, hj, State.answer_eq s he]
  exact congrArg _ (State.finish_of_kept (ht.quiet.withUpFrame _) (hk _) hs)

/-- TESTSET DISABLE of a set that is not DISABLED yet: a HELD access is told where the set was READY. -/
theorem State.disableSet_cases (h : (s.testSet n).state ≠ .disabled) :
    (s.disableSet n = (s.setDisabled n).setLost n ∧ (s.slot n).state = .held ∧ (s.testSet n).state = .ready)
      ∨ (s.disableSet n = s.setDisabled n ∧ ¬((s.slot n).state = .held ∧ (s.testSet n).state = .ready)) := by
  have hslot : (s.setDisabled n).slot n = s.slot n := by
    obtain ⟨⟨_, hw⟩, -⟩ := s.setDisabled_setIs n
    rw [hw]
    rfl
  rw [State.disableSet_eq h]
  split
  · next hready =>
    by_cases hheld : (s.slot n).state = .held
    · exact .inl ⟨rfl, hheld, hready⟩
    · exact .inr ⟨State.setLost_idle (by rwa [hslot]), fun hand => hheld hand.1⟩
  · next hready => exact .inr ⟨rfl, fun hand => hready hand.2⟩

end Sys2Proof.Machine

open Sys2Proof Sys2Proof.Machine in
/-- Settles O35: ENABLE enumerates the set or leaves it alone, and DISABLE turns it off before its access is told. -/
theorem testSetsAreEnabledAndDisabled : Obligations.TestSetsAreEnabledAndDisabled := by
  intro ref set s ht
  refine ⟨fun hset => ⟨State.orderCommand_of_answer ht rfl (if_pos hset), State.orderCommand_of_answer ht rfl (if_pos hset)⟩, fun hset => ?_⟩
  have hjudge (x y : State) : (if 3 < set.toNat then x else y) = y := if_neg (Nat.not_lt.mpr hset)
  refine ⟨fun hst => State.orderCommand_of_answer ht rfl ((hjudge _ _).trans (State.enableSet_same hst)), fun hst => ?_,
    fun hst => State.orderCommand_of_answer ht rfl ((hjudge _ _).trans (if_pos hst)), fun hst => ?_⟩
  · generalize hv : s.withUpFrame (s.answerFrame (.testsetEnable ref set) .accepted []) = v
    have hvset (k : Nat) : v.testSet k = s.testSet k := hv ▸ rfl
    obtain ⟨honly, hsets⟩ := v.enumerate_setIs set.toNat
    have henable : v.enableSet set.toNat = v.enumerate set.toNat := State.enableSet_enumerates (by rwa [hvset])
    have hs : (v.enableSet set.toNat).settled := by
      obtain ⟨_, he⟩ := honly
      rw [henable, he, ← hv]
      exact ht.quiet.settled
    have hexec : exec (.testsetEnable ref set) s = .next (v.enableSet set.toNat).refreshConditions := by
      subst hv
      exact State.orderCommand_of_answered ht rfl (work := (State.enableSet · set.toNat)) (hjudge _ _)
        (fun u => State.enableSet_kept (.refl u) _) hs
    rw [henable] at hexec
    have hself : (v.enumerate set.toNat).testSet set.toNat = (s.testSet set.toNat).enumerating := by
      rw [hsets, if_pos rfl, hvset]
    generalize v.enumerate set.toNat = w at *
    refine ⟨_, hexec, (congrArg TestSet.state hself :), (congrArg TestSet.attempt hself :), (congrArg TestSet.failures hself :),
      (congrArg TestSet.stream hself :), ?_, fun k hk => ((hsets k).trans (if_neg hk)).trans (hvset k), ?_⟩
    · rw [← TestSet.enumerating_msgs, ← hself]
      rfl
    · obtain ⟨_, he⟩ := honly
      rw [he, ← hv]
      exact ⟨rfl, rfl, rfl, rfl⟩
  · generalize hv : s.withUpFrame (s.answerFrame (.testsetDisable ref set) .accepted []) = v
    have hvset (k : Nat) : v.testSet k = s.testSet k := hv ▸ rfl
    have hvslot (k : Nat) : v.slot k = s.slot k := hv ▸ rfl
    have hvs : v.settled := hv ▸ ht.quiet.settled
    have hvup : v.htp.up.insertion = s.htp.up.insertion ++ [s.answerFrame (.testsetDisable ref set) .accepted []] := hv ▸ rfl
    have hset' := v.setDisabled_setIs set.toNat
    have hdisable := State.disableSet_cases (s := v) (n := set.toNat) (by rwa [hvset])
    have hexec (hs : (v.disableSet set.toNat).settled) :
        exec (.testsetDisable ref set) s = .next (v.disableSet set.toNat).refreshConditions := by
      subst hv
      exact State.orderCommand_of_answered ht rfl (work := (State.disableSet · set.toNat)) (hjudge _ _)
        (fun u => State.disableSet_kept (.refl u) _) hs
    generalize v.setDisabled set.toNat = w at *
    generalize v.disableSet set.toNat = u at *
    have hself := hset'.self
    rw [hvset] at hself
    obtain ⟨⟨_, hw⟩, hsets⟩ := hset'
    have hws : w.settled := by rw [hw]; exact hvs
    rcases hdisable with ⟨rfl, hheld, hready⟩ | ⟨rfl, hnot⟩
    · have hlost := State.setLost_held (s := w) (b := set.toNat) (mem_slotNumbers.mpr (by omega)) (by rw [hw]; exact hheld) (by rw [hself]; exact nofun)
      refine ⟨_, hexec (hlost.settled hws), hlost.testSet.state.trans (congrArg TestSet.state hself :),
        hlost.testSet.stream.trans (congrArg TestSet.stream hself :), fun _ _ => ⟨hlost.slot.1, hlost.slot.2, hlost.run⟩, fun hor => ?_, ?_⟩
      · rw [hvslot] at hheld
        rw [hvset] at hready
        exact absurd ⟨hheld, hready⟩ (not_and_or.mpr hor)
      · refine (congrArg OutPort.insertion hlost.up).trans ?_
        rw [hw]
        exact hvup
    · refine ⟨_, hexec hws, (congrArg TestSet.state hself :), (congrArg TestSet.stream hself :), fun hheld hready => ?_, fun _ => ?_, ?_⟩
      · rw [← hvslot] at hheld
        rw [← hvset] at hready
        exact absurd ⟨hheld, hready⟩ hnot
      · refine ⟨?_, ?_, ?_, fun k hk => ((hsets k).trans (if_neg hk)).trans (hvset k), nextTag (s.testSet set.toNat).tag, ?_⟩
        · rw [hw, ← hv]; rfl
        · rw [hw, ← hv]; rfl
        · rw [hw, ← hv]; rfl
        · exact (congrArg (fun r : TestSet => r.sending.map (·.msg)) hself).trans (TestSet.disabled_msgs _)
      · rw [hw]
        exact hvup
end

section
/-! SUPPORT. A slot that goes FREE, and the line that has become free. -/

namespace Sys2Proof.Machine

variable {s t u : State} {l b : Nat}

/-! ### The held orders of a line (R176) -/

theorem State.releaseHeld_eq (s : State) (l : Nat) :
    ∃ strict, s.releaseHeld l =
      { s with
        htp := { s.htp with down := { s.htp.down with
          pass := s.htp.down.pass ++ (s.cg.held.filter fun h => decide (h.line = l)).map (·.frame), strict := strict } }
        cg := { s.cg with held := s.cg.held.filter fun h => decide (h.line ≠ l) } } := by
  have hfold (hs : List HeldOrder) (s : State) :
      ∃ strict, hs.foldl (fun s h => if h.line = l then s.passDown h.frame else s) s =
        { s with htp := { s.htp with down := { s.htp.down with
          pass := s.htp.down.pass ++ (hs.filter fun h => decide (h.line = l)).map (·.frame), strict := strict } } } := by
    induction hs generalizing s with
    | nil => exact ⟨s.htp.down.strict, by simp⟩
    | cons h hs ih =>
      by_cases hl : h.line = l
      · obtain ⟨strict, he⟩ := ih (s.passDown h.frame)
        refine ⟨strict, ?_⟩
        rw [List.foldl_cons, if_pos hl, he, List.filter_cons_of_pos (by simpa using hl), List.map_cons, List.append_cons]
        rfl
      · obtain ⟨strict, he⟩ := ih s
        refine ⟨strict, ?_⟩
        rw [List.foldl_cons, if_neg hl, he, List.filter_cons_of_neg (by simpa using hl)]
  obtain ⟨strict, he⟩ := hfold s.cg.held s
  refine ⟨strict, ?_⟩
  unfold State.releaseHeld
  rw [he]
  rfl

/-! ### A line with nothing to offer when its access ends -/

/-- No LOCKOUT retest of the line is due, no re-offer is owed, and the hit of a deferred report stays below the threshold. -/
structure State.LineCalm (s : State) (l : Nat) : Prop where
  lockout : ∀ start, (s.line l).lockoutStart = some start → s.now < start + s.params.lockoutDelay
  reOffer : (s.line l).reOffer = false
  hits : (s.line l).deferred ≠ none → (s.line l).hits + 1 < s.params.hitsThreshold
  delay : 0 < s.params.lockoutDelay

theorem State.LineRests.calm (h : s.LineRests l) : s.LineCalm l where
  lockout _ hs := nomatch h.lockout.symm.trans hs
  reOffer := h.reOffer
  hits _ := h.hits
  delay := h.delay

/-- The line's record bears on it by four fields, and the moment and the parameters by themselves. -/
theorem State.LineCalm.of_same {k : Nat} (h : s.LineCalm l) (hn : t.now = s.now) (hp : t.params = s.params)
    (hl : (t.line k).lockoutStart = (s.line l).lockoutStart) (hr : (t.line k).reOffer = (s.line l).reOffer)
    (hd : (t.line k).deferred = (s.line l).deferred) (hh : (t.line k).hits = (s.line l).hits) : t.LineCalm k where
  lockout start hs := by
    rw [hn, hp]
    exact h.lockout start (hl ▸ hs)
  reOffer := hr.trans h.reOffer
  hits := by
    rw [hd, hh, hp]
    exact h.hits
  delay := hp ▸ h.delay

theorem State.examineLockout_calm (h : s.LineCalm l) : s.examineLockout l = s := by
  unfold State.examineLockout
  split
  · rfl
  · next t ht =>
    have hnow := h.lockout t ht
    exact if_neg fun hand => by omega

theorem State.examineReOffer_calm (h : s.LineCalm l) : s.examineReOffer l = s :=
  State.examineReOffer_none fun hand => Bool.false_ne_true (h.reOffer.symm.trans hand.1)

/-- The line's access is over: its deferred report has been applied and nothing was offered (R11). -/
structure State.LineOver (l : Nat) (s t : State) : Prop where
  rest : ∃ lines walk, t = { s with core := { s.core with lines := lines }, ac := { s.ac with walkDue := walk } }
  access : (t.line l).access = (s.line l).access
  deferred : (t.line l).deferred = none
  callState : (t.line l).callState = (s.line l).deferred.getD (s.line l).callState
  other : ∀ k, k ≠ l → t.line k = s.line k
  calm : t.LineCalm l

theorem LineRec.hit_hits_le (r : LineRec) (now window : Nat) : (r.hit now window).hits ≤ r.hits + 1 := by
  unfold LineRec.hit
  split
  · split
    · exact Nat.le_add_left 1 r.hits
    · exact Nat.le_refl _
  · exact Nat.le_add_left 1 r.hits

theorem LineRec.hit_deferred (r : LineRec) (now window : Nat) : (r.hit now window).deferred = r.deferred := by
  unfold LineRec.hit
  repeat' split
  all_goals rfl

/-- Of another line nothing differs. -/
theorem State.reportTaken_other {st : CallState} (h : s.hitsAfter l < s.params.hitsThreshold) {k : Nat} (hk : k ≠ l) :
    (s.reportTaken l st).line k = s.line k := by
  unfold State.reportTaken
  rw [State.examineHits_below ((s.counted_hits l st).trans_lt h), State.line_updLine, if_neg hk, State.countHit_eq, State.line_updLine,
    if_neg hk, State.line_updLine, if_neg hk]

/-- The line's record after a report that stays below the threshold. -/
theorem State.reportTaken_fields {st : CallState} (h : s.hitsAfter l < s.params.hitsThreshold) :
    ((s.reportTaken l st).line l).deferred = (s.line l).deferred
      ∧ ((s.reportTaken l st).line l).lockoutStart =
        if st = .lockout then some s.now else if (s.line l).callState = .lockout then none else (s.line l).lockoutStart := by
  have hl := s.reportTaken_line l st
  dsimp only at hl
  rw [if_neg (show ¬ s.params.hitsThreshold ≤ ((s.line l).hit s.now s.params.hitsWindow).hits from Nat.not_le.mpr h)] at hl
  refine ⟨(congrArg LineRec.deferred hl :).trans ?_, (congrArg LineRec.lockoutStart hl :).trans ?_⟩
  · obtain ⟨w, hw⟩ := LineRec.lockoutAt_eq ({ (s.line l).hit s.now s.params.hitsWindow with callState := st } : LineRec) st
      (s.line l).callState s.now
    rw [hw]
    exact LineRec.hit_deferred ..
  · refine (LineRec.lockoutAt_lockoutStart ..).trans ?_
    rw [← LineRec.hit_lockoutStart (s.line l) s.now s.params.hitsWindow]

/-- A report that comes to a line with none deferred and nothing to offer. -/
theorem State.applyReport_calm (hc : s.LineCalm l) (hd : (s.line l).deferred = none) (hh : (s.line l).hits + 1 < s.params.hitsThreshold)
    (hn : s.noRetests) (st : CallState) :
    (∃ lines walk, s.applyReport l st = { s with core := { s.core with lines := lines }, ac := { s.ac with walkDue := walk } })
      ∧ ((s.applyReport l st).line l).access = (s.line l).access ∧ ((s.applyReport l st).line l).deferred = none
      ∧ ((s.applyReport l st).line l).callState = st ∧ (∀ k, k ≠ l → (s.applyReport l st).line k = s.line k)
      ∧ (s.applyReport l st).LineCalm l := by
  by_cases hst : (s.line l).callState = st
  · rw [State.applyReport_same hst]
    exact ⟨⟨_, _, rfl⟩, rfl, hd, hst, fun _ _ => rfl, hc⟩
  · have hbelow : s.hitsAfter l < s.params.hitsThreshold := Nat.lt_of_le_of_lt (LineRec.hit_hits_le ..) hh
    have hnoted := State.reportTaken_below (st := st) hbelow
    obtain ⟨hstate, hreOffer⟩ := s.reportTaken_record l st
    obtain ⟨hdef, hlock⟩ := State.reportTaken_fields (st := st) hbelow
    have hother := fun k => State.reportTaken_other (st := st) hbelow (k := k)
    rw [hc.reOffer, Bool.false_and] at hreOffer
    have hnone : (s.reportTaken l st).noRetests := by
      obtain ⟨_, he⟩ := hnoted.rest
      rw [he]
      exact hn
    have happly : s.applyReport l st = (s.reportTaken l st).updAc fun a => { a with walkDue := true } := by
      rw [State.applyReport_changed hst]
      split
      · rw [State.examineReOffer_none fun hand => Bool.false_ne_true (hreOffer.symm.trans hand.1), State.examineIdleRetest_of_noRetests hnone]
      · rfl
    have hnow : (s.reportTaken l st).now = s.now := by
      obtain ⟨_, he⟩ := hnoted.rest
      rw [he]
      rfl
    have hparams : (s.reportTaken l st).params = s.params := by
      obtain ⟨_, he⟩ := hnoted.rest
      rw [he]
      rfl
    rw [happly]
    refine ⟨?_, hnoted.access, hdef.trans hd, hstate, hother, ?_, hreOffer, fun h => absurd (hdef.trans hd) h, hparams ▸ hc.delay⟩
    · obtain ⟨x, he⟩ := hnoted.rest
      rw [he]
      exact ⟨x, true, rfl⟩
    · intro start hs
      show (s.reportTaken l st).now < start + (s.reportTaken l st).params.lockoutDelay
      have hs : ((s.reportTaken l st).line l).lockoutStart = some start := hs
      rw [hnow, hparams]
      rw [hlock] at hs
      split at hs
      · obtain rfl := Option.some.inj hs
        have := hc.delay
        omega
      · split at hs
        · exact nomatch hs
        · exact hc.lockout start hs

theorem State.applyDeferred_calm (hc : s.LineCalm l) (hn : s.noRetests) : State.LineOver l s (s.applyDeferred l) := by
  unfold State.applyDeferred
  cases hd : (s.line l).deferred with
  | none => exact ⟨⟨_, _, rfl⟩, rfl, hd, by rw [hd]; rfl, fun _ _ => rfl, hc⟩
  | some st =>
    have hline (k : Nat) : (s.updLine l fun r => { r with deferred := none }).line k =
        if k = l then { s.line l with deferred := none } else s.line k := s.line_updLine _ _ _
    have hself := (hline l).trans (if_pos rfl)
    have hcalm : (s.updLine l fun r => { r with deferred := none }).LineCalm l :=
      ⟨fun start hs => hc.lockout start (by rw [hself] at hs; exact hs), by rw [hself]; exact hc.reOffer,
        fun h => absurd (congrArg LineRec.deferred hself) h, hc.delay⟩
    obtain ⟨⟨_, _, hrest⟩, haccess, hdef, hstate, hother, hover⟩ := State.applyReport_calm hcalm (congrArg LineRec.deferred hself)
      (by rw [hself]; exact hc.hits (by rw [hd]; exact nofun)) hn st
    refine ⟨⟨_, _, hrest⟩, haccess.trans (congrArg LineRec.access hself :), hdef, by rw [hd]; exact hstate, fun k hk => ?_, hover⟩
    exact (hother k hk).trans ((hline k).trans (if_neg hk))

/-- The line's slot has gone FREE and nothing is offered (R11). -/
theorem State.accessOver_calm (hc : s.LineCalm l) (hn : s.noRetests) : State.LineOver l s (s.accessOver l) := by
  have hover := State.applyDeferred_calm hc hn
  have hnone : (s.applyDeferred l).noRetests := by
    obtain ⟨_, _, he⟩ := hover.rest
    rw [he]
    exact hn
  unfold State.accessOver
  rw [State.examineLockout_calm hover.calm, State.examineReOffer_calm hover.calm, State.examineIdleRetest_of_noRetests hnone]
  exact hover

/-! ### A slot goes FREE (R32) -/

/-- The quota in force once a request has left the live states (R23). -/
def State.quotaLeft (s : State) (r : Option Request) : Nat :=
  if r.map (·.cls) = some .routine ∧ s.params.routineQuota < s.ac.quotaInForce then s.ac.quotaInForce - 1 else s.ac.quotaInForce

theorem State.routineLeft_eq (s : State) (r : Option Request) :
    s.routineLeft r = { s with ac := { s.ac with quotaInForce := s.quotaLeft r } } := by
  unfold State.routineLeft State.quotaLeft
  cases r with
  | none => simp
  | some q =>
    simp only [Option.map_some, Option.some.injEq]
    split <;> rfl

theorem OwnFrame.disown_octets (f : OwnFrame) (o : AccessOwner) : (f.disown o).octets = f.octets := by
  unfold OwnFrame.disown
  split <;> rfl

/-- An order ended keeps the frames that wait. -/
theorem State.endOrder_octets (s : State) (o : AccessOwner) :
    (s.endOrder o).htp.down.insertion.map (·.octets) = s.htp.down.insertion.map (·.octets) := by
  have hdown : (s.setOrder o .idle).htp = s.htp := by cases o <;> rfl
  show ((s.setOrder o .idle).htp.down.insertion.map (·.disown o)).map (·.octets) = _
  rw [hdown, List.map_map]
  exact List.map_congr_left fun f _ => f.disown_octets o

/-- Slot b, of a line l, has gone FREE. -/
structure State.SlotFreed (b l : Nat) (s t : State) : Prop where
  rest : ∃ lines shelves insertion sending slots quota, t =
    { s with
      core := { s.core with lines := lines, shelves := shelves }
      htp := { s.htp with down := { s.htp.down with insertion := insertion, sending := sending } }
      ac := { s.ac with slots := slots, quotaInForce := quota, walkDue := true } }
  octets : t.htp.down.insertion.map (·.octets) = s.htp.down.insertion.map (·.octets)
  slot : ∀ k, t.slot k = if k = b then { (s.slot b).freed with order := .idle } else s.slot k
  line : ∀ k, t.line k = if k = l then { s.line l with access := .none } else s.line k
  shelf : ∀ k, t.shelf k = if k = shelfOf l then { s.shelf k with freePairs := min 2 ((s.shelf k).freePairs + 1) } else s.shelf k
  quota : t.ac.quotaInForce = if (s.slot b).state.live then s.quotaLeft (s.slot b).request else s.ac.quotaInForce

theorem State.slotFree_freed (hb : b ∈ slotNumbers) (hl : (s.slot b).line = some l) : State.SlotFreed b l s (s.slotFree b) := by
  obtain ⟨q, hq, hquota⟩ : ∃ q, (if (s.slot b).state.live then s.routineLeft (s.slot b).request else s) =
      { s with ac := { s.ac with quotaInForce := q } }
      ∧ q = if (s.slot b).state.live then s.quotaLeft (s.slot b).request else s.ac.quotaInForce := by
    split
    · exact ⟨_, s.routineLeft_eq _, rfl⟩
    · exact ⟨_, rfl, rfl⟩
  unfold State.slotFree
  simp only [hl, hq]
  generalize hv : ({ s with ac := { s.ac with quotaInForce := q } } : State) = v
  have honly := v.endOrder_accessOnly (slotOwner b)
  have hslot := fun k => v.endOrder_slot hb k
  have hoctets := v.endOrder_octets (slotOwner b)
  have hcore : (v.endOrder (slotOwner b)).core = v.core := by rw [slotOwner_val hb]; rfl
  have hvslot (k : Nat) : v.slot k = s.slot k := hv ▸ rfl
  have hvcore : v.core = s.core := hv ▸ rfl
  generalize v.endOrder (slotOwner b) = w at *
  refine ⟨?_, ?_, fun k => ?_, fun k => ?_, fun k => ?_, ?_⟩
  · obtain ⟨_, _, _, _, _, he⟩ := honly
    rw [he, ← hv]
    exact ⟨_, _, _, _, _, _, rfl⟩
  · exact hoctets.trans (hv ▸ rfl)
  · refine (w.slot_updSlot b k fun r => { r with state := .free, request := none, ended := false, holdDue := none, mark := none }).trans ?_
    rw [hslot, hslot, if_pos rfl, hvslot, hvslot]
    split <;> rfl
  · refine (w.line_updLine l k fun x => { x with access := .none }).trans ?_
    unfold State.line
    rw [hcore, hvcore]
  · refine (w.shelf_updShelf (shelfOf l) k fun h => { h with freePairs := min 2 (h.freePairs + 1) }).trans ?_
    unfold State.shelf
    rw [hcore, hvcore]
    split
    · next hk => rw [hk]
    · rfl
  · obtain ⟨_, _, _, _, _, he⟩ := honly
    rw [← hquota, he, ← hv]
    rfl

/-- Slot b has gone FREE, the held orders of its line l have gone down and the line's deferred report is applied. -/
structure State.AccessFreed (b l : Nat) (s t : State) : Prop where
  rest : ∃ lines shelves insertion sending strict slots quota walk, t =
    { s with
      core := { s.core with lines := lines, shelves := shelves }
      htp := { s.htp with down := { s.htp.down with
        insertion := insertion, sending := sending, strict := strict
        pass := s.htp.down.pass ++ (s.cg.held.filter fun h => decide (h.line = l)).map (·.frame) } }
      cg := { s.cg with held := s.cg.held.filter fun h => decide (h.line ≠ l) }
      ac := { s.ac with slots := slots, quotaInForce := quota, walkDue := walk } }
  octets : t.htp.down.insertion.map (·.octets) = s.htp.down.insertion.map (·.octets)
  slot : ∀ k, t.slot k = if k = b then { (s.slot b).freed with order := .idle } else s.slot k
  access : (t.line l).access = .none
  deferred : (t.line l).deferred = none
  callState : (t.line l).callState = (s.line l).deferred.getD (s.line l).callState
  other : ∀ k, k ≠ l → t.line k = s.line k
  shelf : ∀ k, t.shelf k = if k = shelfOf l then { s.shelf k with freePairs := min 2 ((s.shelf k).freePairs + 1) } else s.shelf k
  quota : t.ac.quotaInForce = if (s.slot b).state.live then s.quotaLeft (s.slot b).request else s.ac.quotaInForce

theorem State.freeSlot_freed (hb : b ∈ slotNumbers) (hl : (s.slot b).line = some l) (hc : s.LineCalm l) (hn : s.noRetests) :
    State.AccessFreed b l s (s.freeSlot b) := by
  have hfreed := State.slotFree_freed hb hl
  have hslotFree : s.freeSlot b = ((s.slotFree b).releaseHeld l).accessOver l := by
    unfold State.freeSlot
    rw [hl]
    rfl
  rw [hslotFree]
  generalize s.slotFree b = v at *
  obtain ⟨strict, hheld⟩ := v.releaseHeld_eq l
  generalize v.releaseHeld l = w at *
  have hline (k : Nat) : w.line k = v.line k := hheld ▸ rfl
  have hself : w.line l = { s.line l with access := .none } := by rw [hline, hfreed.line, if_pos rfl]
  have hcalm : w.LineCalm l := by
    refine hc.of_same ?_ ?_ (congrArg LineRec.lockoutStart hself :) (congrArg LineRec.reOffer hself :) (congrArg LineRec.deferred hself :)
      (congrArg LineRec.hits hself :)
    all_goals
      obtain ⟨_, _, _, _, _, _, he⟩ := hfreed.rest
      rw [hheld, he]
      rfl
  have hnone : w.noRetests := by
    obtain ⟨_, _, _, _, _, _, he⟩ := hfreed.rest
    rw [hheld, he]
    exact hn
  have hover := State.accessOver_calm hcalm hnone
  generalize w.accessOver l = t at *
  obtain ⟨lines, walk, ht⟩ := hover.rest
  refine ⟨?_, ?_, fun k => ?_, hover.access.trans (congrArg LineRec.access hself :), hover.deferred, ?_, fun k hk => ?_, fun k => ?_, ?_⟩
  · obtain ⟨_, _, _, _, _, _, he⟩ := hfreed.rest
    rw [ht, hheld, he]
    exact ⟨_, _, _, _, _, _, _, _, rfl⟩
  · rw [ht, hheld]
    exact hfreed.octets
  · rw [ht, hheld]
    exact hfreed.slot k
  · rw [hover.callState, hself]
  · rw [hover.other k hk, hline, hfreed.line, if_neg hk]
  · rw [ht, hheld]
    exact hfreed.shelf k
  · rw [ht, hheld]
    exact hfreed.quota

end Sys2Proof.Machine
end

section
/-! SUPPORT and PROOF of O29: RELEASE and CANCEL of scope RUN. -/

namespace Sys2Proof.Machine

variable {s t u v : State} {b : Nat} {r : Request}

/-! ### An order that does its work and is then answered -/

/-- Such an order, by the state its work leaves. -/
theorem State.orderCommand_of_worked (ht : s.Takes) {i : Instr} {code ref : Byte} {args : Octets} (he : encodeOrder i = code :: ref :: args)
    {judge : State → State} {a : Answer} {d : Octets} (hj : judge s = u.answer i a d) (hk : State.Kept s u) :
    s.orderCommand i judge = .next (u.withUpFrame (s.answerFrame i a d)).finish := by
  have hframe : u.answerFrame i a d = s.answerFrame i a d := by
    unfold State.answerFrame
    rw [hk.core.oh.station]
  rw [State.orderCommand_of_takes ht, hj, State.answer_eq u he, hframe]

/-- Work that owes nothing. -/
theorem State.finish_worked (hq : s.Quiet) (hk : State.Kept s u) (hs : u.settled) (f : OwnFrame) :
    (u.withUpFrame f).finish = (u.withUpFrame f).refreshConditions :=
  State.finish_of_settled (hk.core.oh.ready.trans hq.ready) hs (hk.latch.trans hq.latch)

/-- Work that leaves the records of the core and the states of the slots as they are. -/
theorem State.Quiet.of_core (h : s.Quiet) (hr : t.resetInput = s.resetInput) (hs : t.settled) (hl : t.htp.latch = s.htp.latch)
    (hc : t.core = s.core) (hsl : ∀ k, (t.slot k).state = (s.slot k).state) : t.Quiet where
  live := hr.trans h.live
  settled := hs
  latch := hl.trans h.latch
  ready := by rw [hc]; exact h.ready
  conditions :=
    { shelf := by rw [hc]; exact h.conditions.shelf
      testSet := by rw [hc]; exact h.conditions.testSet
      bus := by
        simp only [State.anyFaulted, hsl, hc]
        exact h.conditions.bus
      table := by rw [hc]; exact h.conditions.table }

/-! ### The access of a token -/

/-- The slot of a token is live and carries a DESK request. -/
theorem State.deskSlot_some {token : Nat} (h : s.deskSlot token = some b) :
    b ∈ slotNumbers ∧ ∀ r, (s.slot b).request = some r → r.cls = .desk := by
  refine ⟨List.mem_of_find?_eq_some h, fun r hr => ?_⟩
  have hp := List.find?_some h
  simp only [hr, Bool.and_eq_true, decide_eq_true_eq] at hp
  exact hp.2.1

theorem State.releaseToken_slot {token : Nat} (h : s.deskSlot token = some b) : s.releaseToken token = some (s.releaseSlot b) := by
  unfold State.releaseToken
  rw [h]

theorem State.cancelToken_slot {token : Nat} (h : s.deskSlot token = some b) : s.cancelToken token = some (s.cancelSlot b) := by
  unfold State.cancelToken
  rw [h]

/-- RELEASE of a live token. -/
theorem exec_release (ht : s.Takes) {ref token : Byte} (h : s.releaseToken token.toNat = some u) (hk : State.Kept s u) :
    exec (.release ref token) s = .next (u.withUpFrame (s.answerFrame (.release ref token) .accepted [])).finish := by
  refine State.orderCommand_of_worked ht rfl (a := .accepted) (d := []) ?_ hk
  rw [h]

/-- CANCEL of scope RUN of a live token. -/
theorem exec_cancelRun (ht : s.Takes) {ref token : Byte} (h : s.cancelToken token.toNat = some u) (hk : State.Kept s u) :
    exec (.cancelRun ref token) s = .next (u.withUpFrame (s.answerFrame (.cancelRun ref token) .accepted [])).finish := by
  refine State.orderCommand_of_worked ht rfl (a := .accepted) (d := []) ?_ hk
  rw [h]

/-! ### A HELD access -/

/-- A HELD access ended and releasing. -/
structure State.HeldReleased (b : Nat) (cause : Cause) (s t : State) : Prop where
  state : (t.slot b).state = .releasing
  cause : (t.slot b).cause = some cause
  attempt : (t.slot b).attempt = 1
  run : t.run b = none
  pendingRun : t.pendingRun b = none
  up : t.htp.up = s.htp.up
  other : ∀ k, k ≠ b → t.slot k = s.slot k
  settled : s.settled → t.settled
  kept : State.Kept s t

theorem State.endHeld_released (s : State) (hb : b ∈ slotNumbers) (run : RunOutcome) (idle : Option RunOutcome) (cause : Cause) :
    State.HeldReleased b cause s ((s.endHeld b run idle).beginRelease b cause) := by
  have hended := s.endHeld_ended b run idle
  obtain ⟨hrun, hpending⟩ := s.endHeld_runs b run idle
  have hslot := hended.release_slot hb cause
  obtain ⟨_, hself⟩ := hslot b
  rw [if_pos rfl] at hself
  have hms := (s.endHeld b run idle).beginRelease_ms b cause
  refine ⟨congrArg Slot.state hself, congrArg Slot.cause hself, congrArg Slot.attempt hself, ?_, ?_, ?_, fun k hk => ?_, fun hs => ?_, ?_⟩
  · unfold State.run
    rw [hms]
    exact hrun
  · unfold State.pendingRun
    rw [hms]
    exact hpending
  · rw [State.beginRelease_up, hended.htp]
  · obtain ⟨_, h⟩ := hslot k
    exact h.trans (if_neg hk)
  · exact State.beginRelease_settled (hended.settled hs) _ _
  · exact State.beginRelease_kept (State.endHeld_kept (.refl s) b run idle) b cause

/-! ### A SEIZING access -/

/-- A DESK request has had its ending, by RELEASE or with a RESULT. -/
structure State.DeskEnded (b : Nat) (s t : State) : Prop where
  rest : ∃ m sl, t = { s with ms := m, ac := { s.ac with slots := sl } }
  slot : ∀ k, t.slot k = if k = b then { s.slot b with ended := true } else s.slot k
  kept : State.Kept s t

theorem State.markEnded_deskEnded (s : State) (b : Nat) : State.DeskEnded b s (s.markEnded b) :=
  ⟨⟨_, _, rfl⟩, fun k => s.slot_updSlot b k _, State.markEnded_kept (.refl s) b⟩

theorem State.endSlotRequest_of_desk (he : (s.slot b).ended = false) (hr : (s.slot b).request = some r) (hc : r.cls = .desk) (o : RunOutcome) :
    s.endSlotRequest b (.outcome o) = (s.markEnded b).resultOf r (some b) o := by
  simp only [State.endSlotRequest, he, hr, State.endRequest, hc, Bool.false_eq_true, if_false]

theorem State.endSlotRequest_deskEnded (hr : (s.slot b).request = some r) (hc : r.cls = .desk) (o : RunOutcome) :
    State.DeskEnded b s (s.endSlotRequest b (.outcome o)) := by
  have hk := State.endSlotRequest_kept (.refl s) b (.outcome o)
  cases he : (s.slot b).ended with
  | true =>
    rw [State.endSlotRequest_of_ended he] at hk ⊢
    refine ⟨⟨_, _, rfl⟩, fun k => ?_, hk⟩
    split
    · next e => rw [e, ← he]
    · rfl
  | false =>
    rw [State.endSlotRequest_of_desk he hr hc] at hk ⊢
    exact ⟨⟨_, _, rfl⟩, fun k => s.slot_updSlot b k fun r => { r with ended := true }, hk⟩

/-- The RESULT of a DESK request that CANCEL ends (R45). -/
theorem State.endSlotRequest_result (hr : (s.slot b).request = some r) (hc : r.cls = .desk) (o : RunOutcome) :
    (s.ms.results.length < 64 → (s.slot b).ended = false →
        (s.endSlotRequest b (.outcome o)).ms = { s.ms with results := s.ms.results ++ [r.result (some b) o] })
      ∧ ((s.slot b).ended = true → (s.endSlotRequest b (.outcome o)).ms = s.ms) := by
  refine ⟨fun hroom he => ?_, fun he => by rw [State.endSlotRequest_of_ended he]⟩
  rw [State.endSlotRequest_desk he hr hc hroom]
  rfl

/-- The slot is marked, its OPERATE being sent (R44, log 30). -/
structure State.SlotMarked (b : Nat) (cause : Cause) (s t : State) : Prop where
  slot : t.slot b = { s.slot b with ended := true, mark := some ((s.slot b).mark.getD cause) }
  other : ∀ k, k ≠ b → t.slot k = s.slot k
  quiet : s.Quiet → t.Quiet
  rest : ∃ m sl, t = { s with ms := m, ac := { s.ac with slots := sl } }

theorem State.DeskEnded.markSlot (h : State.DeskEnded b s v) (cause : Cause) : State.SlotMarked b cause s (v.markSlot b cause) := by
  have hslot (k : Nat) : (v.markSlot b cause).slot k =
      if k = b then { v.slot b with mark := some ((v.slot b).mark.getD cause) } else v.slot k := v.slot_updSlot b k _
  have hself : (v.markSlot b cause).slot b = { s.slot b with ended := true, mark := some ((s.slot b).mark.getD cause) } := by
    rw [hslot, if_pos rfl, h.slot, if_pos rfl]
  have hother (k : Nat) (hk : k ≠ b) : (v.markSlot b cause).slot k = s.slot k := by
    rw [hslot, if_neg hk, h.slot, if_neg hk]
  have hrest : ∃ m sl, v.markSlot b cause = { s with ms := m, ac := { s.ac with slots := sl } } := by
    obtain ⟨_, _, he⟩ := h.rest
    rw [he]
    exact ⟨_, _, rfl⟩
  refine ⟨hself, hother, fun hq => ?_, hrest⟩
  have hstate (k : Nat) : ((v.markSlot b cause).slot k).state = (s.slot k).state := by
    by_cases hk : k = b
    · rw [hk, hself]
    · rw [hother k hk]
  obtain ⟨_, _, he⟩ := hrest
  rw [he] at hstate ⊢
  exact hq.of_core rfl hq.settled rfl rfl hstate

/-- A marked slot's order is answered. -/
theorem State.SlotMarked.finish {cause : Cause} (h : State.SlotMarked b cause s t) (hq : s.Quiet) (f : OwnFrame) :
    (t.withUpFrame f).finish = t.withUpFrame f := State.finish_of_quiet ((h.quiet hq).withUpFrame f)

/-- The access of an unsent OPERATE has gone FREE with its cause. -/
structure State.Withdrawn (b : Nat) (r : Request) (cause : Cause) (s t : State) : Prop where
  slot : (t.slot b).state = .free ∧ (t.slot b).cause = some cause ∧ (t.slot b).request = none ∧ (t.slot b).order = .idle
  other : ∀ k, k ≠ b → t.slot k = s.slot k
  access : (t.line r.line).access = .none
  freePairs : (t.shelf (shelfOf r.line)).freePairs = min 2 ((s.shelf (shelfOf r.line)).freePairs + 1)
  octets : t.htp.down.insertion.map (·.octets) = s.htp.down.insertion.map (·.octets)
  ready : t.core.oh.ready = s.core.oh.ready
  latch : t.htp.latch = s.htp.latch
  noRetests : t.noRetests
  queue : t.ac.queue = s.ac.queue
  up : t.htp.up = s.htp.up

theorem State.DeskEnded.withdraw (h : State.DeskEnded b s v) (hb : b ∈ slotNumbers) (hr : (s.slot b).request = some r)
    (hn : s.noRetests) (hl : s.LineRests r.line) (cause : Cause) :
    State.Withdrawn b r cause s (v.withdraw b cause) ∧ (v.withdraw b cause).ms = v.ms := by
  unfold State.withdraw
  generalize hw : (v.updSlot b fun r => { r with cause := some cause }) = w
  have hwslot (k : Nat) : w.slot k = if k = b then { v.slot b with cause := some cause } else v.slot k := hw ▸ v.slot_updSlot b k _
  have hself : w.slot b = { s.slot b with ended := true, cause := some cause } := by
    rw [hwslot, if_pos rfl, h.slot, if_pos rfl]
  obtain ⟨m, sl, he⟩ : ∃ m sl, w = { s with ms := m, ac := { s.ac with slots := sl } } := by
    obtain ⟨_, _, he⟩ := h.rest
    rw [← hw, he]
    exact ⟨_, _, rfl⟩
  have hline : (w.slot b).line = some r.line := by
    rw [hself]
    show (s.slot b).line = _
    rw [Slot.line, hr]
    rfl
  have hcalm : w.LineCalm r.line := by
    rw [he]
    exact hl.calm.of_same rfl rfl rfl rfl rfl rfl
  have hnone : w.noRetests := by
    rw [he]
    exact hn
  have hfreed := State.freeSlot_freed hb hline hcalm hnone
  have hms : w.ms = v.ms := hw ▸ rfl
  generalize w.freeSlot b = t at *
  have htslot := (hfreed.slot b).trans (if_pos rfl)
  rw [hself] at htslot
  refine ⟨⟨⟨congrArg Slot.state htslot, congrArg Slot.cause htslot, congrArg Slot.request htslot, congrArg Slot.order htslot⟩,
    fun k hk => ?_, hfreed.access, ?_, ?_, ?_, ?_, ?_, ?_, ?_⟩, ?_⟩
  · rw [hfreed.slot, if_neg hk, hwslot, if_neg hk, h.slot, if_neg hk]
  · rw [hfreed.shelf, if_pos rfl, he]
    rfl
  · rw [hfreed.octets, he]
  all_goals
    obtain ⟨_, _, _, _, _, _, _, _, ht⟩ := hfreed.rest
    rw [ht]
  · rw [he]
  · rw [he]
  · rw [he]; exact hn
  · rw [he]
  · rw [he]
  · exact hms

/-- A withdrawn slot's order is answered, with no request queued. -/
theorem State.Withdrawn.finish {cause : Cause} (h : State.Withdrawn b r cause s t) (hq : s.Quiet) (he : s.ac.queue = []) (f : OwnFrame) :
    (t.withUpFrame f).finish = (t.withUpFrame f).paid.refreshConditions :=
  State.finish_of_empty (h.ready.trans hq.ready) (h.latch.trans hq.latch) h.noRetests (h.queue.trans he)

/-! ### A queued request -/

/-- The queued request of a token is of class DESK. -/
theorem State.deskQueued_some {token : Nat} (h : s.deskQueued token = some r) : r.cls = .desk := by
  have hp := List.find?_some h
  simp only [Bool.and_eq_true, decide_eq_true_eq] at hp
  exact hp.1

theorem State.dequeue_access (s : State) (r : Request) : ((s.dequeue r).line r.line).access = .none := by
  rw [State.dequeue_eq]
  exact congrArg LineRec.access ((s.line_updLine r.line r.line fun l => { l with access := .none }).trans (if_pos rfl))

end Sys2Proof.Machine

open Sys2Proof Sys2Proof.Machine in
/-- Settles O29: by where the request of the token stands, RELEASE and CANCEL do the same but for the RESULT. -/
theorem releaseAndCancelEndTheAccess : Obligations.ReleaseAndCancelEndTheAccess := by
  intro ref token s ht
  have hq := ht.quiet
  refine ⟨fun b hdesk hheld => ?_, fun b hdesk hrel => ?_, fun b r hdesk hseizing hr => ?_, fun r hdesk hqueued htickets hlock => ?_,
    fun hdead => ?_⟩
  · obtain ⟨hb, -⟩ := State.deskSlot_some hdesk
    have hrelease : s.releaseSlot b = (s.endHeld b .cancelled none).beginRelease b .deskRelease := by
      unfold State.releaseSlot
      rw [hheld]
    have hcancel : s.cancelSlot b = (s.endHeld b .cancelled none).beginRelease b .cancelled := by
      unfold State.cancelSlot
      rw [hheld]
    have hdone (cause : Cause) := s.endHeld_released hb .cancelled none cause
    constructor
    · have h := hdone .deskRelease
      rw [← hrelease] at h
      have hexec := exec_release ht (ref := ref) (State.releaseToken_slot hdesk) h.kept
      rw [State.finish_worked hq h.kept (h.settled hq.settled)] at hexec
      exact ⟨_, hexec, h.state, h.cause, h.attempt, h.run, h.pendingRun,
        congrArg (fun p : OutPort => p.insertion ++ [_]) h.up, h.other⟩
    · have h := hdone .cancelled
      rw [← hcancel] at h
      have hexec := exec_cancelRun ht (ref := ref) (State.cancelToken_slot hdesk) h.kept
      rw [State.finish_worked hq h.kept (h.settled hq.settled)] at hexec
      exact ⟨_, hexec, h.state, h.cause, h.attempt, h.run, h.pendingRun,
        congrArg (fun p : OutPort => p.insertion ++ [_]) h.up, h.other⟩
  · have hrelease : s.releaseSlot b = s := by
      unfold State.releaseSlot
      rw [hrel]
    have hcancel : s.cancelSlot b = s := by
      unfold State.cancelSlot
      rw [hrel]
    constructor
    · refine (exec_release ht (State.releaseToken_slot hdesk) (by rw [hrelease]; exact .refl s)).trans ?_
      rw [hrelease, State.finish_of_quiet (hq.withUpFrame _)]
    · refine (exec_cancelRun ht (State.cancelToken_slot hdesk) (by rw [hcancel]; exact .refl s)).trans ?_
      rw [hcancel, State.finish_of_quiet (hq.withUpFrame _)]
  · obtain ⟨hb, hclass⟩ := State.deskSlot_some hdesk
    have hc := hclass r hr
    have hmarkEnded := s.markEnded_deskEnded b
    have hresult := State.endSlotRequest_deskEnded hr hc .cancelled
    have hms := State.endSlotRequest_result hr hc .cancelled
    refine ⟨fun hsent => ?_, fun op hwaits hempty hn hl => ?_⟩
    · have hunsent : (s.slot b).order.unsent = false := by
        cases ho : (s.slot b).order with
        | waiting op => exact absurd ho (hsent op)
        | idle | placed _ _ => rfl
      have hrelease : s.releaseSlot b = (s.markEnded b).markSlot b .deskRelease := by
        unfold State.releaseSlot
        rw [hseizing, hunsent]
        rfl
      have hcancel : s.cancelSlot b = (s.endSlotRequest b (.outcome .cancelled)).markSlot b .cancelled := by
        unfold State.cancelSlot
        rw [hseizing, hunsent]
        rfl
      have hmsmark (v : State) (cause : Cause) : (v.markSlot b cause).ms = v.ms := rfl
      constructor
      · have h := hmarkEnded.markSlot .deskRelease
        have hk := State.markSlot_kept hmarkEnded.kept b .deskRelease
        have hm := hmsmark (s.markEnded b) .deskRelease
        rw [← hrelease] at h hk hm
        have hexec := exec_release ht (ref := ref) (State.releaseToken_slot hdesk) hk
        rw [h.finish hq] at hexec
        generalize s.releaseSlot b = t at *
        obtain ⟨_, _, he⟩ := h.rest
        refine ⟨_, hexec, ⟨h.slot, h.other, ?_, ?_, ?_, ?_⟩, hm, ?_⟩ <;> (rw [he]; rfl)
      · have h := hresult.markSlot .cancelled
        have hk := State.markSlot_kept hresult.kept b .cancelled
        have hm := hmsmark (s.endSlotRequest b (.outcome .cancelled)) .cancelled
        rw [← hcancel] at h hk hm
        have hexec := exec_cancelRun ht (ref := ref) (State.cancelToken_slot hdesk) hk
        rw [h.finish hq] at hexec
        rw [← hm] at hms
        generalize s.cancelSlot b = t at *
        obtain ⟨_, _, he⟩ := h.rest
        refine ⟨_, hexec, ⟨h.slot, h.other, ?_, ?_, ?_, ?_⟩, hms, ?_⟩ <;> (rw [he]; rfl)
    · have hrelease : s.releaseSlot b = (s.markEnded b).withdraw b .deskRelease := by
        unfold State.releaseSlot
        rw [hseizing, hwaits]
        rfl
      have hcancel : s.cancelSlot b = (s.endSlotRequest b (.outcome .cancelled)).withdraw b .cancelled := by
        unfold State.cancelSlot
        rw [hseizing, hwaits]
        rfl
      constructor
      · obtain ⟨h, hm⟩ := hmarkEnded.withdraw hb hr hn hl .deskRelease
        have hk := State.withdraw_kept hmarkEnded.kept b .deskRelease
        rw [← hrelease] at h hk hm
        have hexec := exec_release ht (ref := ref) (State.releaseToken_slot hdesk) hk
        rw [h.finish hq hempty] at hexec
        generalize s.releaseSlot b = t at *
        obtain ⟨hstate, hcause, hrequest, horder⟩ := h.slot
        exact ⟨_, hexec, ⟨hstate, hcause, hrequest, horder, h.other, h.access, h.freePairs, h.octets⟩, hm,
          congrArg (fun p : OutPort => p.insertion ++ [_]) h.up⟩
      · obtain ⟨h, hm⟩ := hresult.withdraw hb hr hn hl .cancelled
        have hk := State.withdraw_kept hresult.kept b .cancelled
        rw [← hcancel] at h hk hm
        have hexec := exec_cancelRun ht (ref := ref) (State.cancelToken_slot hdesk) hk
        rw [h.finish hq hempty] at hexec
        rw [← hm] at hms
        generalize s.cancelSlot b = t at *
        obtain ⟨hstate, hcause, hrequest, horder⟩ := h.slot
        exact ⟨_, hexec, ⟨hstate, hcause, hrequest, horder, h.other, h.access, h.freePairs, h.octets⟩, hms,
          congrArg (fun p : OutPort => p.insertion ++ [_]) h.up⟩
  · have hc : r.cls = .desk := State.deskQueued_some hqueued
    have hn : s.noRetests := fun k hk => absurd (htickets ▸ hk) List.not_mem_nil
    have hdeskEnd : (s.dequeue r).endRequest r none (.outcome .cancelled) = (s.dequeue r).resultOf r none .cancelled := by
      simp only [State.endRequest, hc]
    have hidle : (s.dequeue r).lineIdle r.line = s.dequeue r := by
      refine State.lineIdle_of_rests ?_ hn
      rw [State.dequeue_eq]
      exact (congrArg LineRec.lockoutStart ((s.line_updLine _ _ _).trans (if_pos rfl))).trans hlock
    have hrelease : s.releaseToken token.toNat = some (s.dequeue r) := by
      simp only [State.releaseToken, hdesk, hqueued, Option.map_some, hidle]
    have hcancel : s.cancelToken token.toNat = some ((s.dequeue r).resultOf r none .cancelled) := by
      simp only [State.cancelToken, hdesk, hqueued, Option.map_some]
      rw [State.expel_one (fun h => absurd (hc.symm.trans h) nofun) hn hlock, hdeskEnd]
    have hk : State.Kept s (s.dequeue r) := State.dequeue_kept (.refl s) r
    constructor
    · have hexec := exec_release ht (ref := ref) hrelease hk
      rw [State.finish_of_departure (u := (s.dequeue r).withUpFrame _) hq.ready hq.latch hn hq.settled.1] at hexec
      exact ⟨_, hexec, rfl, s.dequeue_access r, rfl, rfl, rfl⟩
    · have hexec := exec_cancelRun ht (ref := ref) hcancel (State.resultOf_kept hk r none .cancelled)
      rw [State.finish_of_departure (u := ((s.dequeue r).resultOf r none .cancelled).withUpFrame _) hq.ready hq.latch hn hq.settled.1]
        at hexec
      refine ⟨_, hexec, rfl, s.dequeue_access r, rfl, fun hroom => ?_, rfl⟩
      rw [State.resultOf_eq (s.dequeue r) r none .cancelled hroom, ← hc]
      rfl
  · have hnone : s.deskSlot token.toNat = none ∧ s.deskQueued token.toNat = none := by
      simpa [State.tokenLive] using hdead
    obtain ⟨hslot, hqueued⟩ := hnone
    constructor
    · refine State.orderCommand_of_answer ht rfl ?_
      simp only [State.releaseToken, hslot, hqueued, Option.map_none]
    · refine State.orderCommand_of_answer ht rfl ?_
      simp only [State.cancelToken, hslot, hqueued, Option.map_none]
end

section
/-! SUPPORT. What a run comes to, by its results: readings, verdicts, class, trend and outcome (R81, R105–R109). -/

namespace Sys2Proof.Machine

/-! ### The last result that counts -/

/-- A fold that keeps the last element to pass a test. -/
theorem List.foldl_last {α β : Type} (q : α → Prop) [DecidablePred q] (f : α → β) (l : List α) (v : Option β) :
    l.foldl (fun v y => if q y then some (f y) else v) v = (((l.filter fun y => decide (q y)).getLast?).map f).or v := by
  induction l generalizing v with
  | nil => simp
  | cons y l ih =>
    rw [List.foldl_cons, ih]
    by_cases h : q y
    · rw [if_pos h, List.filter_cons_of_pos (by simpa using h), List.getLast?_cons]
      cases (l.filter fun y => decide (q y)).getLast? <;> simp
    · rw [if_neg h, List.filter_cons_of_neg (by simpa using h)]

theorem lastReading_eq (results : List StepResult) (c : Channel) : lastReading results c = valueOn results c := by
  unfold lastReading valueOn
  rw [List.foldl_last (fun y : StepResult => y.channel = c ∧ y.quals.isVoid = false) (·.value)]
  simp

/-! ### The trend (R108, R109) -/

/-- A step toward a figure, by a quotient rounded to zero. -/
theorem trend_step (w m d : Nat) :
    ((w : Int) + ((m : Int) - w).tdiv d).toNat = if w ≤ m then w + (m - w) / d else w - (w - m) / d := by
  split
  · next h =>
    have hsub : (m : Int) - w = ((m - w : Nat) : Int) := by omega
    rw [hsub, ← Int.ofNat_tdiv]
    generalize (m - w) / d = q
    omega
  · next h =>
    have hsub : (m : Int) - w = -((w - m : Nat) : Int) := by omega
    have hle : (w - m) / d ≤ w - m := Nat.div_le_self _ _
    rw [hsub, Int.neg_tdiv, ← Int.ofNat_tdiv]
    generalize (w - m) / d = q at hle ⊢
    omega

theorem movedTrend_eq (was : Option Nat) (shift : Nat) (results : List StepResult) :
    movedTrend was shift results = trendAfter was shift results := by
  unfold movedTrend trendAfter
  rw [lastReading_eq, lastReading_eq]
  cases valueOn results .irTg with
  | none => rfl
  | some tg =>
    cases valueOn results .irRg with
    | none => rfl
    | some rg =>
      cases was with
      | none => rfl
      | some w =>
        have h := trend_step w (min 65535 ((min tg rg).toNat / 1000)) (2 ^ shift)
        rw [Nat.cast_pow, Nat.cast_ofNat] at h
        exact congrArg some h

theorem degradingReport_eq (cls : ReqClass) (results : List StepResult) (level : Nat) (trend : Option Nat) (fault : Option FaultClass) :
    degradingReport cls results level trend fault =
      decide (cls = .routine ∧ (valueOn results .irTg).isSome = true ∧ (valueOn results .irRg).isSome = true ∧ level ≠ 0 ∧ fault = none
        ∧ trend.any (fun v => decide (v < level)) = true) := by
  unfold degradingReport movesTrend
  rw [lastReading_eq, lastReading_eq]
  cases trend <;> simp [Bool.and_assoc]

/-! ### The verdicts (R105) -/

theorem closedVerdict_eq (results : List StepResult) (c : Channel) (was : Verdict) :
    closedVerdict results c was = verdictAfter results c was := by
  unfold closedVerdict verdictAfter
  simp only [List.any_eq_true, Bool.and_eq_true, decide_eq_true_eq]

theorem Channels.close_eq (c : Channels) (results : List StepResult) : c.close results = c.after results := by
  simp only [Channels.close, Channels.after, closedVerdict_eq]

/-! ### The outcome (R73, R81) -/

theorem State.ownOutcome_eq (s : State) (x : Run) : s.ownOutcome x = s.ms.outcomeOf x.programme x.results := by
  unfold State.ownOutcome Ms.outcomeOf
  simp only [Option.isNone_iff_eq_none, List.any_eq_true]
  by_cases hp : s.ms.programme x.programme = none
  · simp [hp]
  · simp [hp]

/-! ### The class (R106) -/

/-- The class that a result brings: that of its step, when it fails. -/
def Ms.resultClass (m : Ms) (p : Programme) (y : StepResult) : Option FaultClass :=
  if y.verdict = .fail then (m.stepOf p y.step).map (·.faultClass) else none

theorem Ms.failsWith_iff {m : Ms} {programme : Nat} {p : Programme} (hp : m.programme programme = some p) (y : StepResult) (f : FaultClass) :
    m.failsWith programme y f ↔ m.resultClass p y = some f := by
  unfold Ms.failsWith Ms.resultClass
  simp only [hp, Option.some.injEq]
  by_cases h : y.verdict = .fail
  · simp [h]
  · simp [h]

/-- The more severe of two classes, the first among equals. -/
def FaultClass.worse : Option FaultClass → Option FaultClass → Option FaultClass
  | some f, none => some f
  | some f, some g => if g.severity < f.severity then some f else some g
  | none, c => c

theorem Ms.runClass_eq (m : Ms) (p : Programme) (results : List StepResult) :
    m.runClass p results = results.foldl (fun c y => FaultClass.worse (m.resultClass p y) c) none := by
  unfold Ms.runClass
  congr 1
  funext c y
  unfold Ms.resultClass
  split
  · cases (m.stepOf p y.step).map (·.faultClass) <;> cases c <;> rfl
  · rfl

/-- The class that a list of results comes to: the first of the greatest severity. -/
def Ms.classFrom (m : Ms) (p : Programme) (results : List StepResult) (f : FaultClass) : Prop :=
  ∃ before y behind, results = before ++ y :: behind ∧ m.resultClass p y = some f
    ∧ (∀ z ∈ before, ∀ g, m.resultClass p z = some g → g.severity < f.severity)
    ∧ ∀ z ∈ behind, ∀ g, m.resultClass p z = some g → g.severity ≤ f.severity

/-- The class of results with one more at the end. -/
theorem Ms.runClass_snoc (m : Ms) (p : Programme) (results : List StepResult) (y : StepResult) :
    m.runClass p (results ++ [y]) = FaultClass.worse (m.resultClass p y) (m.runClass p results) := by
  rw [Ms.runClass_eq, Ms.runClass_eq, List.foldl_append]
  rfl

theorem Ms.runClass_none_iff (m : Ms) (p : Programme) (results : List StepResult) :
    m.runClass p results = none ↔ ∀ z ∈ results, m.resultClass p z = none := by
  induction results using List.reverseRecOn with
  | nil => simp [Ms.runClass]
  | append_singleton results y ih =>
    rw [Ms.runClass_snoc]
    simp only [List.mem_append, List.mem_singleton]
    cases hy : m.resultClass p y with
    | none =>
      show m.runClass p results = none ↔ _
      rw [ih]
      exact ⟨fun h z hz => hz.elim (h z) fun e => e ▸ hy, fun h z hz => h z (.inl hz)⟩
    | some f =>
      refine ⟨fun h => ?_, fun h => nomatch (h y (.inr rfl)).symm.trans hy⟩
      cases hc : m.runClass p results with
      | none => rw [hc] at h; exact nomatch h
      | some g => 
        rw [hc] at h
        simp only [FaultClass.worse] at h
        split at h <;> exact nomatch h

/-- A list of results with one more at the end comes to the class of the last, or to the class it came to. -/
theorem Ms.classFrom_snoc (m : Ms) (p : Programme) (results : List StepResult) (y : StepResult) (f : FaultClass) :
    m.classFrom p (results ++ [y]) f ↔
      (m.resultClass p y = some f ∧ ∀ z ∈ results, ∀ g, m.resultClass p z = some g → g.severity < f.severity)
        ∨ (m.classFrom p results f ∧ ∀ g, m.resultClass p y = some g → g.severity ≤ f.severity) := by
  constructor
  · rintro ⟨before, x, behind, he, hx, hbefore, hbehind⟩
    rcases List.eq_nil_or_concat behind with rfl | ⟨behind, z, rfl⟩
    · obtain ⟨rfl, hxy⟩ := List.append_inj' he rfl
      obtain rfl := List.singleton_injective hxy
      exact .inl ⟨hx, hbefore⟩
    · have he' : results ++ [y] = (before ++ x :: behind) ++ [z] := by simpa using he
      obtain ⟨rfl, hyz⟩ := List.append_inj' he' rfl
      obtain rfl := List.singleton_injective hyz
      exact .inr ⟨⟨before, x, behind, rfl, hx, hbefore, fun z hz => hbehind z (by simp [hz])⟩, hbehind y (by simp)⟩
  · rintro (⟨hy, hbefore⟩ | ⟨⟨before, x, behind, rfl, hx, hbefore, hbehind⟩, hlast⟩)
    · exact ⟨results, y, [], rfl, hy, hbefore, fun z hz => absurd hz List.not_mem_nil⟩
    · refine ⟨before, x, behind ++ [y], by simp, hx, hbefore, fun z hz => ?_⟩
      rcases List.mem_append.mp hz with hz | hz
      · exact hbehind z hz
      · rw [List.mem_singleton.mp hz]
        exact hlast

/-- The class of a list is borne by one of its results and is as severe as that of every other. -/
theorem Ms.classFrom_greatest {m : Ms} {p : Programme} {results : List StepResult} {f : FaultClass} (h : m.classFrom p results f) :
    (∃ y ∈ results, m.resultClass p y = some f) ∧ ∀ z ∈ results, ∀ g, m.resultClass p z = some g → g.severity ≤ f.severity := by
  obtain ⟨before, y, behind, rfl, hy, hbefore, hbehind⟩ := h
  refine ⟨⟨y, by simp, hy⟩, fun z hz g hg => ?_⟩
  rcases List.mem_append.mp hz with hz | hz
  · exact Nat.le_of_lt (hbefore z hz g hg)
  · rcases List.mem_cons.mp hz with rfl | hz
    · obtain rfl := Option.some.inj (hy.symm.trans hg)
      exact Nat.le_refl _
    · exact hbehind z hz g hg

theorem Ms.runClass_eq_some_iff (m : Ms) (p : Programme) (results : List StepResult) (f : FaultClass) :
    m.runClass p results = some f ↔ m.classFrom p results f := by
  induction results using List.reverseRecOn generalizing f with
  | nil => simp [Ms.runClass, Ms.classFrom]
  | append_singleton results y ih =>
    have hbelow : (∀ z ∈ results, ∀ g, m.resultClass p z = some g → g.severity < f.severity) ↔
        ∀ g, m.runClass p results = some g → g.severity < f.severity := by
      refine ⟨fun h g hg => ?_, fun h z hz g hg => ?_⟩
      · obtain ⟨⟨z, hz, hzg⟩, -⟩ := Ms.classFrom_greatest ((ih g).mp hg)
        exact h z hz g hzg
      · cases hc : m.runClass p results with
        | none => exact nomatch ((m.runClass_none_iff p results).mp hc z hz).symm.trans hg
        | some k => exact Nat.lt_of_le_of_lt ((Ms.classFrom_greatest ((ih k).mp hc)).2 z hz g hg) (h k hc)
    rw [Ms.runClass_snoc, Ms.classFrom_snoc, hbelow, ← ih]
    cases m.resultClass p y with
    | none => simp [FaultClass.worse]
    | some g =>
      cases m.runClass p results with
      | none => simp [FaultClass.worse]
      | some k =>
        simp only [FaultClass.worse, Option.some.injEq, forall_eq']
        split
        · next hlt =>
          simp only [Option.some.injEq]
          constructor
          · rintro rfl
            exact .inl ⟨rfl, hlt⟩
          · rintro (⟨rfl, -⟩ | ⟨rfl, hle⟩)
            · rfl
            · omega
        · next hge =>
          simp only [Option.some.injEq]
          constructor
          · rintro rfl
            exact .inr ⟨rfl, by omega⟩
          · rintro (⟨rfl, hlt⟩ | ⟨rfl, -⟩)
            · omega
            · rfl

theorem State.runFault_is (s : State) (x : Run) : s.ms.runClassIs x.programme x.results (s.runFault x) := by
  intro f
  unfold State.runFault
  cases hp : s.ms.programme x.programme with
  | none =>
    refine ⟨(nomatch ·), ?_⟩
    rintro ⟨_, y, _, -, ⟨-, p, _, hq, -⟩, -⟩
    exact nomatch hp.symm.trans hq
  | some p =>
    simp only [Option.bind_some, Ms.failsWith_iff hp]
    exact s.ms.runClass_eq_some_iff p x.results f

end Sys2Proof.Machine
end

section
/-! SUPPORT. A run closed, and the end of an access (R82). -/

namespace Sys2Proof.Machine

variable {s t u v : State} {b : Nat} {r : Request} {x : Run}

/-! ### A run closed -/

theorem State.restSource_eq (s : State) (b : Nat) :
    State.SetOnly s (s.restSource b) ∧ ∀ k, (s.restSource b).testSet k = if k = b then (s.testSet b).restarted else s.testSet k :=
  s.restartLink_eq b

theorem State.restSource_setOnly (s : State) (b : Nat) : State.SetOnly s (s.restSource b) := (s.restSource_eq b).1

/-- The RESULT list once a run's RESULT has been made, where one is due and there is room (R88). -/
theorem State.runResult_results (s : State) (b : Nat) (r : Request) (x : Run) (o : RunOutcome) (f : Option FaultClass) :
    (s.runResult b r x o f).ms.results =
      if (r.cls = .desk ∨ (r.cls = .routine ∧ s.core.oh.params.reportRoutine = true)) ∧ s.ms.results.length < 64 then
        s.ms.results ++ [{ token := r.token.getD 0, position := r.position.getD 0, line := r.line, bus := some b, cls := r.cls,
                           programme := some x.programme, outcome := o, fault := f, steps := x.results }]
      else s.ms.results := by
  have hmade (y : Result) : (s.makeResult y).ms.results =
      if s.ms.results.length < 64 then s.ms.results ++ [y] else s.ms.results := by
    unfold State.makeResult
    rw [State.updMs_ms]
    split <;> rfl
  unfold State.runResult
  cases hc : r.cls with
  | desk => simp [hmade]
  | retest => simp
  | routine =>
    cases hp : s.core.oh.params.reportRoutine <;> simp [hmade, hp, State.params]

/-- What the TC meets as a run is closed: the set is at rest, and the line's channels and trend are moved. -/
def State.closingCore (s : State) (b : Nat) (r : Request) (x : Run) : Core :=
  ((s.restSource b).updLine r.line fun l =>
    { l with
      channels := l.channels.after x.results
      trend := if r.cls = .routine then trendAfter l.trend s.core.oh.params.trendShift x.results else l.trend }).core

/-- The trend after the run. -/
def State.trendMoved (s : State) (r : Request) (x : Run) : Option Nat :=
  if r.cls = .routine then trendAfter (s.line r.line).trend s.core.oh.params.trendShift x.results else (s.line r.line).trend

/-- The records once the TC has been handed the run. -/
def State.handedCore (s : State) (b : Nat) (r : Request) (x : Run) (o : RunOutcome) : Core :=
  (s.closingCore b r x).handOver r o (s.runFault x) x.results
    (degradingReport r.cls x.results s.core.oh.params.degradeLevel (s.trendMoved r x) (s.runFault x))

theorem State.closeRun_eq (hx : s.run b = some x) (hr : (s.slot b).request = some r) (o : RunOutcome) :
    s.closeRun b o = (({ s with core := s.handedCore b r x o } : State).runResult b r x o (s.runFault x)).setRun b none := by
  obtain ⟨sets, he⟩ := s.restSource_setOnly b
  unfold State.closeRun
  simp only [hx, hr, State.handedCore, State.closingCore, State.trendMoved, he, Channels.close_eq, movedTrend_eq]
  rfl

theorem State.closingCore_line (s : State) (b : Nat) (r : Request) (x : Run) (l : Nat) :
    (s.closingCore b r x).line l =
      if l = r.line then { s.line l with channels := (s.line l).channels.after x.results, trend := s.trendMoved r x } else s.line l := by
  obtain ⟨sets, he⟩ := s.restSource_setOnly b
  unfold State.closingCore
  rw [he]
  refine (Core.line_updLine ..).trans ?_
  split
  · next hl => subst hl; rfl
  · rfl

/-- The run of bus b closed at its own word (R81, R82). -/
theorem State.closeRun_closed (hx : s.run b = some x) (hr : (s.slot b).request = some r) :
    s.runClosed (s.closeRun b (s.ownOutcome x)) b r x.programme x.results := by
  obtain ⟨sets, he⟩ := s.restSource_setOnly b
  have hclosing : (s.closingCore b r x).tc = s.core.tc ∧ (s.closingCore b r x).gm = s.core.gm ∧ (s.closingCore b r x).oh = s.core.oh
      ∧ (s.closingCore b r x).timeMs = s.core.timeMs := by
    unfold State.closingCore
    rw [he]
    exact ⟨rfl, rfl, rfl, rfl⟩
  obtain ⟨htc, hgm, hoh, htime⟩ := hclosing
  have hline := s.closingCore_line b r x
  have hhanded : s.handedCore b r x (s.ms.outcomeOf x.programme x.results) = (s.closingCore b r x).handOver r _ _ _ _ := rfl
  rw [degradingReport_eq] at hhanded
  rw [State.closeRun_eq hx hr, State.ownOutcome_eq]
  have hparams : (s.handedCore b r x (s.ms.outcomeOf x.programme x.results)).oh.params = s.core.oh.params := by
    have hk := Core.handOver_kept (.refl (s.closingCore b r x)) r (s.ms.outcomeOf x.programme x.results) (s.runFault x) x.results
      (degradingReport r.cls x.results s.core.oh.params.degradeLevel (s.trendMoved r x) (s.runFault x))
    exact hk.oh.params.trans (congrArg Oh.params hoh)
  generalize s.handedCore b r x (s.ms.outcomeOf x.programme x.results) = d at *
  generalize s.closingCore b r x = c at *
  refine ⟨s.runFault x, c, s.runFault_is x, ⟨htc, hgm, hoh, htime, fun l => ?_, ?_, ?_, fun l => ?_⟩, ?_⟩
  · rw [hline]
    split
    · next hl => subst hl; rfl
    · rfl
  · exact (congrArg Core.tc (State.runResult_core ..)).trans (congrArg Core.tc hhanded)
  · exact (congrArg Core.gm (State.runResult_core ..)).trans (congrArg Core.gm hhanded)
  · exact (congrArg (fun c : Core => c.line l) (State.runResult_core ..)).trans (congrArg (fun c : Core => c.line l) hhanded)
  · refine (State.runResult_results ..).trans ?_
    rw [← hparams]

/-- The set once the run is closed: at rest, but for its ticket. -/
theorem State.closeRun_testSet (hx : s.run b = some x) (hr : (s.slot b).request = some r) (o : RunOutcome) :
    ((s.closeRun b o).testSet b).sansTicket = (s.testSet b).restarted.sansTicket := by
  rw [State.closeRun_eq hx hr]
  have hrest : (s.closingCore b r x).testSet b = (s.testSet b).restarted := ((s.restSource_eq b).2 b).trans (if_pos rfl)
  rw [← hrest]
  show (Core.testSet (State.runResult _ _ _ _ _ _).core b).sansTicket = _
  rw [State.runResult_core]
  exact (Core.handOver_subjects _ _ _ _ _ _).testSet b

/-! ### The end of the last run (R82 step 5) -/

/-- The slot of an access whose last run has ended, and what is left alone. -/
structure State.LastRunOver (b : Nat) (r : Request) (s t : State) : Prop where
  core : t.core = s.core
  ms : t.ms = s.ms
  queue : t.ac.queue = s.ac.queue
  settled : s.settled → t.settled
  up : t.htp.up = s.htp.up
  other : ∀ k, k ≠ b → t.slot k = s.slot k
  slot : if r.keep then t.slot b = s.slot b
    else (t.slot b).state = .releasing ∧ (t.slot b).cause = some .runEnd ∧ (t.slot b).attempt = 1 ∧ (t.slot b).holdDue = none
      ∧ (t.slot b).order = s.madeReady .release ∧ (t.slot b).request = some r ∧ (t.slot b).pair = (s.slot b).pair

theorem State.afterLastRun_over (hb : b ∈ slotNumbers) (hr : (s.slot b).request = some r) :
    State.LastRunOver b r s (s.afterLastRun b) := by
  have hkeeps : s.keeps b = r.keep := by
    unfold State.keeps
    rw [hr]
    rfl
  unfold State.afterLastRun
  rw [hkeeps]
  cases hk : r.keep with
  | true => exact ⟨rfl, rfl, rfl, id, rfl, fun _ _ => rfl, by rw [hk]; rfl⟩
  | false =>
    simp only [Bool.false_eq_true, if_false]
    have hended := s.markEnded_ended b
    have hslot := hended.release_slot hb .runEnd
    refine ⟨State.beginRelease_core .., State.beginRelease_ms .., State.beginRelease_queue .., fun hs => ?_, State.beginRelease_up ..,
      fun k hkb => ?_, ?_⟩
    · exact State.beginRelease_settled (hended.settled hs) _ _
    · obtain ⟨_, h⟩ := hslot k
      exact h.trans (if_neg hkb)
    · obtain ⟨_, h⟩ := hslot b
      rw [if_pos rfl] at h
      rw [hk, if_neg Bool.false_ne_true, h]
      exact ⟨rfl, rfl, rfl, rfl, rfl, hr, rfl⟩

end Sys2Proof.Machine
end

section
/-! SUPPORT. Steps that begin, one after another until one can be run (R76, R77). -/

namespace Sys2Proof.Machine

variable {s t u v : State} {b : Nat} {r : Request} {x y : Run} {p : Programme} {w : TestSet}

/-! ### A step enters APPLY -/

/-- A source is asked for: one SOURCE frame under a fresh tag. -/
theorem State.askSource_setIs (h : State.SetIs s t b w) (st : Step) (start slope : Int) :
    ∃ f range, State.SetIs s (t.askSource b st start slope) b
      { w with tag := nextTag w.tag, range := range, sending := w.sending ++ [f] } := by
  have hsend (pair : LeadPair) (mode : SourceMode) (level slope : Int) (range : CurrentRange) (coupling : Coupling) (timed : Bool) :
      ∃ f range', State.SetIs s (t.sendSource b pair mode level slope range coupling timed) b
        { w with tag := nextTag w.tag, range := range', sending := w.sending ++ [f] } :=
    ⟨{ msg := .source (nextTag w.tag) pair mode level slope range coupling, timed := timed }, range, by
      unfold State.sendSource
      rw [h.self]
      exact (h.then _).then _⟩
  unfold State.askSource
  split <;> exact hsend ..

/-- The record of a set whose source has been asked for, with the stream on. -/
structure TestSet.Asked (t u : TestSet) : Prop where
  state : u.state = t.state
  failures : u.failures = t.failures
  agreedKinds : u.agreedKinds = t.agreedKinds
  agreedRate : u.agreedRate = t.agreedRate
  tag : u.tag = nextTag t.tag
  stream : u.stream = true
  firstTagDue : u.firstTagDue = none
  sampleDue : u.sampleDue = none

/-- The run as it enters APPLY, on no down ramp (R77). -/
def Run.applying (x : Run) (ramp : Ramp) (opens : Bool) : Run :=
  { x with ramp := ramp, phase := .apply, lost := 0, taken := 0, settleEnd := none, working := {}, held := none, opener := opens }

/-- A step has entered APPLY. -/
structure State.StepApplied (b : Nat) (s t : State) (y : Run) : Prop where
  only : ∃ sets runs, t = { s with core := { s.core with sets := sets }, ms := { s.ms with runs := runs } }
  run : t.run b = some y
  testSet : TestSet.Asked (s.testSet b) (t.testSet b)
  others : ∀ k, k ≠ b → t.testSet k = s.testSet k

theorem State.applyStep_applied (hx : s.run b = some x) (st : Step) {ramp : Ramp} (hr : ramp ≠ .down) :
    State.StepApplied b s (s.applyStep b st ramp) (x.applying ramp (!(s.testSet b).stream)) := by
  have hstop : State.SetIs s (s.stopStepTimers b) b (s.testSet b).stopped := s.updTestSet_setIs b _
  have hstream : ((s.stopStepTimers b).testSet b).stream = (s.testSet b).stream := by rw [hstop.self]; rfl
  unfold State.applyStep
  simp only [hstream, decide_eq_true hr, if_neg hr]
  generalize s.stopStepTimers b = v at *
  obtain ⟨f, range, hask⟩ := State.askSource_setIs hstop st (st.rampStart (v.period b) true) (st.slope : Int)
  generalize v.askSource b st (st.rampStart (v.period b) true) (st.slope : Int) = w at *
  have hopen : ∃ sent, State.SetIs s (if (!(s.testSet b).stream) = true then w.sendStream b true else w) b sent
      ∧ TestSet.Asked (s.testSet b) sent := by
    split
    · exact ⟨_, (hask.then _).then _, rfl, rfl, rfl, rfl, rfl, rfl, rfl, rfl⟩
    · next hs => exact ⟨_, hask, rfl, rfl, rfl, rfl, rfl, eq_true_of_ne_false (b := (s.testSet b).stream) fun h => hs (by rw [h]; rfl), rfl, rfl⟩
  generalize (if (!(s.testSet b).stream) = true then w.sendStream b true else w) = z at *
  obtain ⟨sent, hset, hasked⟩ := hopen
  obtain ⟨sets, hz⟩ := hset.1
  have hrun : z.run b = some x := by rw [hz]; exact hx
  refine ⟨by rw [hz]; exact ⟨_, _, rfl⟩, ?_, ?_, fun k hk => (hset.2 k).trans (if_neg hk)⟩
  · rw [State.run_updRun, if_pos rfl, hrun]
    rfl
  · exact (show z.testSet b = sent from hset.self) ▸ hasked

/-! ### Steps passed over -/

/-- Only runs differ. -/
def State.RunOnly (s t : State) : Prop := ∃ runs, t = { s with ms := { s.ms with runs := runs } }

theorem State.RunOnly.refl (s : State) : State.RunOnly s s := ⟨_, rfl⟩

theorem State.RunOnly.trans (h : State.RunOnly s t) (k : State.RunOnly t u) : State.RunOnly s u := by
  obtain ⟨_, rfl⟩ := h
  obtain ⟨_, rfl⟩ := k
  exact ⟨_, rfl⟩

/-- Run y is run x but for what a step under way writes, with further results. -/
structure Run.Goes (x y : Run) (more : List StepResult) : Prop where
  programme : y.programme = x.programme
  start : y.start = x.start
  results : y.results = x.results ++ more

theorem Run.Goes.refl (x : Run) : Run.Goes x x [] := ⟨rfl, rfl, (List.append_nil _).symm⟩

theorem Run.Goes.trans {z : Run} {l m : List StepResult} (h : Run.Goes x y l) (k : Run.Goes y z m) : Run.Goes x z (l ++ m) :=
  ⟨k.programme.trans h.programme, k.start.trans h.start, by rw [k.results, h.results, List.append_assoc]⟩

/-- The results of m steps from number k on, passed over VOID_RANGE. -/
def Ms.voids (m : Ms) (p : Programme) (k n : Nat) : List StepResult :=
  (List.range n).filterMap fun i => (m.stepOf p (k + i)).map fun st => voidAs (k + i) st { voidRange := true }

theorem Ms.voids_succ {m : Ms} {k : Nat} {st : Step} (h : m.stepOf p k = some st) (n : Nat) :
    m.voids p k (n + 1) = voidAs k st { voidRange := true } :: m.voids p (k + 1) n := by
  have hshift (i : Nat) : k + Nat.succ i = k + 1 + i := by omega
  unfold Ms.voids
  rw [List.range_succ_eq_map, List.filterMap_cons, List.filterMap_map, Nat.add_zero, h]
  refine congrArg (List.cons _) (List.filterMap_congr fun i _ => ?_)
  rw [Function.comp_apply, hshift]

theorem Ms.passedOver_eq (m : Ms) (p : Programme) (k j : Nat) : m.passedOver p k j = m.voids p (k + 1) (j - k - 1) := rfl

/-- The steps passed over leave the run at the step after them. -/
theorem State.beginSteps_passes (b : Nat) (p : Programme) (n m k : Nat) {s : State} {x : Run} (hx : s.run b = some x)
    (hvoid : ∀ i, k ≤ i → i < k + m → ∃ st, s.ms.stepOf p i = some st ∧ s.stepVoid b st = true) :
    ∃ u y, State.RunOnly s u ∧ u.run b = some y ∧ Run.Goes x y (s.ms.voids p k m)
      ∧ State.beginSteps b p (m + n) k s = State.beginSteps b p n (k + m) u := by
  induction m generalizing k s x with
  | zero => exact ⟨s, x, .refl s, hx, .refl x, by rw [Nat.zero_add, Nat.add_zero]⟩
  | succ m ih =>
    obtain ⟨st, hst, hv⟩ := hvoid k (Nat.le_refl k) (by omega)
    generalize hw : (s.updRun b fun r => { r with step := k, retryUsed := false, ramp := .none }).record b
      (voidResult k st { voidRange := true }) = w
    have hwonly : State.RunOnly s w := by rw [← hw]; exact ⟨_, rfl⟩
    obtain ⟨y, hy, hgoes⟩ : ∃ y, w.run b = some y ∧ Run.Goes x y [voidAs k st { voidRange := true }] := by
      refine ⟨{ x with
        step := k, retryUsed := false, ramp := .none, working := {}, held := none
        results := x.results ++ [voidResult k st { voidRange := true }] }, ?_, rfl, rfl, rfl⟩
      rw [← hw, State.record, State.run_updRun, if_pos rfl, State.run_updRun, if_pos rfl, hx]
      rfl
    have hnext : State.beginSteps b p (m + 1 + n) k s = State.beginSteps b p (m + n) (k + 1) w := by
      have hle : m + 1 + n = (m + n) + 1 := by omega
      rw [hle, State.beginSteps, hst]
      dsimp only
      rw [hw]
      exact if_pos hv
    obtain ⟨_, hruns⟩ := hwonly
    obtain ⟨u, z, huonly, hz, hzgoes, hbegin⟩ := ih (k + 1) (s := w) hy fun i hi hlt => by
      obtain ⟨st', hst', hv'⟩ := hvoid i (by omega) (by omega)
      exact ⟨st', by rw [hruns]; exact hst', by rw [hruns]; exact hv'⟩
    refine ⟨u, z, State.RunOnly.trans ⟨_, hruns⟩ huonly, hz, ?_, ?_⟩
    · rw [Ms.voids_succ hst]
      have hms : w.ms.voids p (k + 1) m = s.ms.voids p (k + 1) m := by rw [hruns]; rfl
      rw [← hms]
      exact hgoes.trans hzgoes
    · rw [hnext, hbegin]
      congr 1
      omega

/-- The first step that can be run enters APPLY. -/
theorem State.beginSteps_enters (b : Nat) (p : Programme) (n m k : Nat) {s : State} {x : Run} {st : Step} (hx : s.run b = some x)
    (hvoid : ∀ i, k ≤ i → i < k + m → ∃ st, s.ms.stepOf p i = some st ∧ s.stepVoid b st = true)
    (hst : s.ms.stepOf p (k + m) = some st) (hrun : s.stepVoid b st = false) :
    (State.beginSteps b p (m + (n + 1)) k s).2 = true
      ∧ State.StepApplied b s (State.beginSteps b p (m + (n + 1)) k s).1
        (x.entering (k + m) st.kind (x.results ++ s.ms.voids p k m) (!(s.testSet b).stream)) := by
  obtain ⟨u, y, ⟨runs, hu⟩, hy, hgoes, hbegin⟩ := State.beginSteps_passes b p (n + 1) m k hx hvoid
  have hustep : u.ms.stepOf p (k + m) = some st := by rw [hu]; exact hst
  have huvoid : u.stepVoid b st = false := by rw [hu]; exact hrun
  rw [hbegin, State.beginSteps, hustep]
  dsimp only
  generalize hw : (u.updRun b fun r => { r with step := k + m, retryUsed := false, ramp := .none }) = w
  have hwrun : w.run b = some { y with step := k + m, retryUsed := false, ramp := .none } := by
    rw [← hw, State.run_updRun, if_pos rfl, hy]
    rfl
  have hwvoid : w.stepVoid b st = false := by rw [← hw]; exact huvoid
  have hramp : st.firstRamp ≠ .down := by
    unfold Step.firstRamp
    split <;> exact nofun
  have happlied := State.applyStep_applied hwrun st hramp
  obtain ⟨runs', hwonly⟩ : State.RunOnly s w := State.RunOnly.trans ⟨_, hu⟩ (by rw [← hw]; exact ⟨_, rfl⟩)
  have hwset (i : Nat) : w.testSet i = s.testSet i := by rw [hwonly]; rfl
  rw [if_neg (by simp [hwvoid])]
  refine ⟨rfl, ?_, ?_, ?_, fun i hi => (happlied.others i hi).trans (hwset i)⟩
  · obtain ⟨_, _, ha⟩ := happlied.only
    rw [ha, hwonly]
    exact ⟨_, _, rfl⟩
  · rw [happlied.run, hwset]
    obtain ⟨hprogramme, hstart, hresults⟩ := hgoes
    rw [← hresults]
    simp only [Run.applying, Run.entering, Step.firstRamp, hprogramme, hstart]
  · rw [← hwset]
    exact happlied.testSet

/-- With no step left that can be run, none enters APPLY. -/
theorem State.beginSteps_ends (b : Nat) (p : Programme) (m k : Nat) {s : State} {x : Run} (hx : s.run b = some x)
    (hvoid : ∀ i, k ≤ i → i < k + m → ∃ st, s.ms.stepOf p i = some st ∧ s.stepVoid b st = true) :
    ∃ u y, State.RunOnly s u ∧ u.run b = some y ∧ Run.Goes x y (s.ms.voids p k m) ∧ State.beginSteps b p m k s = (u, false) := by
  obtain ⟨u, y, honly, hy, hgoes, hbegin⟩ := State.beginSteps_passes b p 0 m k hx hvoid
  exact ⟨u, y, honly, hy, hgoes, by rw [← Nat.add_zero m, hbegin]; rfl⟩

end Sys2Proof.Machine
end

section
/-! SUPPORT. The end of a run, with the run pending behind it (R75, R81, R82). -/

namespace Sys2Proof.Machine

variable {s₀ s t u v w : State} {b : Nat} {r : Request} {x y : Run} {p : Programme}

/-! ### What runs and their ends leave alone -/

theorem State.setRun_runWork (h : State.RunWork s₀ s) (b : Nat) (x : Option Run) : State.RunWork s₀ (s.setRun b x) :=
  State.updMs_runWork h _

theorem State.updRun_runWork (h : State.RunWork s₀ s) (b : Nat) (f : Run → Run) : State.RunWork s₀ (s.updRun b f) :=
  State.setRun_runWork h b _

@[simp] theorem State.applyStep_runWork (h : State.RunWork s₀ s) (b : Nat) (st : Step) (ramp : Ramp) :
    State.RunWork s₀ (s.applyStep b st ramp) := by
  have hask (v : State) (hv : State.RunWork s₀ v) (a c : Int) : State.RunWork s₀ (v.askSource b st a c) := by
    unfold State.askSource
    split <;> exact State.sendSource_runWork hv ..
  have hstop := State.stopStepTimers_runWork h b
  unfold State.applyStep
  dsimp only
  split
  · exact State.updRun_runWork (State.sendStream_runWork (hask _ hstop _ _) b true) b _
  · exact State.updRun_runWork (hask _ hstop _ _) b _

theorem State.beginSteps_runWork (b : Nat) (p : Programme) (n k : Nat) (h : State.RunWork s₀ s) :
    State.RunWork s₀ (State.beginSteps b p n k s).1 := by
  induction n generalizing k s with
  | zero => exact h
  | succ n ih =>
    unfold State.beginSteps
    split
    · exact h
    · dsimp only
      split
      · exact ih (k + 1) (State.updRun_runWork (State.updRun_runWork h b _) b _)
      · exact State.applyStep_runWork (State.updRun_runWork h b _) _ _ _

theorem State.startRun_runWork (h : State.RunWork s₀ s) (b p : Nat) : State.RunWork s₀ (s.startRun b p).1 := by
  unfold State.startRun
  dsimp only
  split
  · exact State.setRun_runWork h b _
  · exact State.beginSteps_runWork b _ _ _ (State.setRun_runWork h b _)

/-- Of the AC only slot b differs, and of the ports only what waits to go DOWN. -/
structure State.SlotWork (b : Nat) (s t : State) : Prop where
  rest : ∃ c m i sl, t =
    { s with
      core := c, ms := m
      htp := { s.htp with down := { s.htp.down with insertion := i } }
      ac := { s.ac with slots := sl } }
  other : ∀ k, k ≠ b → t.slot k = s.slot k

theorem State.SlotWork.trans (h : State.SlotWork b s t) (k : State.SlotWork b t u) : State.SlotWork b s u where
  rest := by
    obtain ⟨_, _, _, _, rfl⟩ := h.rest
    obtain ⟨_, _, _, _, rfl⟩ := k.rest
    exact ⟨_, _, _, _, rfl⟩
  other m hm := (k.other m hm).trans (h.other m hm)

theorem State.Ended.slotWork (h : State.Ended b s t) : State.SlotWork b s t where
  rest := by
    obtain ⟨_, _, _, rfl⟩ := h.only
    exact ⟨_, _, _, _, rfl⟩
  other := h.other

theorem State.RunWork.slotWork (h : State.RunWork s t) (b : Nat) : State.SlotWork b s t := (h.ended b).slotWork

theorem State.SlotWork.settled (h : State.SlotWork b s t) (hs : s.settled) : t.settled := by
  obtain ⟨_, _, _, _, rfl⟩ := h.rest
  exact hs

theorem State.SlotWork.queue (h : State.SlotWork b s t) : t.ac.queue = s.ac.queue := by
  obtain ⟨_, _, _, _, rfl⟩ := h.rest
  rfl

theorem State.updSlot_slotWork (s : State) (b : Nat) (f : Slot → Slot) : State.SlotWork b s (s.updSlot b f) :=
  ⟨⟨_, _, _, _, rfl⟩, fun k hk => (s.slot_updSlot b k f).trans (if_neg hk)⟩

theorem State.beginRelease_slotWork (s : State) (hb : b ∈ slotNumbers) (cause : Cause) : State.SlotWork b s (s.beginRelease b cause) where
  rest := by
    obtain ⟨_, _, h⟩ := s.beginRelease_eq b cause
    exact ⟨_, _, _, _, h⟩
  other k hk := (s.beginRelease_slot hb cause k).trans (if_neg hk)

theorem State.afterLastRun_slotWork (s : State) (hb : b ∈ slotNumbers) : State.SlotWork b s (s.afterLastRun b) := by
  unfold State.afterLastRun
  split
  · exact (State.RunWork.refl s).slotWork b
  · exact (s.markEnded_ended b).slotWork.trans (State.beginRelease_slotWork _ hb _)

theorem State.finishRun_slotWork (s : State) (hb : b ∈ slotNumbers) : State.SlotWork b s (s.finishRun b) := by
  unfold State.finishRun
  split
  · exact (State.RunWork.refl s).slotWork b
  · next x _ =>
    have hclose := (State.closeRun_runWork (.refl s) b (s.ownOutcome x)).slotWork b
    dsimp only
    split
    · exact hclose.trans (State.afterLastRun_slotWork _ hb)
    · next q _ =>
      have hstart := hclose.trans ((State.startRun_runWork (State.setPendingRun_runWork _ b none) b q).slotWork b)
      split
      · exact hstart
      · split
        · exact hstart
        · exact hstart.trans (((State.closeRun_runWork (.refl _) b _).slotWork b).trans (State.afterLastRun_slotWork _ hb))

theorem State.startRunNow_slotWork (s : State) (hb : b ∈ slotNumbers) (q : Nat) : State.SlotWork b s (s.startRunNow b q) := by
  have hstart := (State.startRun_runWork (.refl s) b q).slotWork b
  unfold State.startRunNow
  dsimp only
  split
  · exact hstart
  · exact hstart.trans (State.finishRun_slotWork _ hb)

theorem State.nextStep_slotWork (s : State) (hb : b ∈ slotNumbers) : State.SlotWork b s (s.nextStep b) := by
  unfold State.nextStep
  split
  · exact (State.RunWork.refl s).slotWork b
  · next x _ =>
    split
    · exact State.finishRun_slotWork s hb
    · next p _ =>
      have hsteps := (State.beginSteps_runWork b p (p.count - x.step) (x.step + 1) (.refl s)).slotWork b
      dsimp only
      split
      · exact hsteps
      · exact hsteps.trans (State.finishRun_slotWork _ hb)

/-! ### States that an ending run does not tell apart -/

/-- Two records of a set that agree in what the end of a run reads and sends. -/
structure TestSet.Alike (t u : TestSet) : Prop where
  state : u.state = t.state
  tag : u.tag = t.tag
  stream : u.stream = t.stream
  agreedKinds : u.agreedKinds = t.agreedKinds
  agreedRate : u.agreedRate = t.agreedRate
  msgs : u.sending.map (·.msg) = t.sending.map (·.msg)

/-- Two states that agree in what the end of a run of bus b reads: they differ in shelves, sets and runs. -/
structure State.RunAlike (b : Nat) (s v : State) : Prop where
  core : ∃ shelves sets, v.core = { s.core with shelves := shelves, sets := sets }
  ms : ∃ runs, v.ms = { s.ms with runs := runs }
  queue : v.ac.queue = s.ac.queue
  slot : ∀ k, v.slot k = s.slot k
  down : v.htp.down.insertion.length = s.htp.down.insertion.length
  testSet : TestSet.Alike (s.testSet b) (v.testSet b)

theorem State.stepVoid_of_alike (h : TestSet.Alike (s.testSet b) (v.testSet b)) (st : Step) : v.stepVoid b st = s.stepVoid b st := by
  unfold State.stepVoid State.period
  rw [h.agreedKinds, h.agreedRate]

theorem State.RunAlike.stepVoid (h : State.RunAlike b s v) (st : Step) : v.stepVoid b st = s.stepVoid b st :=
  State.stepVoid_of_alike h.testSet st

theorem State.RunAlike.stepsVoid (h : State.RunAlike b s v) {k j : Nat} (hs : s.stepsVoid b p k j) : v.stepsVoid b p k j := by
  obtain ⟨runs, hms⟩ := h.ms
  intro i hk hj
  obtain ⟨st, hst, hv⟩ := hs i hk hj
  exact ⟨st, by rw [hms]; exact hst, (h.stepVoid st).trans hv⟩

theorem State.RunAlike.madeReady (h : State.RunAlike b s v) (op : AccessOp) : v.madeReady op = s.madeReady op := by
  unfold State.madeReady
  rw [h.down]

theorem State.RunAlike.runClosed (h : State.RunAlike b s v) {q : Nat} {results : List StepResult} (hc : v.runClosed t b r q results) :
    s.runClosed t b r q results := by
  obtain ⟨runs, hms⟩ := h.ms
  obtain ⟨shelves, sets, hcore⟩ := h.core
  unfold State.runClosed State.line at hc
  rw [hms, hcore] at hc
  exact hc

theorem State.RunAlike.accessEnds (h : State.RunAlike b s v) (ha : v.accessEnds t b r) : s.accessEnds t b r := by
  unfold State.accessEnds at ha ⊢
  rw [h.slot, h.madeReady] at ha
  exact ha

theorem State.RunAlike.runEnds (h : State.RunAlike b s v) {q : Nat} {results : List StepResult} (he : v.runEnds t b r q results) :
    s.runEnds t b r q results := by
  obtain ⟨hqueue, hother, halone, hpending⟩ := he
  have hpend : v.pendingRun b = s.pendingRun b := by
    obtain ⟨runs, hms⟩ := h.ms
    unfold State.pendingRun
    rw [hms]
  have hprogramme (q : Nat) : v.ms.programme q = s.ms.programme q := by
    obtain ⟨runs, hms⟩ := h.ms
    rw [hms]
    rfl
  have hstepOf (p : Programme) (k : Nat) : v.ms.stepOf p k = s.ms.stepOf p k := by
    obtain ⟨runs, hms⟩ := h.ms
    rw [hms]
    rfl
  have hpassed (p : Programme) (j : Nat) : v.ms.passedOver p 0 j = s.ms.passedOver p 0 j := by
    obtain ⟨runs, hms⟩ := h.ms
    rw [hms]
    rfl
  refine ⟨hqueue.trans h.queue, fun k hk => (hother k hk).trans (h.slot k), fun hnone => ?_, fun q p hq hp hready j hj hvoid => ?_⟩
  · obtain ⟨hclosed, hends, hset⟩ := halone (hpend.trans hnone)
    refine ⟨h.runClosed hclosed, h.accessEnds hends, fun hready => ?_⟩
    have hset := hset (h.testSet.state.trans hready)
    rwa [h.testSet.msgs, h.testSet.tag] at hset
  · obtain ⟨henter, hover⟩ := hpending q p (hpend.trans hq) ((hprogramme q).trans hp) (h.testSet.state.trans hready) j hj (h.stepsVoid hvoid)
    rw [hpassed] at henter hover
    refine ⟨fun st hle hst hv => ?_, fun hlast => ?_⟩
    · obtain ⟨hclosed, hp, hslot, hrun⟩ := henter st hle ((hstepOf p j).trans hst) ((h.stepVoid st).trans hv)
      exact ⟨h.runClosed hclosed, hp, hslot.trans (h.slot b), hrun⟩
    · obtain ⟨u, hclosed, hsecond, hends⟩ := hover hlast
      exact ⟨u, h.runClosed hclosed, hsecond, h.accessEnds hends⟩

/-! ### A run ends by itself -/

/-- A later state with the same lines, tickets and RESULTs. -/
theorem State.runClosed_of_same {q : Nat} {results : List StepResult} (h : s.runClosed t b r q results) (htc : u.core.tc = t.core.tc)
    (hgm : u.core.gm = t.core.gm) (hl : ∀ l, u.line l = t.line l) (hr : u.ms.results = t.ms.results) : s.runClosed u b r q results := by
  unfold State.runClosed at h ⊢
  simp only [htc, hgm, hl, hr]
  exact h

theorem State.LastRunOver.accessEnds (h : State.LastRunOver b r w t) (hslot : w.slot b = s.slot b) (hhtp : w.htp = s.htp)
    (hrun : w.run b = none) (hpend : w.pendingRun b = none) : s.accessEnds t b r := by
  refine ⟨?_, ?_, ?_⟩
  · unfold State.run
    rw [h.ms]
    exact hrun
  · unfold State.pendingRun
    rw [h.ms]
    exact hpend
  · have hs := h.slot
    have hready : w.madeReady .release = s.madeReady .release := by
      unfold State.madeReady
      rw [hhtp]
    rwa [hslot, hready] at hs

theorem State.finishRun_alone (hx : s.run b = some x) (hp : s.pendingRun b = none) :
    s.finishRun b = (s.closeRun b (s.ownOutcome x)).afterLastRun b := by
  unfold State.finishRun
  simp only [hx, State.closeRun_pendingRun, hp]

/-- The run that was pending begins a step. -/
theorem State.finishRun_begins {q : Nat} (hx : s.run b = some x) (hp : s.pendingRun b = some q)
    (h : ((s.closeRun b (s.ownOutcome x)).setPendingRun b none).startRun b q = (u, true)) : s.finishRun b = u := by
  unfold State.finishRun
  simp only [hx, State.closeRun_pendingRun, hp, h, if_true]

/-- The run that was pending ends at its start. -/
theorem State.finishRun_again {q : Nat} (hx : s.run b = some x) (hp : s.pendingRun b = some q)
    (h : ((s.closeRun b (s.ownOutcome x)).setPendingRun b none).startRun b q = (u, false)) (hy : u.run b = some y) :
    s.finishRun b = (u.closeRun b (u.ownOutcome y)).afterLastRun b := by
  unfold State.finishRun
  simp only [hx, State.closeRun_pendingRun, hp, h, hy, Bool.false_eq_true, if_false]

/-- The run a programme starts with on a line. -/
def State.freshRun (s : State) (q l : Nat) : Run := { programme := q, start := (s.line l).channels }

theorem State.startRun_eq {q : Nat} (hr : (s.slot b).request = some r) (hp : s.ms.programme q = some p) :
    s.startRun b q = State.beginSteps b p p.count 1 (s.setRun b (some (s.freshRun q r.line))) := by
  have hms : (s.setRun b (some (s.freshRun q r.line))).ms.programme q = some p := hp
  unfold State.startRun
  rw [hr]
  dsimp only [Option.map_some, Option.getD_some]
  rw [← State.freshRun, hms]

/-- A closed run leaves a set whose steps are void as before. -/
theorem State.closeRun_stepVoid (hx : s.run b = some x) (hr : (s.slot b).request = some r) (o : RunOutcome) (st : Step) :
    (s.closeRun b o).stepVoid b st = s.stepVoid b st := by
  have hset := State.closeRun_testSet hx hr o
  have hrest : (s.testSet b).restarted.agreedKinds = (s.testSet b).agreedKinds ∧ (s.testSet b).restarted.agreedRate = (s.testSet b).agreedRate := by
    unfold TestSet.restarted
    split <;> exact ⟨rfl, rfl⟩
  have hkinds : ((s.closeRun b o).testSet b).agreedKinds = (s.testSet b).agreedKinds := (congrArg TestSet.agreedKinds hset :).trans hrest.1
  have hrate : ((s.closeRun b o).testSet b).agreedRate = (s.testSet b).agreedRate := (congrArg TestSet.agreedRate hset :).trans hrest.2
  unfold State.stepVoid State.period
  rw [hkinds, hrate]

theorem State.closeRun_tables (s : State) (b : Nat) (o : RunOutcome) :
    (∀ q, (s.closeRun b o).ms.programme q = s.ms.programme q) ∧ ∀ p k, (s.closeRun b o).ms.stepOf p k = s.ms.stepOf p k := by
  have hk := State.closeRun_kept (.refl s) b o
  refine ⟨fun q => ?_, fun p k => ?_⟩
  · unfold Ms.programme
    rw [hk.programmes]
  · unfold Ms.stepOf Ms.step
    rw [hk.steps]

/-- The run of bus b ends by itself: nothing is pending, or the pending run is started (R75, R81, R82). -/
theorem State.finishRun_ends (hb : b ∈ slotNumbers) (hx : s.run b = some x) (hr : (s.slot b).request = some r) :
    s.runEnds (s.finishRun b) b r x.programme x.results := by
  have hwork := s.finishRun_slotWork hb
  have hclosed := State.closeRun_closed hx hr
  have hclose := State.closeRun_runWork (.refl s) b (s.ownOutcome x)
  have hset := State.closeRun_testSet hx hr (s.ownOutcome x)
  have hrun : (s.closeRun b (s.ownOutcome x)).run b = none := (s.closeRun_run b b _).trans (if_pos rfl)
  have hpend := s.closeRun_pendingRun b b (s.ownOutcome x)
  have hvoid := State.closeRun_stepVoid hx hr (s.ownOutcome x)
  obtain ⟨hprogramme, hstepOf⟩ := s.closeRun_tables b (s.ownOutcome x)
  refine ⟨hwork.queue, hwork.other, fun hnone => ?_, fun q p hq hp hready j hj hsteps => ?_⟩
  · rw [State.finishRun_alone hx hnone]
    generalize s.closeRun b (s.ownOutcome x) = w at *
    have hwslot : w.slot b = s.slot b := hclose.slot b
    have hover := State.afterLastRun_over (s := w) hb (by rw [hwslot]; exact hr)
    refine ⟨State.runClosed_of_same hclosed (congrArg Core.tc hover.core) (congrArg Core.gm hover.core)
      (fun l => congrArg (fun c : Core => c.line l) hover.core) (congrArg Ms.results hover.ms),
      hover.accessEnds hwslot hclose.htp hrun (hpend.trans hnone), fun hready => ?_⟩
    have hsame : (w.afterLastRun b).testSet b = w.testSet b := by
      unfold State.testSet
      rw [hover.core]
    have hrest : (s.testSet b).restarted = (s.testSet b).stopped.turnedOff := if_pos hready
    rw [hrest] at hset
    rw [hsame]
    refine ⟨(congrArg TestSet.stream hset :), ?_⟩
    refine (congrArg (fun v : TestSet => v.sending.map (·.msg)) hset).trans ?_
    refine (TestSet.turnedOff_msgs _).trans ?_
    rw [(s.testSet b).stopped_unsent.msgs]
    rfl
  · obtain ⟨m, rfl⟩ : ∃ m, j = m + 1 := ⟨j - 1, by omega⟩
    generalize hcl : s.closeRun b (s.ownOutcome x) = w at *
    have hwslot : (w.setPendingRun b none).slot b = s.slot b := hclose.slot b
    have hstart := State.startRun_eq (s := w.setPendingRun b none) (b := b) (hwslot ▸ hr) ((hprogramme q).trans hp)
    generalize hz : (w.setPendingRun b none).setRun b (some ((w.setPendingRun b none).freshRun q r.line)) = z at hstart
    have hzrun : z.run b = some (w.freshRun q r.line) := by rw [← hz, State.run_setRun, if_pos rfl]; rfl
    have hzpend : z.pendingRun b = none := by rw [← hz, State.pendingRun_setRun, State.pendingRun_setPendingRun, if_pos rfl]
    have hzcore : z.core = w.core := by rw [← hz]; rfl
    have hzresults : z.ms.results = w.ms.results := by rw [← hz]; rfl
    have hzslot (k : Nat) : z.slot k = s.slot k := by rw [← hz]; exact hclose.slot k
    have hzhtp : z.htp = s.htp := by rw [← hz]; exact hclose.htp
    have hzstep (k : Nat) : z.ms.stepOf p k = s.ms.stepOf p k := by rw [← hz]; exact hstepOf p k
    have hzvoid (st : Step) : z.stepVoid b st = s.stepVoid b st := by rw [← hz]; exact hvoid st
    have hzvoids : z.ms.voids p 1 m = s.ms.voids p 1 m := by
      unfold Ms.voids
      simp only [hzstep]
    have hpass (i : Nat) (hi : 1 ≤ i) (hlt : i < 1 + m) : ∃ st, z.ms.stepOf p i = some st ∧ z.stepVoid b st = true := by
      obtain ⟨st, hst, hv⟩ := hsteps i (by omega) (by omega)
      exact ⟨st, (hzstep i).trans hst, (hzvoid st).trans hv⟩
    have hcloses {t' : State} (hcore : t'.core.tc = w.core.tc ∧ t'.core.gm = w.core.gm ∧ ∀ l, t'.line l = w.line l)
        (hres : t'.ms.results = w.ms.results) : s.runClosed t' b r x.programme x.results :=
      State.runClosed_of_same hclosed hcore.1 hcore.2.1 hcore.2.2 hres
    refine ⟨fun st hle hst hv => ?_, fun hlast => ?_⟩
    · obtain ⟨n, hn⟩ : ∃ n, p.count = m + (n + 1) := ⟨p.count - (m + 1), by omega⟩
      obtain ⟨hbegun, happlied⟩ := State.beginSteps_enters b p n m 1 hzrun hpass ((hzstep _).trans (by rw [Nat.add_comm]; exact hst))
        ((hzvoid st).trans hv)
      rw [← hn, ← hstart] at hbegun happlied
      have hfinish := State.finishRun_begins (u := ((w.setPendingRun b none).startRun b q).1) hx hq (by rw [hcl, ← hbegun])
      rw [hfinish]
      generalize ((w.setPendingRun b none).startRun b q).1 = t at *
      obtain ⟨sets, runs, ht⟩ := happlied.only
      have htline (l : Nat) : t.line l = w.line l := by
        rw [ht]
        exact (congrArg (fun c : Core => c.line l) hzcore :)
      have hstream : (z.testSet b).stream = false := by
        have hrest : (s.testSet b).restarted = (s.testSet b).stopped.turnedOff := if_pos hready
        rw [hrest] at hset
        have hzset : z.testSet b = w.testSet b := congrArg (fun c : Core => c.testSet b) hzcore
        rw [hzset]
        exact (congrArg TestSet.stream hset :)
      refine ⟨hcloses ⟨?_, ?_, htline⟩ ?_, ?_, ?_, ?_⟩
      · rw [ht, ← hzcore]
      · rw [ht, ← hzcore]
      · rw [ht, ← hzresults]
      · rw [ht]; exact hzpend
      · rw [ht]; exact hzslot b
      · rw [happlied.run, hstream, htline, hzvoids, Nat.add_comm 1 m]
        rfl
    · obtain rfl : m = p.count := by omega
      obtain ⟨u, y, ⟨runs, hu⟩, hy, hgoes, hbegin⟩ := State.beginSteps_ends b p p.count 1 hzrun hpass
      rw [← hstart] at hbegin
      have hfinish := State.finishRun_again hx hq (by rw [hcl]; exact hbegin) hy
      have huslot : (u.slot b).request = some r := by rw [hu]; exact (congrArg Slot.request (hzslot b)).trans hr
      have hsecond := State.closeRun_closed hy huslot
      have hclose' := State.closeRun_runWork (.refl u) b (u.ownOutcome y)
      have hrun' : (u.closeRun b (u.ownOutcome y)).run b = none := (u.closeRun_run b b _).trans (if_pos rfl)
      have hpend' := u.closeRun_pendingRun b b (u.ownOutcome y)
      rw [hfinish]
      generalize u.closeRun b (u.ownOutcome y) = w' at *
      have hwslot' : w'.slot b = s.slot b := (hclose'.slot b).trans (by rw [hu]; exact hzslot b)
      have hover := State.afterLastRun_over (s := w') hb (by rw [hwslot']; exact hr)
      have hyprog : y.programme = q := hgoes.programme
      have hyres : y.results = s.ms.voids p 1 p.count := hgoes.results.trans (by rw [hzvoids]; rfl)
      rw [hyprog, hyres] at hsecond
      refine ⟨u, hcloses ⟨?_, ?_, fun l => ?_⟩ ?_, ?_, ?_⟩
      · rw [hu, ← hzcore]
      · rw [hu, ← hzcore]
      · rw [hu]; exact congrArg (fun c : Core => c.line l) hzcore
      · rw [hu, ← hzresults]
      · exact State.runClosed_of_same hsecond (congrArg Core.tc hover.core) (congrArg Core.gm hover.core)
          (fun l => congrArg (fun c : Core => c.line l) hover.core) (congrArg Ms.results hover.ms)
      · refine hover.accessEnds hwslot' ?_ hrun' ?_
        · rw [hclose'.htp, hu]
          exact hzhtp
        · rw [hpend', hu]
          exact hzpend

end Sys2Proof.Machine
end

section
/-! SUPPORT. What follows a step's result or a run's start (R73, R76, R80). -/

namespace Sys2Proof.Machine

variable {s t u v : State} {b : Nat} {r : Request} {x y : Run} {p : Programme}

theorem State.RunOnly.alike (h : State.RunOnly s v) (b : Nat) : State.RunAlike b s v := by
  obtain ⟨runs, rfl⟩ := h
  exact ⟨⟨_, _, rfl⟩, ⟨_, rfl⟩, rfl, fun _ => rfl, rfl, rfl, rfl, rfl, rfl, rfl, rfl⟩

theorem State.RunAlike.stepsFollow (h : State.RunAlike b s v) {results : List StepResult} (hf : v.stepsFollow t b r x p results) :
    s.stepsFollow t b r x p results := by
  intro j hj hvoid
  obtain ⟨henter, hover⟩ := hf j hj (h.stepsVoid hvoid)
  obtain ⟨runs, hms⟩ := h.ms
  obtain ⟨shelves, sets, hcore⟩ := h.core
  have hstepOf (k : Nat) : v.ms.stepOf p k = s.ms.stepOf p k := by
    rw [hms]
    rfl
  have hpassed : v.ms.passedOver p x.step j = s.ms.passedOver p x.step j := by
    rw [hms]
    rfl
  have hpend : v.pendingRun b = s.pendingRun b := by
    unfold State.pendingRun
    rw [hms]
  rw [hpassed] at henter hover
  refine ⟨fun st hle hst hv => ?_, fun hlast => h.runEnds (hover hlast)⟩
  obtain ⟨hrun, htag, hstream, hresults, hlines, htc, hqueue, hslot, hp⟩ := henter st hle ((hstepOf j).trans hst) ((h.stepVoid st).trans hv)
  refine ⟨by rw [hrun, h.testSet.stream], by rw [htag, h.testSet.tag], hstream, by rw [hresults, hms], by rw [hlines, hcore], by rw [htc, hcore],
    hqueue.trans h.queue, fun k => (hslot k).trans (h.slot k), hp.trans hpend⟩

theorem Run.entering_congr (hp : y.programme = x.programme) (hs : y.start = x.start) (k : Nat) (kind : Kind) (results : List StepResult)
    (opener : Bool) : y.entering k kind results opener = x.entering k kind results opener := by
  simp only [Run.entering, hp, hs]

/-- The steps that begin, or the end of the run where none can. -/
def State.stepsOn (s : State) (b : Nat) (p : Programme) (n k : Nat) : State :=
  if (State.beginSteps b p n k s).2 then (State.beginSteps b p n k s).1 else (State.beginSteps b p n k s).1.finishRun b

/-- From the step after number x.step on (R76, R80, R81). -/
theorem State.stepsOn_follow (hb : b ∈ slotNumbers) (hy : s.run b = some y) (hr : (s.slot b).request = some r)
    (hprogramme : y.programme = x.programme) (hstart : y.start = x.start) (p : Programme) :
    s.stepsFollow (s.stepsOn b p (p.count - x.step) (x.step + 1)) b r x p y.results := by
  intro j hj hsteps
  obtain ⟨m, rfl⟩ : ∃ m, j = x.step + 1 + m := ⟨j - (x.step + 1), by omega⟩
  have hpassed : s.ms.passedOver p x.step (x.step + 1 + m) = s.ms.voids p (x.step + 1) m := by
    rw [Ms.passedOver_eq, show x.step + 1 + m - x.step - 1 = m by omega]
  have hpass (i : Nat) (hi : x.step + 1 ≤ i) (hlt : i < x.step + 1 + m) := hsteps i (by omega) hlt
  rw [hpassed]
  refine ⟨fun st hle hst hv => ?_, fun hlast => ?_⟩
  · obtain ⟨n, hn⟩ : ∃ n, p.count - x.step = m + (n + 1) := ⟨p.count - x.step - m - 1, by omega⟩
    obtain ⟨hbegun, happlied⟩ := State.beginSteps_enters b p n m (x.step + 1) hy hpass hst hv
    unfold State.stepsOn
    rw [hn, if_pos hbegun]
    generalize (State.beginSteps b p (m + (n + 1)) (x.step + 1) s).1 = t at *
    obtain ⟨sets, runs, ht⟩ := happlied.only
    refine ⟨by rw [happlied.run, Run.entering_congr hprogramme hstart], happlied.testSet.tag, happlied.testSet.stream, ?_⟩
    rw [ht]
    exact ⟨rfl, rfl, rfl, rfl, fun _ => rfl, rfl⟩
  · have hm : p.count - x.step = m := by omega
    obtain ⟨u, z, honly, hz, hgoes, hbegin⟩ := State.beginSteps_ends b p m (x.step + 1) hy hpass
    unfold State.stepsOn
    rw [hm, hbegin]
    have huslot : (u.slot b).request = some r := by
      obtain ⟨_, rfl⟩ := honly
      exact hr
    have hends := State.finishRun_ends hb hz huslot
    rw [hgoes.programme, hprogramme, hgoes.results] at hends
    exact (honly.alike b).runEnds hends

theorem State.nextStep_eq (hx : s.run b = some x) (hp : s.ms.programme x.programme = some p) :
    s.nextStep b = s.stepsOn b p (p.count - x.step) (x.step + 1) := by
  unfold State.nextStep State.stepsOn
  simp only [hx, hp]

/-- After a step's result (R80). -/
theorem State.nextStep_follow (hb : b ∈ slotNumbers) (hx : s.run b = some x) (hr : (s.slot b).request = some r)
    (hp : s.ms.programme x.programme = some p) : s.stepsFollow (s.nextStep b) b r x p x.results := by
  rw [State.nextStep_eq hx hp]
  exact State.stepsOn_follow hb hx hr rfl rfl p

/-- At the start of a run (R73). -/
theorem State.startRunNow_follow (hb : b ∈ slotNumbers) (hr : (s.slot b).request = some r) {q : Nat} (hp : s.ms.programme q = some p) :
    s.stepsFollow (s.startRunNow b q) b r { programme := q, step := 0, start := (s.line r.line).channels } p [] := by
  have heq : s.startRunNow b q = (s.setRun b (some (s.freshRun q r.line))).stepsOn b p (p.count - 0) (0 + 1) := by
    unfold State.startRunNow State.stepsOn
    rw [State.startRun_eq hr hp]
    rfl
  have hz : (s.setRun b (some (s.freshRun q r.line))).run b = some (s.freshRun q r.line) := by rw [State.run_setRun, if_pos rfl]
  have honly : State.RunOnly s (s.setRun b (some (s.freshRun q r.line))) := ⟨_, rfl⟩
  rw [heq]
  exact (honly.alike b).stepsFollow (State.stepsOn_follow (x := { programme := q, step := 0, start := (s.line r.line).channels }) hb hz hr rfl rfl p)

/-- A run of an empty programme ends at its start (R73). -/
theorem State.startRunNow_empty (hb : b ∈ slotNumbers) (hr : (s.slot b).request = some r) {q : Nat} (hp : s.ms.programme q = none) :
    s.runEnds (s.startRunNow b q) b r q [] := by
  have hstart : s.startRun b q = (s.setRun b (some (s.freshRun q r.line)), false) := by
    have hms : (s.setRun b (some (s.freshRun q r.line))).ms.programme q = none := hp
    unfold State.startRun
    rw [hr]
    dsimp only [Option.map_some, Option.getD_some]
    rw [← State.freshRun, hms]
  have heq : s.startRunNow b q = (s.setRun b (some (s.freshRun q r.line))).finishRun b := by
    unfold State.startRunNow
    rw [hstart]
    rfl
  have hz : (s.setRun b (some (s.freshRun q r.line))).run b = some (s.freshRun q r.line) := by rw [State.run_setRun, if_pos rfl]
  have honly : State.RunOnly s (s.setRun b (some (s.freshRun q r.line))) := ⟨_, rfl⟩
  rw [heq]
  exact (honly.alike b).runEnds (State.finishRun_ends hb hz hr)

end Sys2Proof.Machine
end

section
/-! SUPPORT. ACCESS_CONFIRM frames, and orders that fail (R28, R29, R158). -/

namespace Sys2Proof.Machine

variable {s t : State} {o : AccessOwner} {op : AccessOp} {shelf bus : Nat} {fault : Bool}

/-- A frame of three payload octets to a station is good, as it stands. -/
theorem goodFrame_three {d src : Nat} (hd : d ≤ 127) (k a b c : Byte) :
    goodFrame (highwayFrame d src k [a, b, c]) = true ∧ frameOctets (highwayFrame d src k [a, b, c]) = highwayFrame d src k [a, b, c]
      ∧ framePayload (highwayFrame d src k [a, b, c]) = [a, b, c] := by
  refine ⟨?_, rfl, rfl⟩
  have hdest : d % 256 ≤ 127 := by omega
  simp [goodFrame, highwayFrame, completeSize, byte, hdest]

/-- The ACCESS_CONFIRM of a shelf comes to the AC (R28, R159). -/
theorem State.frameEnd_confirm (h : s.Hears) (hshelf : shelf < 64) (hbus : bus < 4) (op : AccessOp) (fault : Bool) :
    s.frameEnd .down (s.confirmFrame shelf op bus fault) none = (s.accessConfirm (shelf + 1) op bus (!fault)).setReceiver .down .hunting := by
  have hsmall (n : Nat) (hn : n < 256) : (byte n).toNat = n := by
    show (BitVec.ofNat 8 n).toNat = n
    rw [BitVec.toNat_ofNat, Nat.mod_eq_of_lt hn]
  have hstation := h.station
  obtain ⟨hgood, hoctets, hpayload⟩ := goodFrame_three (d := s.core.oh.station) (src := shelf + 1) (by omega) kindAccessConfirm
    (byte op.code) (byte bus) (if fault then 1 else 0)
  have hframe : s.confirmFrame shelf op bus fault = highwayFrame s.core.oh.station (shelf + 1) kindAccessConfirm
      [byte op.code, byte bus, if fault then 1 else 0] := rfl
  have hleft : s.leftOver .down (s.confirmFrame shelf op bus fault) = [] := by
    unfold State.leftOver
    rw [h.hunting]
  have hop : accessOpOfCode (byte op.code).toNat = some op := by cases op <;> rfl
  have hresult : boolOfCode ((if fault then 1 else 0 : Byte)).toNat = some fault := by cases fault <;> rfl
  have hconsume : s.consume .down (s.confirmFrame shelf op bus fault) = s.accessConfirm (shelf + 1) op bus (!fault) := by
    have htake : s.consume .down (s.confirmFrame shelf op bus fault) =
        s.takeConfirm (byte (shelf + 1)).toNat (framePayload (s.confirmFrame shelf op bus fault)) := rfl
    rw [htake, hframe, hpayload, hsmall (shelf + 1) (by omega)]
    unfold State.takeConfirm
    simp only [hop, hresult, hsmall bus (by omega)]
  have hends : s.frameEnds .down (s.confirmFrame shelf op bus fault) = s.accessConfirm (shelf + 1) op bus (!fault) := by
    have hne : s.confirmFrame shelf op bus fault ≠ [] := nofun
    have hdest : ((s.confirmFrame shelf op bus fault).getD 0 0).toNat = s.core.oh.station := hsmall s.core.oh.station (by omega)
    unfold State.frameEnds
    rw [if_neg hne, if_pos (hframe ▸ hgood), if_pos hdest, hconsume]
  unfold State.frameEnd
  rw [hleft, show s.frameEnds .down [] = s from if_pos rfl, hframe, hoctets, ← hframe, hends]

/-- The transaction of an owner is outstanding for its shelf, operation and bus. -/
theorem State.outstanding_slot {b : Fin 4} {l : Nat} {due : Option Nat} (hop : op ≠ .releaseAll) (hstate : (s.slot b.val).state ≠ .free)
    (hline : (s.slot b.val).line = some l) (ho : (s.slot b.val).order = .placed op due) :
    s.outstanding (shelfOf l) op b.val = some (.slot b) := by
  have hon : (s.slot b.val).onShelf (shelfOf l) = true := by
    unfold Slot.onShelf
    rw [hline]
    simp [hstate]
  have howner : slotOwner b.val = .slot b := by
    unfold slotOwner
    congr
    exact Nat.mod_eq_of_lt b.isLt
  unfold State.outstanding
  cases op with
  | releaseAll => exact absurd rfl hop
  | operate => simp only [hon, ho, b.isLt, and_self, if_true, howner]
  | release => simp only [hon, ho, b.isLt, and_self, if_true, howner]

theorem State.outstanding_shelf {n : Fin 64} {due : Option Nat} (ho : (s.shelf n.val).order = .placed .releaseAll due) :
    s.outstanding n.val .releaseAll bus = some (.shelf n) := by
  have howner : shelfOwner n.val = .shelf n := by
    unfold shelfOwner
    congr
    exact Nat.mod_eq_of_lt n.isLt
  unfold State.outstanding
  simp only [ho, howner]

/-- A confirm that ends its transaction leaves the receiver hunting. -/
theorem State.frameEnd_ends (h : s.Hears) (hshelf : shelf < 64) (hbus : bus < 4) (ho : s.outstanding shelf op bus = some o) (fault : Bool) :
    s.frameEnd .down (s.confirmFrame shelf op bus fault) none = s.transactionEnds o op (!fault) := by
  have hconfirm : s.accessConfirm (shelf + 1) op bus (!fault) = s.transactionEnds o op (!fault) := by
    unfold State.accessConfirm
    rw [if_pos ⟨by omega, by omega⟩, Nat.add_sub_cancel, ho]
  have hhunts : (s.transactionEnds o op (!fault)).htp.downReceiver = .hunting :=
    (State.transactionEnds_kept (.refl s) o op (!fault)).downReceiver.trans h.hunting
  rw [State.frameEnd_confirm h hshelf hbus, hconfirm]
  generalize s.transactionEnds o op (!fault) = t at hhunts
  unfold State.setReceiver State.updHtp
  dsimp only
  rw [← hhunts]

/-- The step of a confirm that ends its transaction. -/
theorem exec_confirm (h : s.Hears) (hshelf : shelf < 64) (hbus : bus < 4) (ho : s.outstanding shelf op bus = some o) (fault : Bool) :
    exec (.frameEnd .down (s.confirmFrame shelf op bus fault) none) s = .next (s.transactionEnds o op (!fault)).finish := by
  rw [← State.frameEnd_ends h hshelf hbus ho fault]
  exact State.command_of_live h.quiet.live _

/-- The step of a command with which an outstanding order fails. -/
theorem exec_fails {i : Instr} (hq : s.Quiet) (hshelf : shelf < 64) (hbus : bus < 4) (hf : s.fails o op shelf bus i)
    (hout : ∀ due, s.order o = .placed op due → s.outstanding shelf op bus = some o) :
    exec i s = .next (s.transactionEnds o op false).finish := by
  rcases hf with ⟨rfl, due, ho, hdue⟩ | ⟨rfl, hears, due, ho⟩
  · have hexpires : s.confirmExpires o = s.transactionEnds o op false := by
      unfold State.confirmExpires
      rw [ho]
      exact if_pos (decide_eq_true hdue)
    rw [← hexpires]
    exact State.command_of_live hq.live _
  · exact exec_confirm hears hshelf hbus (hout due ho) true

/-- The order that fails was placed. -/
theorem State.fails.placed {i : Instr} (h : s.fails o op shelf bus i) : ∃ due, s.order o = .placed op due := by
  rcases h with ⟨-, due, ho, -⟩ | ⟨-, -, due, ho⟩
  · exact ⟨_, ho⟩
  · exact ⟨_, ho⟩

end Sys2Proof.Machine
end

section
/-! SUPPORT. A relay transaction that is over, and the failures a shelf counts (R28, R29, R31). -/

namespace Sys2Proof.Machine

variable {s t u v : State} {b n : Nat} {h : ShelfRec} {r : Request} {cause : Cause}

/-! ### What a request's ending leaves of the shelves -/

theorem State.returnRetest_shelf (s : State) (r : Request) (p : Bool) (n : Nat) :
    ((s.returnRetest r p).shelf n).sansTicket = (s.shelf n).sansTicket := by
  unfold State.returnRetest
  split
  · split <;> rfl
  · split <;> rfl
  · exact (Core.retestReturned_work (.refl s.core) r p).shelf n
  · exact (Core.retestReturned_work (.refl s.core) r p).shelf n
  · rfl

theorem State.endRequest_shelf (s : State) (r : Request) (bus : Option Nat) (e : Ending) (n : Nat) :
    ((s.endRequest r bus e).shelf n).sansTicket = (s.shelf n).sansTicket := by
  unfold State.endRequest
  split
  case h_4 | h_5 => exact s.returnRetest_shelf r _ n
  all_goals rfl

theorem State.endSlotRequest_shelf (s : State) (b : Nat) (e : Ending) (n : Nat) :
    ((s.endSlotRequest b e).shelf n).sansTicket = (s.shelf n).sansTicket := by
  unfold State.endSlotRequest
  repeat' split
  · rfl
  · rfl
  · exact State.endRequest_shelf (s.markEnded b) ..

/-! ### An order that is over -/

/-- The order of slot b is over, and shelf n's record is h. -/
structure State.OrderOver (b n : Nat) (h : ShelfRec) (s t : State) : Prop where
  rest : ∃ shelves insertion sending slots, t =
    { s with
      core := { s.core with shelves := shelves }
      htp := { s.htp with down := { s.htp.down with insertion := insertion, sending := sending } }
      ac := { s.ac with slots := slots } }
  octets : t.htp.down.insertion.map (·.octets) = s.htp.down.insertion.map (·.octets)
  slot : ∀ k, t.slot k = if k = b then { s.slot b with order := .idle } else s.slot k
  shelf : ∀ k, t.shelf k = if k = n then h else s.shelf k

theorem State.endOrder_over (s : State) (hb : b ∈ slotNumbers) (n : Nat) (f : ShelfRec → ShelfRec) :
    State.OrderOver b n (f (s.shelf n)) s ((s.endOrder (slotOwner b)).updShelf n f) where
  rest := by
    rw [slotOwner_val hb]
    exact ⟨_, _, _, _, rfl⟩
  octets := s.endOrder_octets (slotOwner b)
  slot k := s.endOrder_slot hb k
  shelf k := by
    rw [State.shelf_updShelf, slotOwner_val hb]
    rfl

theorem State.OrderOver.settled (ho : State.OrderOver b n h s t) (hs : s.settled) : t.settled := by
  obtain ⟨_, _, _, _, rfl⟩ := ho.rest
  exact hs

theorem State.OrderOver.madeReady (ho : State.OrderOver b n h s t) (op : AccessOp) : t.madeReady op = s.madeReady op := by
  have hlength := congrArg List.length ho.octets
  rw [List.length_map, List.length_map] at hlength
  unfold State.madeReady
  rw [hlength]

/-- What a slot's transaction leaves alone. -/
theorem State.OrderOver.same (ho : State.OrderOver b n h s t) :
    t.ac.queue = s.ac.queue ∧ t.htp.up = s.htp.up ∧ t.ms = s.ms ∧ t.core.tc = s.core.tc ∧ t.core.lines = s.core.lines := by
  obtain ⟨_, _, _, _, rfl⟩ := ho.rest
  exact ⟨rfl, rfl, rfl, rfl, rfl⟩

/-- A failure counted below the third (R29). -/
theorem State.countFailure_low (h : (s.shelf n).failures ≤ 1) :
    s.countFailure n = s.updShelf n fun q => { q with failures := satSucc 3 q.failures } := by
  have hcount : ((s.updShelf n fun q => { q with failures := satSucc 3 q.failures }).shelf n).failures = satSucc 3 (s.shelf n).failures := by
    rw [State.shelf_updShelf, if_pos rfl]
  have hlow : satSucc 3 (s.shelf n).failures ≠ 3 := by
    unfold satSucc
    split <;> omega
  unfold State.countFailure
  exact if_neg fun hc => hlow (hcount.symm.trans hc.1)

theorem satSucc_of_lt {g n : Nat} (h : n < g) : satSucc g n = n + 1 := if_pos h

/-! ### A slot begins to release -/

/-- Slot b is RELEASING with this cause, as its request ends or has ended. -/
structure State.Departs (b : Nat) (cause : Cause) (s t : State) : Prop where
  slot : ∃ e, t.slot b = { (s.slot b).releasing cause (s.madeReady .release) with mark := none, ended := e }
  other : ∀ k, k ≠ b → t.slot k = s.slot k
  queue : t.ac.queue = s.ac.queue
  up : t.htp.up = s.htp.up
  settled : s.settled → t.settled
  shelf : ∀ k, (t.shelf k).sansTicket = (s.shelf k).sansTicket

/-- A marked slot releases with the cause of its mark (R44–R46). -/
theorem State.unmark_departs (s : State) (hb : b ∈ slotNumbers) (cause : Cause) :
    State.Departs b cause s ((s.updSlot b fun q => { q with mark := none }).beginRelease b cause) where
  slot := ⟨(s.slot b).ended, by
    rw [State.beginRelease_slot _ hb, if_pos rfl, State.slot_updSlot, if_pos rfl]
    rfl⟩
  other k hk := by rw [State.beginRelease_slot _ hb, if_neg hk, State.slot_updSlot, if_neg hk]
  queue := State.beginRelease_queue ..
  up := State.beginRelease_up ..
  settled hs := State.beginRelease_settled (s := s.updSlot b _) hs b cause
  shelf k := by
    unfold State.shelf
    rw [State.beginRelease_core]
    rfl

/-- An unmarked slot's request ends and the slot releases. -/
theorem State.endSlotRequest_departs (s : State) (hb : b ∈ slotNumbers) (hm : (s.slot b).mark = none) (e : Ending) (cause : Cause) :
    State.Departs b cause s ((s.endSlotRequest b e).beginRelease b cause) := by
  have hended := s.endSlotRequest_ended b e
  refine ⟨?_, fun k hk => ?_, (State.beginRelease_queue ..).trans hended.queue, ?_, fun hs => State.beginRelease_settled (hended.settled hs) b cause,
    fun k => ?_⟩
  · obtain ⟨d, hslot⟩ := hended.release_slot hb cause b
    rw [if_pos rfl] at hslot
    refine ⟨d, hslot.trans ?_⟩
    simp only [Slot.releasing, hm]
  · obtain ⟨d, hslot⟩ := hended.release_slot hb cause k
    rwa [if_neg hk] at hslot
  · rw [State.beginRelease_up, hended.htp]
  · unfold State.shelf
    rw [State.beginRelease_core]
    exact s.endSlotRequest_shelf b e k

theorem State.Departs.finish (hd : State.Departs b cause s t) : State.Departs b cause s t.refreshConditions :=
  ⟨hd.slot, hd.other, hd.queue, hd.up, hd.settled, hd.shelf⟩

/-- The slot releases after its order is over. -/
theorem State.Departs.over (hd : State.Departs b cause t u) (ho : State.OrderOver b n h s t) :
    (u.slot b).state = .releasing ∧ (u.slot b).cause = some cause ∧ (u.slot b).attempt = 1 ∧ (u.slot b).holdDue = none
      ∧ (u.slot b).order = s.madeReady .release ∧ (u.slot b).request = (s.slot b).request ∧ (u.slot b).pair = (s.slot b).pair
      ∧ (u.slot b).mark = none ∧ (u.slot b).heldAt = (s.slot b).heldAt ∧ (∀ k, k ≠ b → u.slot k = s.slot k) ∧ u.ac.queue = s.ac.queue
      ∧ u.htp.up = s.htp.up ∧ (u.shelf n).failures = h.failures := by
  obtain ⟨e, hslot⟩ := hd.slot
  have hself : t.slot b = { s.slot b with order := .idle } := (ho.slot b).trans (if_pos rfl)
  have hfail : (u.shelf n).failures = (t.shelf n).failures := (congrArg ShelfRec.failures (hd.shelf n) :)
  rw [hself, ho.madeReady] at hslot
  rw [hslot]
  refine ⟨rfl, rfl, rfl, rfl, rfl, rfl, rfl, rfl, rfl, fun k hk => ?_, hd.queue.trans ho.same.1, hd.up.trans ho.same.2.1, ?_⟩
  · rw [hd.other k hk, ho.slot, if_neg hk]
  · rw [hfail, ho.shelf, if_pos rfl]

/-! ### OPERATE has failed (R31) -/

/-- Slot b's OPERATE has failed below the third failure of its shelf n. -/
structure State.OperateFailed (b n : Nat) (s t : State) : Prop where
  departs : ∃ w, State.OrderOver b n { s.shelf n with failures := (s.shelf n).failures + 1 } s w
    ∧ State.Departs b ((s.slot b).mark.getD .accessFailed) w t
  marked : (s.slot b).mark.isSome = true → t.ms = s.ms ∧ t.core.tc = s.core.tc ∧ t.core.lines = s.core.lines
  desk : ∀ r, (s.slot b).mark = none → (s.slot b).ended = false → (s.slot b).request = some r → r.cls = .desk →
    s.ms.results.length < 64 →
      t.ms = { s.ms with results := s.ms.results ++ [r.result (some b) .accessFailed] } ∧ t.core.tc = s.core.tc

theorem State.operate_fails (b : Fin 4) (hstate : (s.slot b.val).state = .seizing) (hline : (s.slot b.val).line = some r.line)
    (hlow : (s.shelf (shelfOf r.line)).failures ≤ 1) :
    State.OperateFailed b.val (shelfOf r.line) s (s.transactionEnds (.slot b) .operate false) := by
  have hb : b.val ∈ slotNumbers := mem_slotNumbers.mpr b.isLt
  have hends : s.transactionEnds (.slot b) .operate false = (s.endOrder (slotOwner b.val)).operateFailed b.val := by
    rw [slotOwner_val hb]
    rfl
  have hover := s.endOrder_over hb (shelfOf r.line) fun q => { q with failures := satSucc 3 q.failures }
  have hsilent : (s.endOrder (slotOwner b.val)).slotShelf b.val = shelfOf r.line := by
    unfold State.slotShelf
    rw [State.endOrder_slot s hb, if_pos rfl]
    show shelfOf ((s.slot b.val).line.getD 0) = _
    rw [hline]
    rfl
  have hcount : (s.endOrder (slotOwner b.val)).countFailure (shelfOf r.line) =
      (s.endOrder (slotOwner b.val)).updShelf (shelfOf r.line) fun q => { q with failures := satSucc 3 q.failures } := by
    refine State.countFailure_low ?_
    rw [slotOwner_val hb]
    exact hlow
  rw [satSucc_of_lt (by omega)] at hover
  rw [hends]
  unfold State.operateFailed
  rw [hsilent, hcount]
  generalize (s.endOrder (slotOwner b.val)).updShelf (shelfOf r.line) (fun q => { q with failures := satSucc 3 q.failures }) = w at *
  have hself : w.slot b.val = { s.slot b.val with order := .idle } := (hover.slot b.val).trans (if_pos rfl)
  obtain ⟨hqueue, hup, hms, htc, hlines⟩ := hover.same
  have hseizing : (w.slot b.val).state = .seizing := by rw [hself]; exact hstate
  have hmark : (w.slot b.val).mark = (s.slot b.val).mark := by rw [hself]
  dsimp only
  rw [if_pos hseizing, hmark]
  cases hm : (s.slot b.val).mark with
  | some cause =>
    dsimp only
    have hcore : ((w.updSlot b.val fun q => { q with mark := none }).beginRelease b.val cause).core = w.core := State.beginRelease_core ..
    refine ⟨⟨w, hover, ?_⟩, fun _ => ⟨(State.beginRelease_ms ..).trans hms, ?_, ?_⟩, fun q hq => (nomatch hm.symm.trans hq)⟩
    · rw [hm]
      exact w.unmark_departs hb cause
    · rw [hcore]; exact htc
    · rw [hcore]; exact hlines
  | none =>
    dsimp only
    refine ⟨⟨w, hover, ?_⟩, fun hs => ?_, fun q _ he hq hc hroom => ?_⟩
    · rw [hm]
      exact w.endSlotRequest_departs hb (hmark.trans hm) _ _
    · rw [hm] at hs
      cases hs
    · rw [State.endSlotRequest_desk (by rw [hself]; exact he) (by rw [hself]; exact hq) hc (by rw [hms]; exact hroom),
        State.beginRelease_ms, State.beginRelease_core]
      exact ⟨(congrArg (fun m : Ms => { m with results := m.results ++ [q.result (some b.val) .accessFailed] }) hms :), htc⟩

/-! ### OPERATE has ended with DONE (R30) -/

/-- Slot b is HELD from now, for this long. -/
def State.holds (s : State) (b hold : Nat) : State :=
  s.updSlot b fun q => { q with state := .held, heldAt := some s.now, holdDue := some (s.core.timeMs + 1000 * hold), order := .idle }

/-- As the order that is over leaves the part, the slot is HELD. -/
theorem State.OrderOver.holds (ho : State.OrderOver b n h s t) (hold : Nat) :
    State.RunAlike b (s.holds b hold)
      (t.updSlot b fun q => { q with state := .held, heldAt := some t.now, holdDue := some (t.after (1000 * hold)) }) where
  core := by
    obtain ⟨_, _, _, _, rfl⟩ := ho.rest
    exact ⟨_, _, rfl⟩
  ms := by
    obtain ⟨_, _, _, _, rfl⟩ := ho.rest
    exact ⟨_, rfl⟩
  queue := ho.same.1
  slot k := by
    have hnow : t.now = s.now ∧ t.after (1000 * hold) = s.core.timeMs + 1000 * hold := by
      obtain ⟨_, _, _, _, rfl⟩ := ho.rest
      exact ⟨rfl, rfl⟩
    rw [hnow.1, hnow.2, State.slot_updSlot, ho.slot, ho.slot, if_pos rfl, State.holds, State.slot_updSlot]
    split <;> rfl
  down := by
    have hlength := congrArg List.length ho.octets
    rwa [List.length_map, List.length_map] at hlength
  testSet := by
    obtain ⟨_, _, _, _, rfl⟩ := ho.rest
    exact ⟨rfl, rfl, rfl, rfl, rfl, rfl⟩

end Sys2Proof.Machine
end

section
/-! PROOF of O43: an OPERATE that has been confirmed. -/

namespace Sys2Proof.Machine

variable {s t : State} {b : Nat} {r : Request} {p : Programme}

theorem State.operateDone_slotWork (s : State) (hb : b ∈ slotNumbers) : State.SlotWork b s (s.operateDone b) := by
  unfold State.operateDone
  split
  · exact (s.updSlot_slotWork b _).trans (State.beginRelease_slotWork _ hb _)
  · have hheld := s.updSlot_slotWork b fun q =>
      { q with state := .held, heldAt := some s.now, holdDue := some (s.after (1000 * ((s.slot b).request.map (·.hold)).getD 0)) }
    dsimp only
    split
    · split
      · exact hheld.trans (State.startRunNow_slotWork _ hb _)
      · exact hheld
    · exact hheld.trans ((State.endSlotRequest_ended _ b _).slotWork.trans (State.beginRelease_slotWork _ hb _))

/-- The step of an OPERATE confirmed DONE, in the state its order leaves. -/
theorem exec_operateDone (h : s.Hears) {b : Fin 4} {due : Option Nat} (hstate : (s.slot b.val).state = .seizing)
    (hr : (s.slot b.val).request = some r) (hl : r.line < 8192) (ho : (s.slot b.val).order = .placed .operate due) :
    ∃ w, State.OrderOver b.val (shelfOf r.line) { s.shelf (shelfOf r.line) with failures := 0 } s w
      ∧ exec (.frameEnd .down (s.confirmFrame (shelfOf r.line) .operate b.val false) none) s
        = .next (w.operateDone b.val).refreshConditions := by
  have hb : b.val ∈ slotNumbers := mem_slotNumbers.mpr b.isLt
  have hline : (s.slot b.val).line = some r.line := by
    unfold Slot.line
    rw [hr]
    rfl
  have hshelf : shelfOf r.line < 64 := by unfold shelfOf; omega
  have hout := State.outstanding_slot (op := .operate) nofun (by rw [hstate]; exact nofun) hline ho
  have hover := s.endOrder_over hb (shelfOf r.line) fun q => { q with failures := 0 }
  have hsilent : (s.endOrder (slotOwner b.val)).slotShelf b.val = shelfOf r.line := by
    unfold State.slotShelf
    rw [State.endOrder_slot s hb, if_pos rfl]
    show shelfOf ((s.slot b.val).line.getD 0) = _
    rw [hline]
    rfl
  have hends : s.transactionEnds (.slot b) .operate true =
      ((s.endOrder (slotOwner b.val)).updShelf (shelfOf r.line) fun q => { q with failures := 0 }).operateDone b.val := by
    rw [← hsilent, slotOwner_val hb]
    rfl
  have hkept := State.transactionEnds_kept (.refl s) (.slot b) .operate true
  have hexec := exec_confirm h hshelf b.isLt hout false
  rw [Bool.not_false, hends] at hexec
  rw [hends] at hkept
  refine ⟨_, hover, hexec.trans (congrArg _ (State.finish_of_kept h.quiet hkept ?_))⟩
  exact (State.operateDone_slotWork _ hb).settled (hover.settled h.quiet.settled)

/-- A run whose first step can be run enters its APPLY (R73, R77). -/
theorem State.startRunNow_enters (hr : (s.slot b).request = some r) {q : Nat} {st : Step} (hp : s.ms.programme q = some p) (hcount : 1 ≤ p.count)
    (hst : s.ms.stepOf p 1 = some st) (hv : s.stepVoid b st = false) :
    State.StepApplied b s (s.startRunNow b q) ((s.freshRun q r.line).entering 1 st.kind [] (!(s.testSet b).stream)) := by
  obtain ⟨n, hn⟩ : ∃ n, p.count = 0 + (n + 1) := ⟨p.count - 1, by omega⟩
  have hz : (s.setRun b (some (s.freshRun q r.line))).run b = some (s.freshRun q r.line) := by rw [State.run_setRun, if_pos rfl]
  obtain ⟨hbegun, happlied⟩ := State.beginSteps_enters (s := s.setRun b (some (s.freshRun q r.line))) b p n 0 1 hz
    (fun i hi hlt => absurd hlt (by omega)) hst hv
  unfold State.startRunNow
  rw [State.startRun_eq hr hp, hn, if_pos hbegun]
  generalize (State.beginSteps b p (0 + (n + 1)) 1 (s.setRun b (some (s.freshRun q r.line)))).1 = t at happlied
  refine ⟨?_, happlied.run, happlied.testSet, happlied.others⟩
  obtain ⟨_, _, rfl⟩ := happlied.only
  exact ⟨_, _, rfl⟩

end Sys2Proof.Machine

open Sys2Proof Sys2Proof.Machine in
/-- Settles O43: the slot's order is over and its shelf's count is cleared; then the mark, the set's state and the programme decide. -/
theorem confirmedOperateHolds : Obligations.ConfirmedOperateHolds := by
  intro b r due s h hstate hr hl ho
  have hb : b.val ∈ slotNumbers := mem_slotNumbers.mpr b.isLt
  obtain ⟨w, hover, hexec⟩ := exec_operateDone h hstate hr hl ho
  have hself : w.slot b.val = { s.slot b.val with order := .idle } := (hover.slot b.val).trans (if_pos rfl)
  have hmark : (w.slot b.val).mark = (s.slot b.val).mark := by rw [hself]
  have hreq : (w.slot b.val).request = some r := by rw [hself]; exact hr
  have hset : w.testSet b.val = s.testSet b.val := by
    obtain ⟨_, _, _, _, rfl⟩ := hover.rest
    rfl
  obtain ⟨hqueue, hup, hms, htc, hlines⟩ := hover.same
  have halike := hover.holds r.hold
  have hfail : (w.shelf (shelfOf r.line)).failures = 0 := by rw [hover.shelf, if_pos rfl]
  generalize hv : w.updSlot b.val (fun q => { q with state := .held, heldAt := some w.now, holdDue := some (w.after (1000 * r.hold)) }) = v at halike
  have hvcore : v.core = w.core := hv ▸ rfl
  have hvhtp : v.htp = w.htp := hv ▸ rfl
  have hvms : v.ms = w.ms := hv ▸ rfl
  have hvqueue : v.ac.queue = w.ac.queue := hv ▸ rfl
  have hvset : v.testSet b.val = s.testSet b.val := by
    unfold State.testSet
    rw [hvcore]
    exact hset
  have hvslot : v.slot b.val = { s.slot b.val with
      state := .held, heldAt := some s.now, holdDue := some (s.core.timeMs + 1000 * r.hold), order := .idle } := by
    rw [halike.slot, State.holds, State.slot_updSlot, if_pos rfl]
  have hvother (k : Nat) (hk : k ≠ b.val) : v.slot k = s.slot k := by
    rw [halike.slot, State.holds, State.slot_updSlot, if_neg hk]
  have hvreq : (v.slot b.val).request = some r := by rw [hvslot]; exact hr
  have hdone (hm : (s.slot b.val).mark = none) : w.operateDone b.val =
      if (s.testSet b.val).state = .ready then match r.programme with
        | some p => v.startRunNow b.val p
        | none => v
      else (v.endSlotRequest b.val (.outcome .equipment)).beginRelease b.val .equipment := by
    unfold State.operateDone
    rw [hmark, hm, hreq]
    dsimp only [Option.map_some, Option.getD_some]
    rw [hv, hvset, hvreq]
    rfl
  refine ⟨fun hm hready hprog => ?_, fun p g st hm hready hprog hg hcount hst hvoid => ?_, fun p hm hready hprog => ?_, fun cause hm => ?_,
    fun hm hready => ?_, fun hlow => ?_⟩
  · rw [hdone hm, if_pos hready, hprog] at hexec
    refine ⟨_, hexec, ?_, ?_, ?_, hvms.trans hms, ?_⟩
    · show (v.slot b.val).state = _ ∧ (v.slot b.val).heldAt = _ ∧ (v.slot b.val).holdDue = _ ∧ (v.slot b.val).order = _
      rw [hvslot]
      exact ⟨rfl, rfl, rfl, rfl⟩
    · refine ⟨hvreq, ?_, hvother, hvqueue.trans hqueue, (congrArg (·.up) hvhtp).trans hup⟩
      exact (congrArg Slot.pair hvslot :)
    · exact (congrArg (fun c : Core => (c.shelf (shelfOf r.line)).failures) hvcore).trans hfail
    · exact (congrArg Core.lines hvcore).trans hlines
  · rw [hdone hm, if_pos hready, hprog] at hexec
    have hvline : v.line r.line = s.line r.line := by
      unfold State.line Core.line
      rw [hvcore, hlines]
    have happlied := State.startRunNow_enters (q := p) hvreq (by rw [hvms, hms]; exact hg) hcount (by rw [hvms, hms]; exact hst)
      (by rw [State.stepVoid_of_alike (s := s) (by rw [hvset]; exact ⟨rfl, rfl, rfl, rfl, rfl, rfl⟩)]; exact hvoid)
    dsimp only at hexec
    generalize v.startRunNow b.val p = t at *
    obtain ⟨sets, runs, ht⟩ := happlied.only
    have htslot (k : Nat) : t.slot k = v.slot k := by rw [ht]; rfl
    refine ⟨_, hexec, ?_, ?_, ?_, ?_, ?_, happlied.testSet.stream, ?_, ?_⟩
    · show (t.slot b.val).state = _ ∧ (t.slot b.val).heldAt = _ ∧ (t.slot b.val).holdDue = _ ∧ (t.slot b.val).order = _
      rw [htslot, hvslot]
      exact ⟨rfl, rfl, rfl, rfl⟩
    · refine ⟨(congrArg Slot.request (htslot b.val)).trans hvreq, ?_, fun k hk => (htslot k).trans (hvother k hk), ?_, ?_⟩
      · exact (congrArg Slot.pair ((htslot b.val).trans hvslot) :)
      · rw [ht]; exact hvqueue.trans hqueue
      · rw [ht]; exact (congrArg (·.up) hvhtp).trans hup
    · rw [ht]; exact (congrArg (fun c : Core => (c.shelf (shelfOf r.line)).failures) hvcore).trans hfail
    · refine happlied.run.trans ?_
      rw [hvset, State.freshRun, hvline]
      rfl
    · refine happlied.testSet.tag.trans ?_
      rw [hvset]
      rfl
    · rw [ht]; exact (congrArg Ms.results (hvms.trans hms) :)
    · rw [ht]; exact (congrArg Core.lines hvcore).trans hlines
  · rw [hdone hm, if_pos hready, hprog] at hexec
    have hvline : v.line r.line = s.line r.line := by
      unfold State.line Core.line
      rw [hvcore, hlines]
    refine ⟨_, hexec, fun g hg => ?_, fun hnone => ?_⟩
    · have hfollow := halike.stepsFollow (State.startRunNow_follow (q := p) hb hvreq (by rw [hvms, hms]; exact hg))
      rw [hvline] at hfollow
      exact hfollow
    · exact halike.runEnds (State.startRunNow_empty (q := p) hb hvreq (by rw [hvms, hms]; exact hnone))
  · have hd : w.operateDone b.val = (w.updSlot b.val fun q => { q with mark := none }).beginRelease b.val cause := by
      unfold State.operateDone
      rw [hmark, hm]
    rw [hd] at hexec
    obtain ⟨h1, h2, h3, h4, h5, h6, h7, h8, _, h10, h11, h12, h13⟩ := (w.unmark_departs hb cause).over hover
    have hcore : ((w.updSlot b.val fun q => { q with mark := none }).beginRelease b.val cause).core = w.core := State.beginRelease_core ..
    exact ⟨_, hexec, ⟨h1, h2, h3, h4, h5⟩, ⟨h6.trans hr, h7, h10, h11, h12⟩, h8, h13, (State.beginRelease_ms ..).trans hms,
      (congrArg Core.lines hcore).trans hlines⟩
  · rw [hdone hm, if_neg hready] at hexec
    have hvmark : (v.slot b.val).mark = none := (congrArg Slot.mark hvslot :).trans hm
    obtain ⟨⟨e, hslot⟩, hother, htqueue, htup, -, hshelf⟩ := v.endSlotRequest_departs hb hvmark (.outcome .equipment) .equipment
    rw [hvslot, halike.madeReady] at hslot
    refine ⟨_, hexec, ?_, ?_, (congrArg Slot.heldAt hslot :), ?_, fun he hc hroom => ?_⟩
    · exact ⟨(congrArg Slot.state hslot :), (congrArg Slot.cause hslot :), (congrArg Slot.attempt hslot :), (congrArg Slot.holdDue hslot :),
        (congrArg Slot.order hslot :)⟩
    · exact ⟨(congrArg Slot.request hslot :).trans hr, (congrArg Slot.pair hslot :), fun k hk => (hother k hk).trans (hvother k hk),
        htqueue.trans (hvqueue.trans hqueue), htup.trans ((congrArg (·.up) hvhtp).trans hup)⟩
    · exact (congrArg ShelfRec.failures (hshelf _) :).trans ((congrArg (fun c : Core => (c.shelf (shelfOf r.line)).failures) hvcore).trans hfail)
    · have hresult : (v.endSlotRequest b.val (.outcome .equipment)).ms =
          { v.ms with results := v.ms.results ++ [r.result (some b.val) .equipment] } := by
        rw [State.endSlotRequest_desk (by rw [hvslot]; exact he) hvreq hc (by rw [hvms, hms]; exact hroom)]
        rfl
      refine (State.beginRelease_ms (v.endSlotRequest b.val (.outcome .equipment)) b.val .equipment).trans ?_
      rw [hresult, hvms, hms]
  · have hline : (s.slot b.val).line = some r.line := by
      unfold Slot.line
      rw [hr]
      rfl
    have hout := State.outstanding_slot (op := .operate) nofun (by rw [hstate]; exact nofun) hline ho
    have hfault := exec_confirm h (by unfold shelfOf; omega) b.isLt hout true
    have hkept := State.transactionEnds_kept (.refl s) (.slot b) .operate false
    obtain ⟨⟨w', hover', hdeparts⟩, -, -⟩ := State.operate_fails b hstate hline hlow
    rw [Bool.not_true, State.finish_of_kept h.quiet hkept (hdeparts.settled (hover'.settled h.quiet.settled))] at hfault
    generalize s.transactionEnds (.slot b) .operate false = t at *
    obtain ⟨h1, h2, h3, h4, h5, h6, h7, -, -, h10, h11, h12, h13⟩ := hdeparts.over hover'
    exact ⟨_, hfault, ⟨h1, h2, h3, h4, h5⟩, ⟨h6.trans hr, h7, h10, h11, h12⟩, h13⟩
end

section
/-! SUPPORT. What runs do to the timers, the state and the failure count of their set (R61, R77, R82). -/

namespace Sys2Proof.Machine

variable {s₀ s t u : State} {b : Nat}

/-- A run has worked with the set: its state and its failures stand, and no step timer has started. -/
structure TestSet.Worked (t u : TestSet) : Prop where
  state : u.state = t.state
  failures : u.failures = t.failures
  firstTagDue : t.firstTagDue = none → u.firstTagDue = none
  sampleDue : t.sampleDue = none → u.sampleDue = none

theorem TestSet.Worked.trans {t u v : TestSet} (h : TestSet.Worked t u) (k : TestSet.Worked u v) : TestSet.Worked t v :=
  ⟨k.state.trans h.state, k.failures.trans h.failures, fun hn => k.firstTagDue (h.firstTagDue hn), fun hn => k.sampleDue (h.sampleDue hn)⟩

theorem TestSet.Worked.of_sansTicket {t u : TestSet} (h : u.sansTicket = t.sansTicket) : TestSet.Worked t u :=
  ⟨(congrArg TestSet.state h :), (congrArg TestSet.failures h :), (congrArg TestSet.firstTagDue h :).trans,
    (congrArg TestSet.sampleDue h :).trans⟩

theorem TestSet.Asked.worked {t u : TestSet} (h : TestSet.Asked t u) : TestSet.Worked t u :=
  ⟨h.state, h.failures, fun _ => h.firstTagDue, fun _ => h.sampleDue⟩

/-- The set of bus b has been worked with. -/
def State.SetWorked (b : Nat) (s t : State) : Prop := TestSet.Worked (s.testSet b) (t.testSet b)

theorem State.SetWorked.trans (h : State.SetWorked b s t) (k : State.SetWorked b t u) : State.SetWorked b s u := TestSet.Worked.trans h k

theorem State.SetWorked.of_core (h : t.core = s.core) : State.SetWorked b s t := by
  refine TestSet.Worked.of_sansTicket ?_
  unfold State.testSet
  rw [h]

theorem State.SetWorked.refl (s : State) : State.SetWorked b s s := .of_core rfl

/-- Work with the runs alone. -/
theorem State.SetWorked.withMs (h : State.SetWorked b s₀ s) (hc : t.core = s.core) : State.SetWorked b s₀ t := h.trans (.of_core hc)

theorem State.updTestSet_setWorked (h : State.SetWorked b s₀ s) {f : TestSet → TestSet} (hf : ∀ t, TestSet.Worked t (f t)) :
    State.SetWorked b s₀ (s.updTestSet b f) := by
  refine h.trans ?_
  unfold State.SetWorked
  rw [State.testSet_updTestSet, if_pos rfl]
  exact hf _

theorem State.stopStepTimers_setWorked (h : State.SetWorked b s₀ s) : State.SetWorked b s₀ (s.stopStepTimers b) :=
  State.updTestSet_setWorked h fun _ => ⟨rfl, rfl, fun _ => rfl, fun _ => rfl⟩

theorem State.sendLink_setWorked (h : State.SetWorked b s₀ s) (m : LinkMsg) (timed : Bool) : State.SetWorked b s₀ (s.sendLink b m timed) :=
  State.updTestSet_setWorked h fun _ => ⟨rfl, rfl, id, id⟩

theorem State.sendStream_setWorked (h : State.SetWorked b s₀ s) (on : Bool) : State.SetWorked b s₀ (s.sendStream b on) := by
  refine State.sendLink_setWorked (State.updTestSet_setWorked h ?_) _ _
  exact fun _ => ⟨rfl, rfl, id, id⟩

theorem State.sendSource_setWorked (h : State.SetWorked b s₀ s) (p : LeadPair) (m : SourceMode) (l sl : Int) (r : CurrentRange) (c : Coupling)
    (timed : Bool) : State.SetWorked b s₀ (s.sendSource b p m l sl r c timed) := by
  refine State.sendLink_setWorked (State.updTestSet_setWorked h ?_) _ _
  exact fun _ => ⟨rfl, rfl, id, id⟩

theorem State.restSource_setWorked (h : State.SetWorked b s₀ s) : State.SetWorked b s₀ (s.restSource b) := by
  have hstop := State.stopStepTimers_setWorked h
  unfold State.restSource
  dsimp only
  split
  · exact State.sendStream_setWorked (State.sendSource_setWorked hstop ..) _
  · exact hstop

theorem State.applyStep_setWorked (h : State.SetWorked b s₀ s) (st : Step) (ramp : Ramp) : State.SetWorked b s₀ (s.applyStep b st ramp) := by
  have hask {v : State} (hv : State.SetWorked b s₀ v) (a c : Int) : State.SetWorked b s₀ (v.askSource b st a c) := by
    unfold State.askSource
    split <;> exact State.sendSource_setWorked hv ..
  have hstop := State.stopStepTimers_setWorked h
  unfold State.applyStep
  dsimp only
  split
  · exact State.SetWorked.withMs (State.sendStream_setWorked (hask hstop _ _) true) rfl
  · exact State.SetWorked.withMs (hask hstop _ _) rfl

theorem State.beginSteps_setWorked (p : Programme) (n k : Nat) (h : State.SetWorked b s₀ s) :
    State.SetWorked b s₀ (State.beginSteps b p n k s).1 := by
  induction n generalizing k s with
  | zero => exact h
  | succ n ih =>
    unfold State.beginSteps
    split
    · exact h
    · dsimp only
      split
      · exact ih (k + 1) (h.withMs rfl)
      · refine State.applyStep_setWorked ?_ _ _
        exact h.withMs rfl

theorem State.startRun_setWorked (h : State.SetWorked b s₀ s) (p : Nat) : State.SetWorked b s₀ (s.startRun b p).1 := by
  unfold State.startRun
  dsimp only
  split
  · exact h.withMs rfl
  · exact State.beginSteps_setWorked _ _ _ (h.withMs rfl)

theorem State.closeRun_setWorked (h : State.SetWorked b s₀ s) (o : RunOutcome) : State.SetWorked b s₀ (s.closeRun b o) := by
  unfold State.closeRun
  split
  · refine (State.restSource_setWorked h).trans (TestSet.Worked.of_sansTicket ?_)
    show (Core.testSet (State.runResult _ _ _ _ _ _).core b).sansTicket = _
    rw [State.runResult_core]
    exact (Core.handOver_subjects _ _ _ _ _ _).testSet b
  · exact h.withMs rfl

theorem State.afterLastRun_setWorked (h : State.SetWorked b s₀ s) : State.SetWorked b s₀ (s.afterLastRun b) := by
  refine h.withMs ?_
  unfold State.afterLastRun
  split
  · rfl
  · exact State.beginRelease_core (s.markEnded b) ..

theorem State.finishRun_setWorked (h : State.SetWorked b s₀ s) : State.SetWorked b s₀ (s.finishRun b) := by
  unfold State.finishRun
  split
  · exact h
  · next x _ =>
    have hclose := State.closeRun_setWorked h (s.ownOutcome x)
    dsimp only
    split
    · exact State.afterLastRun_setWorked hclose
    · next q _ =>
      have hstart := State.startRun_setWorked (s := (s.closeRun b (s.ownOutcome x)).setPendingRun b none) (hclose.withMs rfl) q
      split
      · exact hstart
      · split
        · exact hstart
        · exact State.afterLastRun_setWorked (State.closeRun_setWorked hstart _)

theorem State.nextStep_setWorked (h : State.SetWorked b s₀ s) : State.SetWorked b s₀ (s.nextStep b) := by
  unfold State.nextStep
  split
  · exact h
  · split
    · exact State.finishRun_setWorked h
    · dsimp only
      split
      · exact State.beginSteps_setWorked _ _ _ h
      · exact State.finishRun_setWorked (State.beginSteps_setWorked _ _ _ h)

theorem State.abandon_setWorked (h : State.SetWorked b s₀ s) (opening : Bool) : State.SetWorked b s₀ (s.abandon b opening) := by
  unfold State.abandon
  split
  · exact h
  · split
    · exact State.nextStep_setWorked ((State.stopStepTimers_setWorked h).withMs rfl)
    · refine State.applyStep_setWorked ?_ _ _
      exact h.withMs rfl

theorem State.abandon_slotWork (s : State) (hb : b ∈ slotNumbers) (opening : Bool) : State.SlotWork b s (s.abandon b opening) := by
  unfold State.abandon
  split
  · exact (State.RunWork.refl s).slotWork b
  · next x _ st _ =>
    split
    · have hrecord := (State.updRun_runWork (State.stopStepTimers_runWork (.refl s) b) b fun r =>
        { r with results := r.results ++ [voidResult x.step st { voidLoss := true }], working := {}, held := none }).slotWork b
      exact hrecord.trans (State.nextStep_slotWork _ hb)
    · exact (State.applyStep_runWork (State.updRun_runWork (.refl s) b _) b st _).slotWork b

end Sys2Proof.Machine
end

section
/-! PROOF of O49: the failures of a test set. -/

namespace Sys2Proof.Machine

variable {s t u : State} {b : Nat} {x : Run} {p : Programme} {st : Step} {q : Request}

theorem State.stepUnderWay_some (h : s.stepUnderWay b = some (x, p, st)) :
    s.run b = some x ∧ s.ms.programme x.programme = some p ∧ s.ms.stepOf p x.step = some st := by
  unfold State.stepUnderWay at h
  split at h
  · cases h
  · next y hy =>
    split at h
    · cases h
    · next g hg =>
      obtain ⟨z, hz, heq⟩ := Option.map_eq_some_iff.mp h
      cases heq
      exact ⟨hy, hg, hz⟩

/-! ### A step is abandoned (R83) -/

theorem State.abandon_retries (h : s.stepUnderWay b = some (x, p, st)) (hu : x.retryUsed = false) (opening : Bool) :
    State.StepApplied b s (s.abandon b opening)
      { x.entering x.step st.kind x.results (!(s.testSet b).stream) with retryUsed := !opening } := by
  obtain ⟨hx, -, -⟩ := State.stepUnderWay_some h
  have he : s.abandon b opening = (s.updRun b fun r => { r with retryUsed := !opening }).applyStep b st st.firstRamp := by
    unfold State.abandon
    simp only [h, hu, Bool.false_eq_true, if_false]
  have hw : (s.updRun b fun r => { r with retryUsed := !opening }).run b = some { x with retryUsed := !opening } := by
    rw [State.run_updRun, if_pos rfl, hx]
    rfl
  have hramp : st.firstRamp ≠ .down := by
    unfold Step.firstRamp
    split <;> exact nofun
  rw [he]
  obtain ⟨⟨sets, runs, honly⟩, hrun, hset, hothers⟩ := State.applyStep_applied hw st hramp
  exact ⟨⟨sets, runs, honly⟩, hrun, hset, hothers⟩

theorem State.abandon_loses (hb : b ∈ slotNumbers) (h : s.stepUnderWay b = some (x, p, st)) (hu : x.retryUsed = true)
    (hr : (s.slot b).request = some q) (opening : Bool) :
    s.stepsFollow (s.abandon b opening) b q x p (x.results ++ [voidAs x.step st { voidLoss := true }]) := by
  obtain ⟨hx, hp, -⟩ := State.stepUnderWay_some h
  have he : s.abandon b opening =
      ((s.stopStepTimers b).record b (voidResult x.step st { voidLoss := true })).nextStep b := by
    unfold State.abandon
    simp only [h, hu, if_true]
  have hset : ((s.stopStepTimers b).record b (voidResult x.step st { voidLoss := true })).testSet b = (s.testSet b).stopped := by
    show (s.stopStepTimers b).testSet b = _
    rw [State.stopStepTimers_testSet, if_pos rfl]
  have halike : State.RunAlike b s ((s.stopStepTimers b).record b (voidResult x.step st { voidLoss := true })) := by
    refine ⟨⟨_, _, rfl⟩, ⟨_, rfl⟩, rfl, fun _ => rfl, rfl, ?_⟩
    rw [hset]
    exact ⟨rfl, rfl, rfl, rfl, rfl, (s.testSet b).stopped_unsent.msgs⟩
  have hrun : ((s.stopStepTimers b).record b (voidResult x.step st { voidLoss := true })).run b =
      some { x with results := x.results ++ [voidResult x.step st { voidLoss := true }], working := {}, held := none } := by
    have hsame : (s.stopStepTimers b).run b = some x := hx
    rw [State.record, State.run_updRun, if_pos rfl, hsame]
    rfl
  rw [he]
  generalize (s.stopStepTimers b).record b (voidResult x.step st { voidLoss := true }) = w at *
  have hms (k : Nat) : w.ms.programme k = s.ms.programme k := by
    obtain ⟨_, hms⟩ := halike.ms
    rw [hms]
    rfl
  have hreq : (w.slot b).request = some q := by rw [halike.slot]; exact hr
  rw [State.nextStep_eq hrun ((hms _).trans hp)]
  exact halike.stepsFollow (State.stepsOn_follow (x := x) hb hrun hreq rfl rfl p)

/-! ### A failure is counted (R62) -/

/-- The set's record as its failure has been counted. -/
def TestSet.failed (t : TestSet) : TestSet := { t.stopped with failures := satSucc 3 t.failures }

/-- The state as the failure has been counted. -/
def State.setFailed (s : State) (n : Nat) : State :=
  (s.stopStepTimers n).updTestSet n fun t => { t with failures := satSucc 3 t.failures }

theorem State.setFailed_setIs (s : State) (n : Nat) : State.SetIs s (s.setFailed n) n (s.testSet n).failed :=
  (s.updTestSet_setIs n _).then _

theorem State.setFails_eq (s : State) (n : Nat) (first : Bool) :
    s.setFails n first = if 3 ≤ satSucc 3 (s.testSet n).failures then (s.setFailed n).setGoesSilent n
      else (s.setFailed n).abandon n (first && ((s.run n).map (·.opener)).getD false) := by
  have hfailures : ((s.setFailed n).testSet n).failures = satSucc 3 (s.testSet n).failures := by
    rw [(s.setFailed_setIs n).self]
    rfl
  rw [← hfailures]
  rfl

theorem State.SetIs.runAlike {r : TestSet} (h : State.SetIs s t b r) (halike : TestSet.Alike (s.testSet b) r) : State.RunAlike b s t := by
  have hself := h.self
  obtain ⟨⟨_, ht⟩, -⟩ := h
  rw [← hself] at halike
  rw [ht] at halike ⊢
  exact ⟨⟨_, _, rfl⟩, ⟨_, rfl⟩, rfl, fun _ => rfl, rfl, halike⟩

/-! ### The third failure (R63) -/

/-- A set gone SILENT. -/
structure State.SetSilent (s t : State) (n : Nat) : Prop where
  testSet : TestSet.Unsent { (s.testSet n).stopped with state := .silent, failures := 3, probeDue := some (s.core.timeMs + 5000) }.turnedOff
    (t.testSet n)
  held : (s.slot n).state = .held → (t.slot n).state = .releasing ∧ (t.slot n).cause = some .equipment ∧ t.run n = none
  settled : s.settled → t.settled

theorem State.setGoesSilent_silent {n : Nat} (hn : n ∈ slotNumbers) : State.SetSilent s (s.setGoesSilent n) n := by
  have hoff := ((s.updTestSet_setIs n TestSet.stopped).then fun t =>
    { t with state := .silent, failures := 3, probeDue := some (s.core.timeMs + 5000) }).turnOff
  have he : s.setGoesSilent n = (((((s.updTestSet n TestSet.stopped).updTestSet n fun t =>
      { t with state := .silent, failures := 3, probeDue := some (s.core.timeMs + 5000) }).sourceOff n).sendStream n false).updCore
        fun c => c.askEquipment .testSet n .testSetSilent).setLost n := rfl
  rw [he]
  generalize (((s.updTestSet n TestSet.stopped).updTestSet n fun t =>
    { t with state := .silent, failures := 3, probeDue := some (s.core.timeMs + 5000) }).sourceOff n).sendStream n false = v at *
  have hunsent : TestSet.Unsent (v.testSet n) ((v.updCore fun c => c.askEquipment .testSet n .testSetSilent).testSet n) :=
    .of_sansTicket ((Core.askEquipment_work (.refl v.core) .testSet n .testSetSilent).testSet n)
  have hself := hoff.self
  obtain ⟨⟨sets, hv⟩, -⟩ := hoff
  rw [hself] at hunsent
  have hslot : (v.updCore fun c => c.askEquipment .testSet n .testSetSilent).slot n = s.slot n := by rw [hv]; rfl
  have hsettled (hs : s.settled) : (v.updCore fun c => c.askEquipment .testSet n .testSetSilent).settled := by rw [hv]; exact hs
  generalize v.updCore (fun c => c.askEquipment .testSet n .testSetSilent) = w at *
  by_cases hheld : (w.slot n).state = .held
  · have hlost := State.setLost_held hn hheld (by rw [hunsent.state]; exact nofun)
    exact ⟨hunsent.trans hlost.testSet, fun _ => ⟨hlost.slot.1, hlost.slot.2, hlost.run⟩, fun hs => hlost.settled (hsettled hs)⟩
  · rw [State.setLost_idle hheld]
    exact ⟨hunsent, fun h => absurd (hslot ▸ h) hheld, hsettled⟩

/-- The step of a timer that tells of a failure. -/
theorem exec_setFails (hq : s.Quiet) {n : Fin 4} {due : Nat} (hready : (s.testSet n.val).state = .ready) (hd : due ≤ s.core.timeMs) {i : Instr}
    (hi : (i = .firstTagWaitExpiry n ∧ (s.testSet n.val).firstTagDue = some due)
      ∨ (i = .sampleTimeout n ∧ (s.testSet n.val).sampleDue = some due)) :
    exec i s = .next (s.setFails n.val (decide (i = .firstTagWaitExpiry n))).finish := by
  have hdue : s.due (some due) = true := decide_eq_true hd
  rcases hi with ⟨rfl, h⟩ | ⟨rfl, h⟩
  · refine (State.command_of_live hq.live _).trans ?_
    rw [if_pos ⟨hready, h ▸ hdue⟩, decide_eq_true rfl]
  · refine (State.command_of_live hq.live _).trans ?_
    rw [if_pos ⟨hready, h ▸ hdue⟩, decide_eq_false nofun]

end Sys2Proof.Machine

open Sys2Proof Sys2Proof.Machine in
/-- Settles O49: the failure is counted, and then the step under way is abandoned or the set goes SILENT. -/
theorem testSetFailuresAreCounted : Obligations.TestSetFailuresAreCounted := by
  intro n due s hq hready hd i hi
  have hn : n.val ∈ slotNumbers := mem_slotNumbers.mpr n.isLt
  have hkept := State.setFails_kept (.refl s) n.val (decide (i = .firstTagWaitExpiry n))
  have hset := s.setFailed_setIs n.val
  have halike : State.RunAlike n.val s (s.setFailed n.val) :=
    hset.runAlike ⟨rfl, rfl, rfl, rfl, rfl, (s.testSet n.val).stopped_unsent.msgs⟩
  have hs : (s.setFailed n.val).settled := hq.settled
  have hexec (t : State) (ht : s.setFails n.val (decide (i = .firstTagWaitExpiry n)) = t) (hts : t.settled) :
      exec i s = .next t.refreshConditions := by
    rw [exec_setFails hq hready hd hi, ← State.finish_of_kept hq (ht ▸ hkept) hts, ht]
  have hcases := s.setFails_eq n.val (decide (i = .firstTagWaitExpiry n))
  by_cases hlow : (s.testSet n.val).failures ≤ 1
  · rw [satSucc_of_lt (by omega), if_neg (by omega)] at hcases
    have hself : (s.setFailed n.val).testSet n.val = { (s.testSet n.val).stopped with failures := (s.testSet n.val).failures + 1 } := by
      rw [hset.self, TestSet.failed, satSucc_of_lt (by omega)]
    have hstream : ((s.setFailed n.val).testSet n.val).stream = (s.testSet n.val).stream := by rw [hself]; rfl
    have htag : ((s.setFailed n.val).testSet n.val).tag = (s.testSet n.val).tag := by rw [hself]; rfl
    obtain ⟨⟨sets, hv⟩, -⟩ := hset
    have hslots : ∀ k, (s.setFailed n.val).slot k = s.slot k := fun _ => rfl
    have hway : (s.setFailed n.val).stepUnderWay n.val = s.stepUnderWay n.val := rfl
    have hrun : (s.setFailed n.val).run n.val = s.run n.val := rfl
    generalize s.setFailed n.val = v at *
    have hwork := v.abandon_slotWork hn (decide (i = .firstTagWaitExpiry n) && ((s.run n.val).map (·.opener)).getD false)
    have hworked := State.abandon_setWorked (.refl v) (b := n.val) (decide (i = .firstTagWaitExpiry n) && ((s.run n.val).map (·.opener)).getD false)
    unfold State.SetWorked at hworked
    rw [hself] at hworked
    refine ⟨_, hexec _ hcases (hwork.settled hs), fun _ => ⟨hworked.state.trans hready, hworked.failures, hworked.firstTagDue rfl,
      hworked.sampleDue rfl, fun hnone => ?_, fun x p st hunder _ => ⟨fun hu => ?_, fun hu q hq' => ?_⟩⟩, fun h2 => absurd hlow (by omega)⟩
    · have hstill : v.abandon n.val (decide (i = .firstTagWaitExpiry n) && ((s.run n.val).map (·.opener)).getD false) = v := by
        have hno : v.stepUnderWay n.val = none := by
          unfold State.stepUnderWay
          rw [hrun, hnone]
        unfold State.abandon
        rw [hno]
      rw [hstill, hv]
      exact ⟨rfl, rfl, rfl⟩
    · obtain ⟨hx, -, -⟩ := State.stepUnderWay_some hunder
      have happlied := State.abandon_retries (hway.trans hunder) hu (decide (i = .firstTagWaitExpiry n) && ((s.run n.val).map (·.opener)).getD false)
      rw [hx] at happlied ⊢
      rw [Option.map_some, Option.getD_some] at happlied ⊢
      generalize v.abandon n.val (decide (i = .firstTagWaitExpiry n) && x.opener) = t at *
      obtain ⟨_, _, ht⟩ := happlied.only
      refine ⟨happlied.run.trans (by rw [hstream]), happlied.testSet.tag.trans (by rw [htag]; rfl), happlied.testSet.stream, ?_⟩
      rw [ht, hv]
      exact ⟨rfl, rfl, rfl, rfl⟩
    · exact halike.stepsFollow (State.abandon_loses hn (hway.trans hunder) hu ((congrArg Slot.request (hslots _)).trans hq') _)
  · have hthree : satSucc 3 (s.testSet n.val).failures = 3 := by unfold satSucc; split <;> omega
    rw [hthree, if_pos (Nat.le_refl 3)] at hcases
    have hsilent := State.setGoesSilent_silent (s := s.setFailed n.val) hn
    have hself := hset.self
    obtain ⟨htest, hheld, hsettled⟩ := hsilent
    rw [hself] at htest
    generalize (s.setFailed n.val).setGoesSilent n.val = t at *
    refine ⟨_, hexec _ hcases (hsettled hs), fun h1 => absurd h1 hlow, fun _ => ⟨htest.state, htest.failures, htest.probeDue, htest.stream,
      hheld, nextTag (s.testSet n.val).tag, ?_⟩⟩
    refine htest.msgs.trans ((TestSet.turnedOff_msgs _).trans ?_)
    refine congrArg (· ++ _) ?_
    exact (TestSet.stopped_unsent _).msgs.trans (s.testSet n.val).stopped_unsent.msgs
end

section
/-! SUPPORT. Tickets changed one after another, and retests offered one after another while every fitting slot is taken (R122, R142). -/

namespace Sys2Proof.Machine

variable {s t u : State} {c d : Core} {n m : Nat} {k : Ticket} {w : Retest}

/-! ### Tickets changed -/

/-- Ticket n changed, as every number reads it. -/
theorem Core.ticket_putTicket_any (c : Core) (n j : Nat) {f : Ticket → Ticket} (hf : ∀ u, (f u).number = u.number) :
    (c.putTicket n f).ticket j = if j = n then (c.ticket n).map f else c.ticket j := by
  cases h : c.ticket n with
  | none =>
    have hnone : c.putTicket n f = c := by
      unfold Core.putTicket
      rw [h]
    rw [hnone]
    split
    · next hj => rw [hj, h]; rfl
    · rfl
  | some k =>
    split
    · next hj =>
      rw [hj]
      exact Core.ticket_putTicket h hf
    · next hj =>
      have hpred : ((fun u => decide (u.number = j)) ∘ fun u => if u.number = n then f u else u) = fun u : Ticket => decide (u.number = j) := by
        funext u
        rw [Function.comp_apply]
        split
        · next hn => rw [hf]
        · rfl
      have hsame (u : Ticket) (hu : u.number = j) : (if u.number = n then f u else u) = u := if_neg (by omega)
      simp only [Core.putTicket, h]
      show (c.tc.tickets.map fun u => if u.number = n then f u else u).find? (fun u => decide (u.number = j)) = _
      rw [List.find?_map, hpred]
      show _ = c.tc.tickets.find? fun u => decide (u.number = j)
      cases hfind : c.tc.tickets.find? fun u => decide (u.number = j) with
      | none => rfl
      | some u => exact congrArg some (hsame u (Tc.find_some hfind).2)

/-- A change of one ticket writes the table, the group records and the counts alone. -/
theorem Core.putTicket_eq (c : Core) (n : Nat) (f : Ticket → Ticket) :
    ∃ tickets gm oh, c.putTicket n f = { c with tc := { c.tc with tickets := tickets }, gm := gm, oh := oh } := by
  unfold Core.putTicket
  split
  · exact ⟨_, _, _, rfl⟩
  · exact ⟨_, _, _, rfl⟩

/-- Several tickets sent to verification, due now. -/
def Core.sendToVerify (c : Core) (ms : List Nat) : Core := ms.foldl (fun c m => c.putTicket m fun t => t.toVerify (.dueAt c.now)) c

theorem Core.sendToVerify_ticket (ms : List Nat) (c : Core) (j : Nat) :
    (∃ tickets gm oh, c.sendToVerify ms = { c with tc := { c.tc with tickets := tickets }, gm := gm, oh := oh })
      ∧ (c.sendToVerify ms).ticket j = if j ∈ ms then (c.ticket j).map fun t => t.toVerify (.dueAt c.now) else c.ticket j := by
  induction ms generalizing c with
  | nil => exact ⟨⟨_, _, _, rfl⟩, rfl⟩
  | cons m ms ih =>
    have hstep : c.sendToVerify (m :: ms) = (c.putTicket m fun t => t.toVerify (.dueAt c.now)).sendToVerify ms := rfl
    have hput := c.ticket_putTicket_any m j (f := fun t => t.toVerify (.dueAt c.now)) fun _ => rfl
    obtain ⟨⟨tickets, gm, oh, hrest⟩, hticket⟩ := ih (c.putTicket m fun t => t.toVerify (.dueAt c.now))
    obtain ⟨_, _, _, heq⟩ := c.putTicket_eq m fun t => t.toVerify (.dueAt c.now)
    have hnow : (c.putTicket m fun t => t.toVerify (.dueAt c.now)).now = c.now := by rw [heq]; rfl
    rw [hstep]
    refine ⟨⟨tickets, gm, oh, by rw [hrest, heq]⟩, ?_⟩
    rw [hticket, hput, hnow]
    by_cases hj : j = m
    · subst hj
      simp only [if_true, List.mem_cons, true_or, Option.map_map]
      split
      · congr 1
      · rfl
    · simp only [hj, if_false, List.mem_cons, false_or]

theorem Core.fanOut_eq (c : Core) (n : Nat) :
    c.fanOut n = ((c.putTicket n fun t => t.toVerify .outstanding).sendToVerify
      (((c.children n).filter fun t => t.state.standing).map (·.number)), ((c.children n).filter fun t => t.state.standing).map (·.number)) := rfl

/-! ### One offer -/

/-- A RETEST request is refused by its shelf, its line's access state or the queue alone. -/
theorem State.refusal_retest {r : Request} (h : r.cls = .retest) :
    s.refusal r = if (s.shelf (shelfOf r.line)).state = .unfitted ∨ (s.shelf (shelfOf r.line)).state = .silent then some .shelfSilent
      else if (s.line r.line).access ≠ .none then some .duplicate
      else if 32 ≤ s.ac.queue.length then some .queueFull
      else none := by
  unfold State.refusal
  simp only [h, reduceCtorEq, false_and, if_false]

/-- What offers of VERIFY retests may change: the queue, lines, and what each ticket's retest tells. -/
structure State.Offers (s t : State) : Prop where
  rest : ∃ lines tickets gm queue, t =
    { s with
      core := { s.core with lines := lines, tc := { s.core.tc with tickets := tickets }, gm := gm }
      ac := { s.ac with queue := queue } }
  tickets : ∀ j, t.core.ticket j = s.core.ticket j
    ∨ ∃ k w w', s.core.ticket j = some k ∧ k.retest = some w ∧ w'.reason = w.reason ∧ t.core.ticket j = some { k with retest := some w' }

theorem State.Offers.refl (s : State) : State.Offers s s := ⟨⟨_, _, _, _, rfl⟩, fun _ => .inl rfl⟩

theorem State.Offers.trans (h : State.Offers s t) (g : State.Offers t u) : State.Offers s u where
  rest := by
    obtain ⟨_, _, _, _, rfl⟩ := h.rest
    obtain ⟨_, _, _, _, rfl⟩ := g.rest
    exact ⟨_, _, _, _, rfl⟩
  tickets j := by
    rcases h.tickets j with he | ⟨k, w, w', hk, hw, hr, ht⟩
    · rw [← he]
      exact g.tickets j
    · rcases g.tickets j with he | ⟨k', v, v', hk', hv, hr', ht'⟩
      · exact .inr ⟨k, w, w', hk, hw, hr, he.trans ht⟩
      · obtain rfl : { k with retest := some w' } = k' := Option.some.inj (ht.symm.trans hk')
        obtain rfl : w' = v := Option.some.inj hv
        exact .inr ⟨k, w, v', hk, hw, hr'.trans hr, ht'⟩

theorem State.Offers.settled (h : State.Offers s t) (hs : s.settled) : t.settled := by
  obtain ⟨_, _, _, _, rfl⟩ := h.rest
  exact hs

theorem State.Offers.slotsTaken (h : State.Offers s t) (hs : s.slotsTaken) : t.slotsTaken := by
  obtain ⟨_, _, _, _, rfl⟩ := h.rest
  exact hs

/-- A ticket's retest written anew. -/
theorem State.putRetest_offers (hk : s.core.ticket n = some k) (hw : k.retest = some w) {w' : Retest} (hr : w'.reason = w.reason) :
    State.Offers s (s.updCore fun c => c.putTicket n fun t => { t with retest := some w' }) where
  rest := by
    have hsame := Core.putTicket_same (f := fun t => { t with retest := some w' }) hk rfl
    exact ⟨_, _, _, _, congrArg (fun c => ({ s with core := c } : State)) hsame⟩
  tickets j := by
    have hput := s.core.ticket_putTicket_any n j (f := fun t => { t with retest := some w' }) fun _ => rfl
    by_cases hj : j = n
    · rw [if_pos hj] at hput
      refine .inr ⟨k, w, w', by rw [hj]; exact hk, hw, hr, hput.trans ?_⟩
      rw [hk]
      rfl
    · rw [if_neg hj] at hput
      exact .inl hput

/-- Ticket n keeps every other ticket as it is. -/
theorem State.putRetest_other (s : State) {n j : Nat} (hj : j ≠ n) (w : Retest) :
    (s.updCore fun c => c.putTicket n fun t => { t with retest := some w }).core.ticket j = s.core.ticket j :=
  (s.core.ticket_putTicket_any n j (f := fun t => { t with retest := some w }) fun _ => rfl).trans (if_neg hj)

/-- An offered retest that is accepted waits in the queue (R22, R122). -/
theorem State.offerFallen_accepted {due : Nat} (ht : s.core.ticket n = some k) (hk : k.kind = .line) (hw : k.retest = some w)
    (hdue : w.due = .dueAt due) (hnow : due ≤ s.now) (hfell : w.fellDue = none) (h : s.slotsTaken) (hd : s.ac.departed = false)
    (hr : s.refusal (s.ticketRequest n k w) = none) : s.offerFallen n = s.retestQueued n k w := by
  have hfalls : s.retestFallsDue n = s.offerFallen n := by simp [State.retestFallsDue, ht, hw, hdue, hnow, hfell]
  rw [← hfalls]
  exact State.retestFallsDue_accepted ht hk hw hdue hnow hfell h hd hr

/-- A request enters the queue and its walk grants nothing. -/
theorem State.enterQueue_offers (hs : s.settled) (r : Request) : State.Offers s (s.enterQueue r).walked where
  rest := by
    obtain ⟨hwalk, -⟩ := hs
    refine ⟨(s.enterQueue r).core.lines, s.core.tc.tickets, s.core.gm, (s.enterQueue r).ac.queue, ?_⟩
    unfold State.walked State.enterQueue State.updLine State.updCore State.updAc
    dsimp only
    rw [← hwalk]
    rfl
  tickets _ := .inl rfl

/-- A VERIFY retest that comes back falls due again. -/
theorem Core.retestAttempt_verify (hk : c.ticket n = some k) (hw : k.retest = some w) (hr : w.reason = .verify) :
    ∃ w', w'.reason = .verify ∧ c.retestAttempt n false = c.putTicket n fun t => { t with retest := some w' } := by
  unfold Core.retestAttempt
  simp only [hk, hw, hr, reduceCtorEq, false_and, if_false]
  exact ⟨_, rfl, rfl⟩

/-- A VERIFY retest offered, whatever its answer. -/
theorem State.offerRetest_offers (hs : s.settled) (hverify : ∀ k w, s.core.ticket n = some k → k.retest = some w → w.reason = .verify) :
    State.Offers s (s.offerRetest n).1.walked ∧ ∀ j, j ≠ n → (s.offerRetest n).1.core.ticket j = s.core.ticket j := by
  have hsame : State.Offers s s.walked := by
    rw [State.walked_of_settled hs]
    exact .refl s
  have hput {k : Ticket} {w w' : Retest} (hk : s.core.ticket n = some k) (hw : k.retest = some w) (hr : w'.reason = w.reason) :
      State.Offers s (s.updCore fun c => c.putTicket n fun t => { t with retest := some w' }).walked := by
    have hoffers := State.putRetest_offers hk hw hr
    rw [State.walked_of_settled (hoffers.settled hs)]
    exact hoffers
  unfold State.offerRetest
  split
  · exact ⟨hsame, fun _ _ => rfl⟩
  · next k hk =>
    split
    · split
      · exact ⟨hsame, fun _ _ => rfl⟩
      · next w hw =>
        have hreason := hverify k w hk hw
        generalize s.retestRequest k.subject (s.routineProgramme k.subject) w.reason (some n) = r
        dsimp only
        rcases s.offerCore_cases r with ⟨_, hc⟩ | ⟨a, _, hc⟩
        · rw [hc]
          have henter := State.enterQueue_offers hs r
          have hticket : (s.enterQueue r).walked.core.ticket n = some k := hk
          exact ⟨henter.trans (State.putRetest_offers hticket hw (w' := w.accepted) rfl),
            fun j hj => State.putRetest_other (s.enterQueue r) hj w.accepted⟩
        · rw [hc]
          dsimp only
          split
          · next hno => cases hno
          · obtain ⟨w', hr', he⟩ := Core.retestAttempt_verify hk hw hreason
            have heq : (s.updCore fun c => c.retestAttempt n false) = s.updCore fun c => c.putTicket n fun t => { t with retest := some w' } :=
              congrArg (fun c => ({ s with core := c } : State)) he
            rw [heq]
            exact ⟨hput hk hw (hr'.trans hreason.symm), fun j hj => s.putRetest_other hj w'⟩
          · exact ⟨hput hk hw rfl, fun j hj => s.putRetest_other hj _⟩
    · exact ⟨hsame, fun _ _ => rfl⟩

/-- A fallen VERIFY retest is offered, and no slot is granted. -/
theorem State.offerFallen_offers (hs : s.settled) (h : s.slotsTaken)
    (hverify : ∀ k w, s.core.ticket n = some k → k.retest = some w → w.reason = .verify) :
    State.Offers s (s.offerFallen n) ∧ ∀ j, j ≠ n → (s.offerFallen n).core.ticket j = s.core.ticket j := by
  obtain ⟨hoffers, hother⟩ := State.offerRetest_offers hs hverify
  have hd : (s.offerRetest n).1.ac.departed = false := (s.offerRetest_ac n).2.trans hs.2
  have ht : (s.offerRetest n).1.slotsTaken := hoffers.slotsTaken h
  unfold State.offerFallen
  rw [State.settle_of_taken ht hd]
  exact ⟨hoffers, hother⟩

/-! ### Several offers (R142) -/

/-- VERIFY retests are offered one after another. -/
theorem State.offersFallen (ns : List Nat) (hs : s.settled) (h : s.slotsTaken)
    (hverify : ∀ n ∈ ns, ∀ k w, s.core.ticket n = some k → k.retest = some w → w.reason = .verify) :
    State.Offers s (ns.foldl State.offerFallen s) ∧ ∀ j, j ∉ ns → (ns.foldl State.offerFallen s).core.ticket j = s.core.ticket j := by
  induction ns generalizing s with
  | nil => exact ⟨.refl s, fun _ _ => rfl⟩
  | cons n ns ih =>
    obtain ⟨hone, hother⟩ := State.offerFallen_offers hs h (hverify n List.mem_cons_self)
    have hstill (m : Nat) (hm : m ∈ ns) (k : Ticket) (w : Retest) (hk : (s.offerFallen n).core.ticket m = some k) (hw : k.retest = some w) :
        w.reason = .verify := by
      rcases hone.tickets m with he | ⟨k', v, v', hk', hv, hr, ht⟩
      · exact hverify m (List.mem_cons_of_mem n hm) k w (he ▸ hk) hw
      · obtain rfl : { k' with retest := some v' } = k := Option.some.inj (ht.symm.trans hk)
        obtain rfl : v' = w := Option.some.inj hw
        exact hr.trans (hverify m (List.mem_cons_of_mem n hm) k' v hk' hv)
    obtain ⟨hall, hrest⟩ := ih (hone.settled hs) (hone.slotsTaken h) hstill
    refine ⟨hone.trans hall, fun j hj => ?_⟩
    rw [List.mem_cons, not_or] at hj
    exact (hrest j hj.2).trans (hother j hj.1)

/-- A LINE ticket whose VERIFY retest is due and would be accepted but for the queue's room. -/
structure State.CanVerify (s : State) (k : Ticket) (due : Nat) : Prop where
  ticket : s.core.ticket k.number = some k
  kind : k.kind = .line
  retest : k.retest = some { reason := .verify, due := .dueAt due }
  now : due ≤ s.now
  access : (s.line k.subject).access = .none
  shelf : (s.shelf (shelfOf k.subject)).state = .serving ∨ (s.shelf (shelfOf k.subject)).state = .probing

/-- A ticket whose VERIFY retest is outstanding. -/
def Ticket.verifyOutstanding (k : Ticket) : Ticket := { k with retest := some { reason := .verify, due := .outstanding } }

theorem State.CanVerify.offered {due : Nat} (hc : s.CanVerify k due) (h : s.slotsTaken) (hs : s.settled) (hroom : s.ac.queue.length < 32) :
    (s.offerFallen k.number).core.ticket k.number = some k.verifyOutstanding
      ∧ (s.offerFallen k.number).ac.queue.length = s.ac.queue.length + 1
      ∧ (∀ l, ((s.offerFallen k.number).line l).access = if l = k.subject then .queued else (s.line l).access)
      ∧ (s.offerFallen k.number).core.shelves = s.core.shelves ∧ (s.offerFallen k.number).now = s.now := by
  have hr : s.refusal (s.ticketRequest k.number k { reason := .verify, due := .dueAt due }) = none := by
    rw [State.refusal_retest rfl]
    show (if (s.shelf (shelfOf k.subject)).state = .unfitted ∨ (s.shelf (shelfOf k.subject)).state = .silent then some Answer.shelfSilent
      else if (s.line k.subject).access ≠ .none then some .duplicate else if 32 ≤ s.ac.queue.length then some .queueFull else none) = none
    rw [if_neg, if_neg (by simp [hc.access]), if_neg (by omega)]
    rcases hc.shelf with hsh | hsh <;> simp [hsh]
  rw [State.offerFallen_accepted hc.ticket hc.kind hc.retest rfl hc.now rfl h hs.2 hr]
  refine ⟨State.retestQueued_ticket hc.ticket _, ?_⟩
  obtain ⟨gm, he⟩ := State.retestQueued_eq hc.ticket { reason := .verify, due := .dueAt due }
  rw [he]
  refine ⟨s.enterQueue_length _, fun l => ?_, rfl, rfl⟩
  refine (congrArg LineRec.access (s.line_enterQueue (s.ticketRequest k.number k { reason := .verify, due := .dueAt due }) l)).trans ?_
  show LineRec.access (if l = k.subject then _ else _) = _
  split <;> rfl

/-- A ticket that is not offered still can verify. -/
theorem State.CanVerify.after {due : Nat} {q : Ticket} (hc : s.CanVerify q due) (hk : s.CanVerify k due) (h : s.slotsTaken) (hs : s.settled)
    (hroom : s.ac.queue.length < 32) (hn : q.number ≠ k.number) (hsub : q.subject ≠ k.subject) : (s.offerFallen k.number).CanVerify q due := by
  obtain ⟨-, -, haccess, hshelves, hnow⟩ := hk.offered h hs hroom
  obtain ⟨-, hother⟩ := State.offerFallen_offers hs h (n := k.number) fun q w hq hw => by
    obtain rfl : k = q := Option.some.inj (hk.ticket.symm.trans hq)
    exact congrArg Retest.reason (Option.some.inj (hw.symm.trans hk.retest))
  have hshelf : (s.offerFallen k.number).shelf (shelfOf q.subject) = s.shelf (shelfOf q.subject) := by
    unfold State.shelf Core.shelf
    rw [hshelves]
  exact ⟨(hother _ hn).trans hc.ticket, hc.kind, hc.retest, hnow ▸ hc.now, (haccess _).trans ((if_neg hsub).trans hc.access), hshelf ▸ hc.shelf⟩

/-- With room for all, every VERIFY retest is accepted. -/
theorem State.offersFallen_accepted {due : Nat} (ks : List Ticket) (hs : s.settled) (h : s.slotsTaken) (hcan : ∀ k ∈ ks, s.CanVerify k due)
    (hnumbers : (ks.map (·.number)).Nodup) (hsubjects : (ks.map (·.subject)).Nodup) (hroom : s.ac.queue.length + ks.length ≤ 32) :
    ((ks.map (·.number)).foldl State.offerFallen s).ac.queue.length = s.ac.queue.length + ks.length
      ∧ (∀ l, (((ks.map (·.number)).foldl State.offerFallen s).line l).access =
          if l ∈ ks.map (·.subject) then .queued else (s.line l).access)
      ∧ ∀ k ∈ ks, ((ks.map (·.number)).foldl State.offerFallen s).core.ticket k.number = some k.verifyOutstanding := by
  induction ks generalizing s with
  | nil => exact ⟨rfl, fun l => by simp, fun k hk => by cases hk⟩
  | cons k ks ih =>
    have hk := hcan k List.mem_cons_self
    rw [List.length_cons] at hroom
    simp only [List.map_cons, List.nodup_cons, List.mem_map, not_exists, not_and] at hnumbers hsubjects
    obtain ⟨hnumber, hnumbers⟩ := hnumbers
    obtain ⟨hsubject, hsubjects⟩ := hsubjects
    obtain ⟨hticket, hlength, haccess, -, -⟩ := hk.offered h hs (by omega)
    obtain ⟨hoffers, -⟩ := State.offerFallen_offers hs h (n := k.number) fun q w hq hw => by
      obtain rfl : k = q := Option.some.inj (hk.ticket.symm.trans hq)
      exact congrArg Retest.reason (Option.some.inj (hw.symm.trans hk.retest))
    have hcan' (q : Ticket) (hq : q ∈ ks) : (s.offerFallen k.number).CanVerify q due :=
      (hcan q (List.mem_cons_of_mem k hq)).after hk h hs (by omega) (hnumber q hq) (hsubject q hq)
    obtain ⟨hall, hlines, htickets⟩ := ih (hoffers.settled hs) (hoffers.slotsTaken h) hcan' hnumbers hsubjects (by omega)
    obtain ⟨-, hrest⟩ := State.offersFallen (ks.map (·.number)) (hoffers.settled hs) (hoffers.slotsTaken h) fun n hn q w hq hw => by
      obtain ⟨y, hy, rfl⟩ := List.mem_map.mp hn
      obtain rfl : y = q := Option.some.inj ((hcan' y hy).ticket.symm.trans hq)
      exact congrArg Retest.reason (Option.some.inj (hw.symm.trans (hcan' y hy).retest))
    rw [List.map_cons, List.foldl_cons, List.map_cons, List.length_cons]
    refine ⟨by omega, fun l => ?_, fun q hq => ?_⟩
    · rw [hlines, haccess]
      by_cases hmem : l ∈ ks.map (·.subject)
      · rw [if_pos hmem, if_pos (List.mem_cons_of_mem _ hmem)]
      · rw [if_neg hmem]
        by_cases hl : l = k.subject
        · rw [if_pos hl, if_pos (hl ▸ List.mem_cons_self)]
        · rw [if_neg hl, if_neg fun hc => (List.mem_cons.mp hc).elim hl hmem]
    · rcases List.mem_cons.mp hq with rfl | hq
      · refine (hrest q.number fun hmem => ?_).trans hticket
        obtain ⟨y, hy, hyq⟩ := List.mem_map.mp hmem
        exact hnumber y hy hyq
      · exact htickets q hq

end Sys2Proof.Machine
end

section
/-! PROOF of O32: CLEAR. -/

namespace Sys2Proof.Machine

variable {s u v : State} {n b : Nat} {t : Ticket}

/-! ### The step of a CLEAR -/

/-- A CLEAR whose work owes nothing. -/
theorem exec_clear (ht : s.Takes) {ref : Byte} {number : BitVec 16} {a : Answer} (h : s.clearTicket number.toNat = (u, a)) (hs : u.settled) :
    exec (.clear ref number) s = .next (u.withUpFrame (s.answerFrame (.clear ref number) a [])).refreshConditions := by
  have hk := s.clearTicket_kept number.toNat
  rw [h] at hk
  have hj : (s.clearTicket number.toNat).1.answer (.clear ref number) (s.clearTicket number.toNat).2 = u.answer (.clear ref number) a [] := by
    rw [h]
  rw [← State.finish_worked ht.quiet hk hs]
  exact State.orderCommand_of_worked ht rfl hj hk

/-- A CLEAR that is answered and does no more. -/
theorem exec_clear_same (ht : s.Takes) {ref : Byte} {number : BitVec 16} {a : Answer} (h : s.clearTicket number.toNat = (s, a)) :
    exec (.clear ref number) s = .next (s.withUpFrame (s.answerFrame (.clear ref number) a [])) := by
  have hj : (s.clearTicket number.toNat).1.answer (.clear ref number) (s.clearTicket number.toNat).2 = s.answer (.clear ref number) a [] := by
    rw [h]
  exact State.orderCommand_of_answer ht rfl hj

/-- A ticket that stands alone, OPEN or ACKNOWLEDGED, is cleared by its kind (R125). -/
theorem State.clearTicket_standing (ht : s.core.ticket n = some t) (hp : t.parent = none) (hst : t.state.standing = true) :
    (t.kind = .line → s.clearTicket n = (s.clearLine t, .accepted))
      ∧ (t.kind = .group → s.clearTicket n = (s.clearGroup t, .accepted))
      ∧ (t.kind = .shelf → s.clearTicket n = (s.clearProbeShelf t.subject, .accepted))
      ∧ (t.kind = .bus → s.clearTicket n = (s.clearProbeBus t.subject, .accepted))
      ∧ (t.kind = .testSet → s.clearTicket n = (s.clearProbeSet t.subject, .accepted)) := by
  have hne : t.state ≠ .provisional := by
    intro h
    rw [h] at hst
    cases hst
  unfold State.clearTicket
  simp only [ht, hp, Option.isSome_none, Bool.false_eq_true, if_false, if_neg hne, hst, if_true]
  refine ⟨fun hk => ?_, fun hk => ?_, fun hk => ?_, fun hk => ?_, fun hk => ?_⟩ <;> rw [hk] <;> rfl

/-! ### CLEAR on a LINE ticket -/

/-- The ticket goes to verification and its line's trend with it, where the class is DEGRADING (R110, R125). -/
structure State.Verifying (s v : State) (t : Ticket) : Prop where
  rest : ∃ lines tickets gm oh, v =
    { s with core := { s.core with lines := lines, tc := { s.core.tc with tickets := tickets }, gm := gm, oh := oh } }
  ticket : v.core.ticket t.number = some (t.toVerify (.dueAt s.now))
  line : v.line t.subject = { s.line t.subject with trend := if t.cls = .fault .degrading then none else (s.line t.subject).trend }

/-- The state with the ticket VERIFYING, before the offer. -/
def State.verifying (s : State) (t : Ticket) : State :=
  (if t.cls = .fault .degrading then s.updCore fun c => c.removeTrend t.subject else s).updCore fun c =>
    c.putTicket t.number fun t => t.toVerify (.dueAt s.now)

theorem State.verifying_verifying (ht : s.core.ticket t.number = some t) : State.Verifying s (s.verifying t) t := by
  have hmid : ∃ lines w, w = (if t.cls = .fault .degrading then s.updCore fun c => c.removeTrend t.subject else s)
      ∧ w = { s with core := { s.core with lines := lines } }
      ∧ w.line t.subject = { s.line t.subject with trend := if t.cls = .fault .degrading then none else (s.line t.subject).trend } := by
    split
    · exact ⟨_, _, rfl, rfl, (s.core.line_updLine t.subject t.subject fun r => { r with trend := none }).trans (if_pos rfl)⟩
    · exact ⟨_, _, rfl, rfl, rfl⟩
  obtain ⟨lines, w, hw, hrest, hline⟩ := hmid
  unfold State.verifying
  rw [← hw]
  obtain ⟨tickets, gm, oh, hput⟩ := w.core.putTicket_eq t.number fun t => t.toVerify (.dueAt s.now)
  have hticket : w.core.ticket t.number = some t := by rw [hrest]; exact ht
  refine ⟨⟨lines, tickets, gm, oh, ?_⟩, Core.ticket_putTicket hticket fun _ => rfl, ?_⟩
  · refine (congrArg (fun c => ({ w with core := c } : State)) hput).trans ?_
    rw [hrest]
  · refine Eq.trans ?_ hline
    show (w.core.putTicket t.number fun t => t.toVerify (.dueAt s.now)).line t.subject = w.line t.subject
    rw [hput]
    rfl

theorem State.clearLine_accepted (ht : s.core.ticket t.number = some t) (hk : t.kind = .line) (h : s.slotsTaken) (hs : s.settled)
    (hr : s.refusal (s.retestRequest t.subject (s.routineProgramme t.subject) .verify (some t.number)) = none) :
    s.clearLine t = (s.verifying t).retestQueued t.number (t.toVerify (.dueAt s.now)) { reason := .verify, due := .dueAt s.now } := by
  have hv := State.verifying_verifying ht
  have hclear : s.clearLine t = (s.verifying t).offerFallen t.number := by
    unfold State.clearLine State.verifying
    split <;> rfl
  have haccess := congrArg LineRec.access hv.line
  rw [hclear]
  generalize s.verifying t = v at *
  obtain ⟨⟨lines, tickets, gm, oh, hrest⟩, hticket, -⟩ := hv
  refine State.offerFallen_accepted hticket hk rfl rfl ?_ rfl ?_ ?_ ?_
  · rw [hrest]; exact Nat.le_refl _
  · rw [hrest]; exact h
  · rw [hrest]; exact hs.2
  · rw [State.refusal_retest rfl] at hr ⊢
    refine Eq.trans ?_ hr
    show (if (v.shelf (shelfOf t.subject)).state = .unfitted ∨ (v.shelf (shelfOf t.subject)).state = .silent then some Answer.shelfSilent
      else if (v.line t.subject).access ≠ .none then some .duplicate else if 32 ≤ v.ac.queue.length then some .queueFull else none) = _
    rw [haccess, hrest]
    rfl

/-- The part once the cleared LINE ticket's retest stands in the queue. -/
structure State.LineCleared (s u : State) (t : Ticket) : Prop where
  rest : ∃ lines tickets gm oh queue, u =
    { s with
      core := { s.core with lines := lines, tc := { s.core.tc with tickets := tickets }, gm := gm, oh := oh }
      ac := { s.ac with queue := queue, walkDue := false } }
  ticket : u.core.ticket t.number = some { t with state := .verifying, retest := some { reason := .verify, due := .outstanding } }
  access : (u.line t.subject).access = .queued
  trend : (u.line t.subject).trend = if t.cls = .fault .degrading then none else (s.line t.subject).trend
  length : u.ac.queue.length = s.ac.queue.length + 1
  request : ∃ q ∈ u.ac.queue, q.cls = .retest ∧ q.line = t.subject ∧ q.reason = some .verify ∧ q.ticketRef = some t.number ∧ q.wait = 300

theorem State.Verifying.cleared (hv : State.Verifying s v t) :
    State.LineCleared s (v.retestQueued t.number (t.toVerify (.dueAt s.now)) { reason := .verify, due := .dueAt s.now }) t := by
  have hqueued := State.retestQueued_ticket hv.ticket { reason := .verify, due := .dueAt s.now }
  obtain ⟨gm, he⟩ := State.retestQueued_eq hv.ticket { reason := .verify, due := .dueAt s.now }
  have hline : (v.enterQueue (v.ticketRequest t.number (t.toVerify (.dueAt s.now)) { reason := .verify, due := .dueAt s.now })).line t.subject =
      { v.line t.subject with access := .queued } := (v.line_enterQueue _ _).trans (if_pos rfl)
  have hmem := v.mem_enterQueue (v.ticketRequest t.number (t.toVerify (.dueAt s.now)) { reason := .verify, due := .dueAt s.now })
  have hlength := v.enterQueue_length (v.ticketRequest t.number (t.toVerify (.dueAt s.now)) { reason := .verify, due := .dueAt s.now })
  obtain ⟨⟨lines, tickets, gm', oh, hrest⟩, -, htrend⟩ := hv
  refine ⟨?_, hqueued, ?_, ?_, ?_, ?_⟩
  · rw [he, hrest]
    exact ⟨_, _, _, _, _, rfl⟩
  · rw [he]
    exact (congrArg LineRec.access hline :)
  · rw [he]
    refine (congrArg LineRec.trend hline :).trans ?_
    rw [htrend]
  · rw [he]
    refine hlength.trans ?_
    rw [hrest]
  · rw [he]
    exact ⟨_, hmem, rfl, rfl, rfl, rfl, rfl⟩

/-! ### CLEAR on an equipment ticket (R38, R65, R128) -/

theorem State.makeReady_shelf_eq (s : State) (n : Nat) (op : AccessOp) : ∃ shelves i, s.makeReady (shelfOwner n) op =
    { s with core := { s.core with shelves := shelves }, htp := { s.htp with down := { s.htp.down with insertion := i } } } := by
  unfold State.makeReady
  split
  · exact ⟨_, _, rfl⟩
  · exact ⟨_, _, rfl⟩

/-- A shelf probed by a RELEASE_ALL, its order idle. -/
structure State.ShelfProbed (s t : State) (n : Nat) : Prop where
  rest : ∃ shelves i, t =
    { s with core := { s.core with shelves := shelves }, htp := { s.htp with down := { s.htp.down with insertion := i } } }
  order : (t.shelf n).order = s.madeReady .releaseAll
  probeDue : (s.shelf n).state = .silent → (t.shelf n).probeDue = some (s.core.timeMs + 10000)

theorem State.clearProbeShelf_probed (hn : n < 64) (ho : (s.shelf n).order = .idle) : State.ShelfProbed s (s.clearProbeShelf n) n := by
  unfold State.clearProbeShelf
  rw [if_pos ho]
  have hput := s.shelf_updShelf n n fun h => if h.state = .silent then { h with probeDue := some (s.after 10000) } else h
  rw [if_pos rfl] at hput
  have hready : (s.updShelf n fun h => if h.state = .silent then { h with probeDue := some (s.after 10000) } else h).madeReady .releaseAll =
      s.madeReady .releaseAll := rfl
  have hshelf := (s.updShelf n fun h => if h.state = .silent then { h with probeDue := some (s.after 10000) } else h).makeReady_shelfOwner
    hn .releaseAll n
  rw [if_pos rfl, hput, hready] at hshelf
  refine ⟨?_, (congrArg ShelfRec.order hshelf :), fun hsilent => ?_⟩
  · obtain ⟨_, _, he⟩ := (s.updShelf n fun h => if h.state = .silent then { h with probeDue := some (s.after 10000) } else h).makeReady_shelf_eq
      n .releaseAll
    rw [he]
    exact ⟨_, _, rfl⟩
  · rw [if_pos hsilent] at hshelf
    exact (congrArg ShelfRec.probeDue hshelf :)

/-- The bus of a FAULTED slot probed: at most its own order, or its shelf's, is made ready (R38). -/
structure State.BusProbed (s t : State) (b n : Nat) : Prop where
  rest : ∃ shelves i slots, t =
    { s with
      core := { s.core with shelves := shelves }
      htp := { s.htp with down := { s.htp.down with insertion := i } }
      ac := { s.ac with slots := slots } }
  other : ∀ k, k ≠ b → t.slot k = s.slot k
  serving : (s.shelf n).state = .serving → (s.slot b).order = .idle →
    t.slot b = { s.slot b with order := s.madeReady .release } ∧ t.core.shelves = s.core.shelves
  silent : (s.shelf n).state = .silent → (s.shelf n).order = .idle → t.slot b = s.slot b ∧ State.ShelfProbed s t n
  probing : (s.shelf n).state = .probing → t = s

theorem State.clearProbeBus_probed {l : Nat} (hb : b ∈ slotNumbers) (hf : (s.slot b).state = .faulted) (hl : (s.slot b).line = some l)
    (hn : shelfOf l < 64) : State.BusProbed s (s.clearProbeBus b) b (shelfOf l) := by
  have hshelf : s.slotShelf b = shelfOf l := by
    unfold State.slotShelf
    rw [hl]
    rfl
  have hsame : ∃ shelves i slots, s =
      { s with
        core := { s.core with shelves := shelves }
        htp := { s.htp with down := { s.htp.down with insertion := i } }
        ac := { s.ac with slots := slots } } := ⟨_, _, _, rfl⟩
  unfold State.clearProbeBus
  rw [if_pos hf, hshelf]
  cases hst : (s.shelf (shelfOf l)).state with
  | probing => exact ⟨hsame, fun _ _ => rfl, fun h => (nomatch hst.symm.trans h), fun h => (nomatch hst.symm.trans h), fun _ => rfl⟩
  | unfitted => exact ⟨hsame, fun _ _ => rfl, fun h => (nomatch hst.symm.trans h), fun h => (nomatch hst.symm.trans h), fun h => (nomatch hst.symm.trans h)⟩
  | serving =>
    dsimp only
    split
    · have hslot := s.makeReady_slot hb .release
      obtain ⟨_, _, he⟩ := State.makeReady_slotOwner s b .release
      refine ⟨?_, fun k hk => (hslot k).trans (if_neg hk), fun _ _ => ⟨(hslot b).trans (if_pos rfl), ?_⟩, fun h => (nomatch hst.symm.trans h), fun h => (nomatch hst.symm.trans h)⟩
      · rw [he]
        exact ⟨_, _, _, rfl⟩
      · rw [he]
    · next ho => exact ⟨hsame, fun _ _ => rfl, fun _ h => absurd h ho, fun h => (nomatch hst.symm.trans h), fun h => (nomatch hst.symm.trans h)⟩
  | silent =>
    dsimp only
    by_cases ho : (s.shelf (shelfOf l)).order = .idle
    · have hprobed := State.clearProbeShelf_probed hn ho
      generalize s.clearProbeShelf (shelfOf l) = t at *
      have hslot (k : Nat) : t.slot k = s.slot k := by
        obtain ⟨_, _, rfl⟩ := hprobed.rest
        rfl
      refine ⟨?_, fun k _ => hslot k, fun h => (nomatch hst.symm.trans h), fun _ _ => ⟨hslot b, hprobed⟩, fun h => (nomatch hst.symm.trans h)⟩
      obtain ⟨_, _, he⟩ := hprobed.rest
      exact ⟨_, _, _, he⟩
    · have he : s.clearProbeShelf (shelfOf l) = s := if_neg ho
      rw [he]
      exact ⟨hsame, fun _ _ => rfl, fun h => (nomatch hst.symm.trans h), fun _ h => absurd h ho, fun h => (nomatch hst.symm.trans h)⟩

/-- A set probed on CLEAR (R65). -/
theorem State.clearProbeSet_setIs (s : State) (n : Nat) : ∃ r, State.SetIs s (s.clearProbeSet n) n r
    ∧ ((s.testSet n).state = .silent → (s.testSet n).attempt = 0 →
        r = { (s.testSet n).asked with attempt := 1, probeDue := some (s.core.timeMs + 5000) })
    ∧ ((s.testSet n).state = .absent → r = (s.testSet n).enumerating)
    ∧ (((s.testSet n).state = .silent ∧ (s.testSet n).attempt ≠ 0) ∨ (s.testSet n).state = .probing ∨ (s.testSet n).state = .disabled →
        r = s.testSet n) := by
  have hsame : State.SetIs s s n (s.testSet n) := ⟨.refl s, fun k => by split <;> simp_all⟩
  unfold State.clearProbeSet
  cases hst : (s.testSet n).state with
  | absent => exact ⟨_, s.enumerate_setIs n, fun h => (nomatch h), fun _ => rfl, by simp⟩
  | probing => exact ⟨_, hsame, fun h => (nomatch h), fun h => (nomatch h), fun _ => rfl⟩
  | disabled => exact ⟨_, hsame, fun h => (nomatch h), fun h => (nomatch h), fun _ => rfl⟩
  | ready => exact ⟨_, hsame, fun h => (nomatch h), fun h => (nomatch h), fun _ => rfl⟩
  | silent =>
    dsimp only
    split
    · next ha => exact ⟨_, s.probeSet_setIs n, fun _ _ => rfl, fun h => (nomatch h), by simp [ha]⟩
    · next ha => exact ⟨_, hsame, fun _ h => absurd h ha, fun h => (nomatch h), fun _ => rfl⟩

/-! ### CLEAR on a GROUP ticket (R142) -/

/-- A table whose numbers are all different names every ticket by its number. -/
theorem Core.ticket_of_mem {c : Core} (hn : (c.tc.tickets.map (·.number)).Nodup) {k : Ticket} (hk : k ∈ c.tc.tickets) :
    c.ticket k.number = some k := by
  have hfind : ∃ q, c.ticket k.number = some q := by
    cases h : c.ticket k.number with
    | some q => exact ⟨q, rfl⟩
    | none => exact absurd (decide_eq_true rfl) (List.find?_eq_none.mp h k hk)
  obtain ⟨q, hq⟩ := hfind
  obtain ⟨hmem, hnum⟩ := Tc.find_some hq
  rw [hq, List.inj_on_of_nodup_map hn hmem hk hnum]

/-- The children that a GROUP ticket's CLEAR sends to verification. -/
def Core.going (c : Core) (n : Nat) : List Ticket := c.tc.tickets.filter fun k => decide (k.parent = some n) && k.state.standing

theorem Core.fanOut_going (c : Core) (n : Nat) :
    c.fanOut n = ((c.putTicket n fun t => t.toVerify .outstanding).sendToVerify ((c.going n).map (·.number)), (c.going n).map (·.number)) := by
  have hgoing : (c.children n).filter (fun t => t.state.standing) = c.going n := by
    unfold Core.children Core.going
    rw [List.filter_filter]
    exact List.filter_congr fun k _ => Bool.and_comm ..
  rw [Core.fanOut_eq, hgoing]

/-- The tickets as a GROUP ticket's CLEAR has sent them to verification. -/
structure State.FannedOut (s v : State) (n : Nat) : Prop where
  rest : ∃ tickets gm oh, v = { s with core := { s.core with tc := { s.core.tc with tickets := tickets }, gm := gm, oh := oh } }
  ticket : ∀ j, v.core.ticket j =
    if j ∈ (s.core.going n).map (·.number) then ((s.core.ticket j).map fun t => t.toVerify (.dueAt s.now))
    else if j = n then (s.core.ticket n).map fun t => t.toVerify .outstanding
    else s.core.ticket j

theorem State.fanOut_fannedOut (s : State) (n : Nat) (hn : n ∉ (s.core.going n).map (·.number)) :
    State.FannedOut s { s with core := (s.core.fanOut n).1 } n := by
  rw [Core.fanOut_going]
  obtain ⟨_, _, _, heq⟩ := s.core.putTicket_eq n fun t => t.toVerify .outstanding
  have hput := fun j => s.core.ticket_putTicket_any n j (f := fun t => t.toVerify .outstanding) fun _ => rfl
  have hnow : (s.core.putTicket n fun t => t.toVerify .outstanding).now = s.now := by rw [heq]; rfl
  have hsend := fun j => (s.core.putTicket n fun t => t.toVerify .outstanding).sendToVerify_ticket ((s.core.going n).map (·.number)) j
  rw [hnow] at hsend
  refine ⟨?_, fun j => (hsend j).2.trans ?_⟩
  · obtain ⟨⟨tickets, gm, oh, hrest⟩, -⟩ := hsend 0
    have hcore := hrest.trans (b := _) (c := { s.core with tc := { s.core.tc with tickets := tickets }, gm := gm, oh := oh }) (by rw [heq])
    exact ⟨tickets, gm, oh, congrArg (fun c => ({ s with core := c } : State)) hcore⟩
  · split
    · next hj =>
      rw [hput, if_neg (by rintro rfl; exact hn hj)]
    · exact hput j

theorem eq_map_of_forall₂ {α β : Type} {f : β → α} {l : List α} {m : List β} (h : List.Forall₂ (fun x y => f y = x) l m) : m.map f = l := by
  induction h with
  | nil => rfl
  | cons hx _ ih => rw [List.map_cons, hx, ih]

/-- A list of some elements' keys in another order is the keys of those elements in another order. -/
theorem exists_perm_map {α β : Type} {f : β → α} {l : List α} {m : List β} (h : l.Perm (m.map f)) : ∃ m' : List β, m'.Perm m ∧ m'.map f = l := by
  have hsame : List.Forall₂ (fun x y => f y = x) (m.map f) m :=
    List.forall₂_map_left_iff.mpr (List.forall₂_same.mpr fun _ _ => rfl)
  obtain ⟨m', hl, hp⟩ := List.perm_comp_forall₂ h hsame
  exact ⟨m', hp, eq_map_of_forall₂ hl⟩

/-- A GROUP ticket cleared. -/
structure State.GroupCleared (s u : State) (t : Ticket) : Prop where
  rest : ∃ lines tickets gm oh queue, u =
    { s with
      core := { s.core with lines := lines, tc := { s.core.tc with tickets := tickets }, gm := gm, oh := oh }
      ac := { s.ac with queue := queue } }
  ticket : u.core.ticket t.number = some { t with state := .verifying, retest := some { reason := .verify, due := .outstanding } }
  still : ∀ k ∈ s.core.tc.tickets, k.number ≠ t.number → k ∉ s.core.going t.number → u.core.ticket k.number = some k
  gone : ∀ k ∈ s.core.going t.number, ∃ w, w.reason = .verify ∧ u.core.ticket k.number = some { k with state := .verifying, retest := some w }
  accepted : (∀ k ∈ s.core.going t.number, k.kind = .line ∧ (s.line k.subject).access = .none
      ∧ ((s.shelf (shelfOf k.subject)).state = .serving ∨ (s.shelf (shelfOf k.subject)).state = .probing)) →
    ((s.core.going t.number).map (·.subject)).Nodup → s.ac.queue.length + (s.core.going t.number).length ≤ 32 →
      u.ac.queue.length = s.ac.queue.length + (s.core.going t.number).length
      ∧ ∀ k ∈ s.core.going t.number, (u.line k.subject).access = .queued
        ∧ u.core.ticket k.number = some { k with state := .verifying, retest := some { reason := .verify, due := .outstanding } }

theorem State.clearGroup_cleared (ht : s.core.ticket t.number = some t) (hp : t.parent = none)
    (hnodup : (s.core.tc.tickets.map (·.number)).Nodup) (htaken : s.slotsTaken) (hs : s.settled) :
    State.GroupCleared s (s.clearGroup t) t := by
  have hgoing (k : Ticket) (hk : k ∈ s.core.going t.number) : k ∈ s.core.tc.tickets ∧ k.parent = some t.number := by
    obtain ⟨hmem, hcond⟩ := List.mem_filter.mp hk
    exact ⟨hmem, of_decide_eq_true (Bool.and_eq_true_iff.mp hcond).1⟩
  have hunique {k q : Ticket} (hk : k ∈ s.core.tc.tickets) (hq : q ∈ s.core.tc.tickets) (h : k.number = q.number) : k = q :=
    List.inj_on_of_nodup_map hnodup hk hq h
  have hself : t.number ∉ (s.core.going t.number).map (·.number) := by
    intro hmem
    obtain ⟨k, hk, hkt⟩ := List.mem_map.mp hmem
    obtain ⟨hkmem, hparent⟩ := hgoing k hk
    rw [hunique hkmem (Tc.find_some ht).1 hkt, hp] at hparent
    cases hparent
  have hfan := s.fanOut_fannedOut t.number hself
  have hsorted := sortBy_perm (fun a b => decide (a < b)) ((s.core.going t.number).map (·.number))
  have hclear : s.clearGroup t = (sortBy (fun a b => decide (a < b)) ((s.core.going t.number).map (·.number))).foldl State.offerFallen
      { s with core := (s.core.fanOut t.number).1 } := by
    unfold State.clearGroup
    rw [Core.fanOut_going]
  rw [hclear]
  generalize sortBy (fun a b => decide (a < b)) ((s.core.going t.number).map (·.number)) = ns at *
  generalize ({ s with core := (s.core.fanOut t.number).1 } : State) = v at *
  have hmem (j : Nat) : j ∈ ns ↔ j ∈ (s.core.going t.number).map (·.number) := hsorted.mem_iff
  have hfanned (k : Ticket) (hk : k ∈ s.core.going t.number) : v.core.ticket k.number = some (k.toVerify (.dueAt s.now)) := by
    rw [hfan.ticket, if_pos (List.mem_map_of_mem hk), Core.ticket_of_mem hnodup (hgoing k hk).1]
    rfl
  obtain ⟨vtickets, vgm, voh, hv⟩ := hfan.rest
  have hvs : v.settled := by rw [hv]; exact hs
  have hvtaken : v.slotsTaken := by rw [hv]; exact htaken
  obtain ⟨hoffers, hother⟩ := State.offersFallen ns hvs hvtaken fun n hn k w hk hw => by
    obtain ⟨q, hq, rfl⟩ := List.mem_map.mp ((hmem n).mp hn)
    obtain rfl : q.toVerify (.dueAt s.now) = k := Option.some.inj ((hfanned q hq).symm.trans hk)
    exact congrArg Retest.reason (Option.some.inj hw.symm)
  refine ⟨?_, ?_, fun k hk hkt hkg => ?_, fun k hk => ?_, fun hcan hsubjects hroom => ?_⟩
  · obtain ⟨_, _, _, _, hu⟩ := hoffers.rest
    rw [hu, hv]
    exact ⟨_, _, _, _, _, rfl⟩
  · rw [hother _ fun h => hself ((hmem _).mp h), hfan.ticket, if_neg hself, if_pos rfl, ht]
    rfl
  · have hout : k.number ∉ (s.core.going t.number).map (·.number) := by
      intro h
      obtain ⟨q, hq, hqk⟩ := List.mem_map.mp h
      exact hkg (hunique (hgoing q hq).1 hk hqk ▸ hq)
    rw [hother _ fun h => hout ((hmem _).mp h), hfan.ticket, if_neg hout, if_neg hkt, Core.ticket_of_mem hnodup hk]
  · rcases hoffers.tickets k.number with he | ⟨q, w, w', hq, hw, hr, hu⟩
    · exact ⟨{ reason := .verify, due := .dueAt s.now }, rfl, he.trans (hfanned k hk)⟩
    · obtain rfl : k.toVerify (.dueAt s.now) = q := Option.some.inj ((hfanned k hk).symm.trans hq)
      exact ⟨w', hr.trans (congrArg Retest.reason (Option.some.inj hw.symm)), hu⟩
  · have hperm : ns.Perm (((s.core.going t.number).map fun k => k.toVerify (.dueAt s.now)).map (·.number)) := by
      rw [List.map_map]
      exact hsorted
    obtain ⟨ks, hks, rfl⟩ := exists_perm_map hperm
    have hof (q : Ticket) (hq : q ∈ ks) : ∃ k ∈ s.core.going t.number, k.toVerify (.dueAt s.now) = q := List.mem_map.mp (hks.mem_iff.mp hq)
    have hlength : ks.length = (s.core.going t.number).length := hks.length_eq.trans (List.length_map _)
    have hverify (q : Ticket) (hq : q ∈ ks) : v.CanVerify q s.now := by
      obtain ⟨k, hk, rfl⟩ := hof q hq
      obtain ⟨hkind, haccess, hshelf⟩ := hcan k hk
      refine ⟨hfanned k hk, hkind, rfl, ?_, ?_, ?_⟩
      · rw [hv]; exact Nat.le_refl _
      · rw [hv]; exact haccess
      · rw [hv]; exact hshelf
    have hnumbers : (ks.map (·.number)).Nodup := by
      rw [hsorted.nodup_iff]
      exact hnodup.sublist (List.filter_sublist.map _)
    have hsubs : (ks.map (·.subject)).Nodup := by
      rw [(hks.map (·.subject)).nodup_iff, List.map_map]
      exact hsubjects
    have hvlen : v.ac.queue.length = s.ac.queue.length := by rw [hv]
    obtain ⟨hall, hlines, htickets⟩ := State.offersFallen_accepted ks hvs hvtaken hverify hnumbers hsubs (by omega)
    refine ⟨by omega, fun k hk => ?_⟩
    have hin : k.toVerify (.dueAt s.now) ∈ ks := hks.mem_iff.mpr (List.mem_map_of_mem hk)
    exact ⟨(hlines k.subject).trans (if_pos (List.mem_map_of_mem (f := fun q : Ticket => q.subject) hin)), htickets _ hin⟩

end Sys2Proof.Machine

open Sys2Proof Sys2Proof.Machine in
/-- Settles O32: the ticket's kind decides, and every piece of work owes nothing when it is done. -/
theorem clearSendsToVerification : Obligations.ClearSendsToVerification := by
  intro ref number s ht
  have hs := ht.quiet.settled
  have hstanding := fun t => State.clearTicket_standing (s := s) (n := number.toNat) (t := t)
  refine ⟨fun hnone => exec_clear_same ht ?_, fun t hticket => ⟨fun hp => exec_clear_same ht ?_, fun hp hst => exec_clear_same ht ?_,
    fun hp hst => exec_clear_same ht ?_, fun hp hst hk hr htaken => ?_, fun hp hst hk hsub ho => ?_, fun hp hst hk hsub hf l hl hl' => ?_,
    fun hp hst hk hsub => ?_, fun hp hst hk hnodup htaken => ?_⟩⟩
  · unfold State.clearTicket
    rw [hnone]
  · unfold State.clearTicket
    simp only [hticket, hp, if_true]
  · unfold State.clearTicket
    simp only [hticket, hp, hst, Option.isSome_none, Bool.false_eq_true, if_false, if_true]
  · unfold State.clearTicket
    rcases hst with hst | hst <;> simp [hticket, hp, hst, TicketState.standing]
  · obtain ⟨-, hnumber⟩ := Tc.find_some hticket
    obtain ⟨hclear, -⟩ := hstanding t hticket hp hst
    have hclear := hclear hk
    rw [← hnumber] at hticket hr ⊢
    rw [State.clearLine_accepted hticket hk htaken hs hr] at hclear
    have hv := State.verifying_verifying hticket
    generalize s.verifying t = v at *
    have hdone := hv.cleared
    generalize v.retestQueued t.number (t.toVerify (.dueAt s.now)) { reason := .verify, due := .dueAt s.now } = u at *
    have hus : u.settled := by
      obtain ⟨_, _, _, _, _, rfl⟩ := hdone.rest
      exact ⟨rfl, hs.2⟩
    refine ⟨_, exec_clear ht hclear hus, hdone.ticket, hdone.access, hdone.length, hdone.trend, hdone.request, ?_⟩
    obtain ⟨_, _, _, _, _, rfl⟩ := hdone.rest
    exact ⟨rfl, rfl, rfl⟩
  · obtain ⟨-, -, hclear, -⟩ := hstanding t hticket hp hst
    have hclear := hclear hk
    have hprobed := State.clearProbeShelf_probed hsub ho
    generalize s.clearProbeShelf t.subject = u at *
    have hus : u.settled := by
      obtain ⟨_, _, rfl⟩ := hprobed.rest
      exact hs
    refine ⟨_, exec_clear ht hclear hus, hprobed.order.trans (s.madeReady_eq _), hprobed.probeDue, ?_⟩
    obtain ⟨_, _, rfl⟩ := hprobed.rest
    exact ⟨rfl, rfl, rfl, rfl, rfl⟩
  · obtain ⟨-, -, -, hclear, -⟩ := hstanding t hticket hp hst
    have hclear := hclear hk
    have hn : shelfOf l < 64 := by unfold shelfOf; omega
    have hprobed := State.clearProbeBus_probed (mem_slotNumbers.mpr hsub) hf hl hn
    generalize s.clearProbeBus t.subject = u at *
    have hus : u.settled := by
      obtain ⟨_, _, _, rfl⟩ := hprobed.rest
      exact hs
    refine ⟨_, exec_clear ht hclear hus, ?_, ?_, ?_, ?_, ?_, hprobed.other, hprobed.serving, fun hsilent hidle => ?_, fun hprobing => ?_⟩
    · obtain ⟨_, _, _, rfl⟩ := hprobed.rest; rfl
    · obtain ⟨_, _, _, rfl⟩ := hprobed.rest; rfl
    · obtain ⟨_, _, _, rfl⟩ := hprobed.rest; rfl
    · obtain ⟨_, _, _, rfl⟩ := hprobed.rest; rfl
    · obtain ⟨_, _, _, rfl⟩ := hprobed.rest; rfl
    · obtain ⟨hslot, hshelf⟩ := hprobed.silent hsilent hidle
      exact ⟨hslot, hshelf.order, hshelf.probeDue hsilent⟩
    · obtain rfl := hprobed.probing hprobing
      rw [State.refreshConditions_of_shown (ht.quiet.withUpFrame _).conditions]
      exact ⟨rfl, rfl, rfl⟩
  · obtain ⟨-, -, -, -, hclear⟩ := hstanding t hticket hp hst
    have hclear := hclear hk
    obtain ⟨r, hset, hsilent, habsent, hsame⟩ := s.clearProbeSet_setIs t.subject
    generalize s.clearProbeSet t.subject = u at *
    have hself := hset.self
    obtain ⟨⟨_, rfl⟩, hother⟩ := hset
    refine ⟨_, exec_clear ht hclear hs, rfl, rfl, rfl, rfl, rfl, fun k hk => (hother k).trans (if_neg hk), fun h1 h2 => ?_, fun h => ?_,
      fun h => hself.trans (hsame h)⟩
    · have hprobed := hself.trans (hsilent h1 h2)
      exact ⟨(congrArg TestSet.state hprobed :).trans h1, (congrArg TestSet.attempt hprobed :), (congrArg TestSet.stream hprobed :),
        (congrArg TestSet.probeDue hprobed :), (congrArg (fun q : TestSet => q.sending.map (·.msg)) hprobed :).trans (TestSet.asked_msgs _)⟩
    · have hfound := hself.trans (habsent h)
      exact ⟨(congrArg TestSet.state hfound :), (congrArg TestSet.attempt hfound :), (congrArg TestSet.stream hfound :),
        (congrArg (fun q : TestSet => q.sending.map (·.msg)) hfound :).trans (TestSet.enumerating_msgs _)⟩
  · obtain ⟨-, hnumber⟩ := Tc.find_some hticket
    obtain ⟨-, hclear, -⟩ := hstanding t hticket hp hst
    have hclear := hclear hk
    rw [← hnumber] at hticket ⊢
    have hdone := State.clearGroup_cleared hticket hp hnodup htaken hs
    generalize s.clearGroup t = u at *
    have hus : u.settled := by
      obtain ⟨_, _, _, _, _, rfl⟩ := hdone.rest
      exact hs
    refine ⟨_, exec_clear ht hclear hus, hdone.ticket, ?_, ?_, ?_, ?_, hdone.still, hdone.gone, hdone.accepted⟩
    all_goals
      obtain ⟨_, _, _, _, _, rfl⟩ := hdone.rest
      rfl
end

section
/-! SUPPORT. RELEASE and RELEASE_ALL orders that end, below a shelf's third failure (R32–R34, R36). -/

namespace Sys2Proof.Machine

variable {s t u v w : State} {b n l : Nat} {h : ShelfRec}

/-! ### A failed RELEASE is repeated (R33) -/

/-- Slot b's RELEASE is made ready again, and its shelf counts the failure. -/
structure State.ReleaseRepeated (b n : Nat) (s t : State) : Prop where
  rest : ∃ shelves insertion sending slots, t =
    { s with
      core := { s.core with shelves := shelves }
      htp := { s.htp with down := { s.htp.down with insertion := insertion, sending := sending } }
      ac := { s.ac with slots := slots } }
  slot : ∀ k, t.slot k =
    if k = b then { s.slot b with attempt := (s.slot b).attempt + 1, order := s.madeReady .release } else s.slot k
  failures : (t.shelf n).failures = (s.shelf n).failures + 1

/-- The shelf of a slot, its order over. -/
theorem State.endOrder_slotShelf (hb : b ∈ slotNumbers) (hl : (s.slot b).line = some l) :
    (s.endOrder (slotOwner b)).slotShelf b = shelfOf l := by
  unfold State.slotShelf
  rw [State.endOrder_slot s hb, if_pos rfl]
  show shelfOf ((s.slot b).line.getD 0) = _
  rw [hl]
  rfl

/-- An order's end counts nothing. -/
theorem State.endOrder_slot_shelf (s : State) (hb : b ∈ slotNumbers) (n : Nat) : (s.endOrder (slotOwner b)).shelf n = s.shelf n := by
  rw [slotOwner_val hb]
  rfl

theorem State.release_repeats (b : Fin 4) (hstate : (s.slot b.val).state = .releasing) (hl : (s.slot b.val).line = some l)
    (ha : (s.slot b.val).attempt < 3) (hlow : (s.shelf (shelfOf l)).failures ≤ 1) :
    State.ReleaseRepeated b.val (shelfOf l) s (s.transactionEnds (.slot b) .release false) := by
  have hb : b.val ∈ slotNumbers := mem_slotNumbers.mpr b.isLt
  have hends : s.transactionEnds (.slot b) .release false = (s.endOrder (slotOwner b.val)).releaseFailed b.val := by
    rw [slotOwner_val hb]
    rfl
  have hover := s.endOrder_over hb (shelfOf l) fun q => { q with failures := satSucc 3 q.failures }
  rw [satSucc_of_lt (by omega)] at hover
  have hcount : (s.endOrder (slotOwner b.val)).countFailure (shelfOf l) =
      (s.endOrder (slotOwner b.val)).updShelf (shelfOf l) fun q => { q with failures := satSucc 3 q.failures } :=
    State.countFailure_low (by rw [s.endOrder_slot_shelf hb]; exact hlow)
  have hzero : (s.endOrder (slotOwner b.val)).slot b.val = { s.slot b.val with order := .idle } := (s.endOrder_slot hb b.val).trans (if_pos rfl)
  rw [hends]
  unfold State.releaseFailed
  simp only [State.endOrder_slotShelf hb hl, hzero, hstate, if_true, if_pos ha, hcount]
  generalize (s.endOrder (slotOwner b.val)).updShelf (shelfOf l) (fun q => { q with failures := satSucc 3 q.failures }) = w at *
  have hself : w.slot b.val = { s.slot b.val with order := .idle } := (hover.slot b.val).trans (if_pos rfl)
  rw [if_pos (by rw [hself]; exact hstate)]
  have hslot := (w.updSlot b.val fun r => { r with attempt := satSucc 3 r.attempt }).makeReady_slot hb .release
  have hready : (w.updSlot b.val fun r => { r with attempt := satSucc 3 r.attempt }).madeReady .release = s.madeReady .release :=
    hover.madeReady .release
  obtain ⟨_, _, he⟩ := State.makeReady_slotOwner (w.updSlot b.val fun r => { r with attempt := satSucc 3 r.attempt }) b.val .release
  refine ⟨?_, fun k => ?_, ?_⟩
  · rw [he]
    obtain ⟨_, _, _, _, rfl⟩ := hover.rest
    exact ⟨_, _, _, _, rfl⟩
  · rw [hslot, hready, State.slot_updSlot, State.slot_updSlot, if_pos rfl, hself]
    dsimp only
    rw [satSucc_of_lt ha]
    split
    · rfl
    · next hk => rw [hover.slot, if_neg hk]
  · rw [he]
    show (w.shelf (shelfOf l)).failures = _
    rw [hover.shelf, if_pos rfl]

/-! ### A RELEASE has ended with DONE (R32) -/

/-- Slot b's RELEASE has ended with DONE and the slot is FREE. -/
theorem State.release_done (b : Fin 4) (hstate : (s.slot b.val).state = .releasing) (hl : (s.slot b.val).line = some l)
    (hrests : s.LineRests l) (hn : s.noRetests) :
    ∃ w, State.OrderOver b.val (shelfOf l) { s.shelf (shelfOf l) with failures := 0 } s w
      ∧ State.AccessFreed b.val l w (s.transactionEnds (.slot b) .release true) := by
  have hb : b.val ∈ slotNumbers := mem_slotNumbers.mpr b.isLt
  have hover := s.endOrder_over hb (shelfOf l) fun q => { q with failures := 0 }
  have hends : s.transactionEnds (.slot b) .release true =
      ((s.endOrder (slotOwner b.val)).updShelf (shelfOf l) fun q => { q with failures := 0 }).releaseDone b.val := by
    rw [← State.endOrder_slotShelf hb hl, slotOwner_val hb]
    rfl
  rw [hends]
  generalize (s.endOrder (slotOwner b.val)).updShelf (shelfOf l) (fun q => { q with failures := 0 }) = w at *
  have hself : w.slot b.val = { s.slot b.val with order := .idle } := (hover.slot b.val).trans (if_pos rfl)
  have hfree : w.releaseDone b.val = w.freeSlot b.val := by
    unfold State.releaseDone
    rw [hself]
    exact if_neg (by rw [hstate]; exact nofun)
  rw [hfree]
  refine ⟨w, hover, State.freeSlot_freed hb (by rw [hself]; exact hl) ?_ ?_⟩
  · obtain ⟨_, _, _, _, rfl⟩ := hover.rest
    exact hrests.calm.of_same rfl rfl rfl rfl rfl rfl
  · obtain ⟨_, _, _, _, rfl⟩ := hover.rest
    exact hn

/-! ### A RELEASE_ALL has failed (R34, R36) -/

/-- The shelf's order is over, and its record is h. -/
structure State.ProbeOver (n : Nat) (h : ShelfRec) (s t : State) : Prop where
  rest : State.ShelfOnly s t
  octets : t.htp.down.insertion.map (·.octets) = s.htp.down.insertion.map (·.octets)
  shelf : ∀ k, t.shelf k = if k = n then h else s.shelf k

theorem shelfOwner_val (n : Fin 64) : shelfOwner n.val = .shelf n := by
  unfold shelfOwner
  congr
  exact Nat.mod_eq_of_lt n.isLt

theorem State.endOrder_probe (s : State) (n : Fin 64) (f : ShelfRec → ShelfRec) :
    State.ProbeOver n.val (f { s.shelf n.val with order := .idle }) s ((s.endOrder (.shelf n)).updShelf n.val f) where
  rest := (s.endOrder_shelf n.val 0).1.trans ⟨_, _, _, rfl⟩ |> fun h => shelfOwner_val n ▸ h
  octets := s.endOrder_octets (.shelf n)
  shelf k := by
    have hend (j : Nat) := (s.endOrder_shelf n.val j).2
    simp only [shelfOwner_val, Nat.mod_eq_of_lt n.isLt] at hend
    rw [State.shelf_updShelf, hend, hend, if_pos rfl]
    split <;> rfl

/-- A failure that silences no shelf (R29). -/
theorem State.countFailure_same (h : (s.shelf n).failures ≤ 1 ∨ (s.shelf n).state = .silent) :
    s.countFailure n = s.updShelf n fun q => { q with failures := satSucc 3 q.failures } := by
  rcases h with h | h
  · exact State.countFailure_low h
  · have hstate : ((s.updShelf n fun q => { q with failures := satSucc 3 q.failures }).shelf n).state = .silent := by
      rw [State.shelf_updShelf, if_pos rfl]
      exact h
    unfold State.countFailure
    refine if_neg fun hc => ?_
    rcases hc.2 with hs | hs <;> exact nomatch hstate.symm.trans hs

theorem State.probe_fails (n : Fin 64) (h : (s.shelf n.val).failures ≤ 1 ∨ (s.shelf n.val).state = .silent) :
    ∃ w, State.ProbeOver n.val { s.shelf n.val with failures := satSucc 3 (s.shelf n.val).failures, order := .idle } s w
      ∧ s.transactionEnds (.shelf n) .releaseAll false =
        if (s.shelf n.val).state = .probing then w.makeReady (shelfOwner n.val) .releaseAll else w := by
  have hover := s.endOrder_probe n fun q => { q with failures := satSucc 3 q.failures }
  have hend : (s.endOrder (.shelf n)).shelf n.val = { s.shelf n.val with order := .idle } := by
    have hend := (s.endOrder_shelf n.val n.val).2
    rw [shelfOwner_val, Nat.mod_eq_of_lt n.isLt, if_pos rfl] at hend
    exact hend
  have hcount := State.countFailure_same (s := s.endOrder (.shelf n)) (n := n.val) (by rw [hend]; exact h)
  refine ⟨_, hover, ?_⟩
  show (s.endOrder (.shelf n)).probeFails n.val = _
  unfold State.probeFails
  rw [hcount]
  dsimp only
  rw [hover.shelf, if_pos rfl]

theorem State.ProbeOver.madeReady (ho : State.ProbeOver n h s t) (op : AccessOp) : t.madeReady op = s.madeReady op := by
  have hlength := congrArg List.length ho.octets
  rw [List.length_map, List.length_map] at hlength
  unfold State.madeReady
  rw [hlength]

end Sys2Proof.Machine
end

section
/-! SUPPORT. A shelf that recovers: its FAULTED slots go FREE, the tickets of its buses and its own are told, and the lines examined
(R34, R36, R128). -/

namespace Sys2Proof.Machine

variable {s t u v : State} {c d : Core} {b n m l : Nat} {k : Ticket}

/-! ### The TC is told of a recovery (R128) -/

/-- What the TC writes when it is told of a recovery. -/
def Core.TicketsOnly (c d : Core) : Prop :=
  ∃ tickets notices gm oh, d = { c with tc := { c.tc with tickets := tickets, notices := notices }, gm := gm, oh := oh }

theorem Core.TicketsOnly.refl (c : Core) : Core.TicketsOnly c c := ⟨_, _, _, _, rfl⟩

theorem Core.TicketsOnly.trans {e : Core} (h : Core.TicketsOnly c d) (g : Core.TicketsOnly d e) : Core.TicketsOnly c e := by
  obtain ⟨_, _, _, _, rfl⟩ := h
  obtain ⟨_, _, _, _, rfl⟩ := g
  exact ⟨_, _, _, _, rfl⟩

theorem Core.putTicket_only (c : Core) (n : Nat) (f : Ticket → Ticket) : Core.TicketsOnly c (c.putTicket n f) := by
  obtain ⟨_, _, _, h⟩ := c.putTicket_eq n f
  exact ⟨_, _, _, _, h⟩

theorem Core.noticeDue_only (c : Core) (n : Nat) : Core.TicketsOnly c (c.noticeDue n) := by
  unfold Core.noticeDue
  split
  · exact .refl c
  · split
    · exact .refl c
    · exact (c.putTicket_only n _).trans ⟨_, _, _, _, rfl⟩

theorem Core.recovered_only (c : Core) (kind : TicketKind) (subject : Nat) : Core.TicketsOnly c (c.recovered kind subject) := by
  unfold Core.recovered
  split
  · exact .refl c
  · split
    · exact (c.putTicket_only _ _).trans (Core.noticeDue_only _ _)
    · exact .refl c

/-- No ticket wants a retest. -/
def Core.noRetests (c : Core) : Prop := ∀ k ∈ c.tc.tickets, k.retest = none

theorem Core.putTicket_noRetests (h : c.noRetests) (n : Nat) {f : Ticket → Ticket} (hf : ∀ k, (f k).retest = k.retest) :
    (c.putTicket n f).noRetests := by
  unfold Core.putTicket
  split
  · exact h
  · intro k hk
    obtain ⟨q, hq, rfl⟩ := List.mem_map.mp hk
    split
    · rw [hf]
      exact h q hq
    · exact h q hq

theorem Core.noticeDue_noRetests (h : c.noRetests) (n : Nat) : (c.noticeDue n).noRetests := by
  unfold Core.noticeDue
  split
  · exact h
  · split
    · exact h
    · exact Core.putTicket_noRetests (f := fun t => { t with noticePending := true }) h n fun _ => rfl

theorem Core.recovered_noRetests (h : c.noRetests) (kind : TicketKind) (subject : Nat) : (c.recovered kind subject).noRetests := by
  unfold Core.recovered
  split
  · exact h
  · split
    · exact Core.noticeDue_noRetests (Core.putTicket_noRetests (f := fun t => { t with state := .closing }) h _ fun _ => rfl) _
    · exact h

/-- A notice falls due on one ticket and leaves the others. -/
theorem Core.noticeDue_other (c : Core) (hm : m ≠ n) : (c.noticeDue n).ticket m = c.ticket m := by
  unfold Core.noticeDue
  split
  · rfl
  · split
    · rfl
    · exact (c.ticket_putTicket_any n m (f := fun t => { t with noticePending := true }) fun _ => rfl).trans (if_neg hm)

/-- The recovery of a bus leaves every ticket that is not of a bus. -/
theorem Core.recovered_bus_other (h : c.Sound) (b : Nat) (hk : c.ticket m = some k) (hkind : k.kind ≠ .bus) :
    (c.recovered .bus b).ticket m = some k := by
  unfold Core.recovered
  split
  · exact hk
  · next q hq =>
    have hqmem : q ∈ c.tc.tickets := List.mem_of_find?_eq_some hq
    have hqkind : q.kind = .bus := by
      have hp := List.find?_some hq
      exact of_decide_eq_true (Bool.and_eq_true_iff.mp hp).1
    obtain ⟨hkmem, hknum⟩ := Tc.find_some hk
    have hne : m ≠ q.number := by
      rintro rfl
      exact hkind (List.inj_on_of_nodup_map h.tc.numbers hkmem hqmem hknum ▸ hqkind)
    split
    · rw [Core.noticeDue_other _ hne, Core.ticket_putTicket_any c q.number m (f := fun t => { t with state := .closing }) (fun _ => rfl), if_neg hne]
      exact hk
    · exact hk

/-- The standing ticket of a shelf that has recovered is CLOSING, with its notice due. -/
theorem Core.recovered_shelf (h : c.tc.Sound) (hs : (c.shelf n).ticket = some m) (hk : c.ticket m = some k) (hp : k.parent = none)
    (hst : k.state.standing = true) :
    (c.recovered .shelf n).ticket m = some { k with state := .closing, noticePending := true } ∧ m ∈ (c.recovered .shelf n).tc.notices := by
  obtain ⟨hkmem, rfl⟩ := Tc.find_some hk
  have hticket : c.equipmentTicket .shelf n = some k := by
    unfold Core.equipmentTicket
    simp only [hs, Option.bind_some, hk]
  have hput := Core.ticket_putTicket hk (f := fun t => { t with state := .closing }) fun _ => rfl
  unfold Core.recovered
  simp only [hticket, hst, if_true]
  unfold Core.noticeDue
  simp only [hput]
  have hchild : (c.putTicket k.number fun t => { t with state := .closing }).childOfLiveGroup { k with state := .closing } = false := by
    unfold Core.childOfLiveGroup
    simp only [hp, Option.bind_none]
  by_cases hpend : k.noticePending = true
  · obtain ⟨tickets, gm, oh, he⟩ := c.putTicket_eq k.number fun t => { t with state := .closing }
    have hmem : k.number ∈ c.tc.notices := (h.pending _).mpr ⟨k, hkmem, rfl, hpend⟩
    have hsame : ({ k with state := .closing } : Ticket) = { k with state := .closing, noticePending := true } := by
      cases k
      cases hpend
      rfl
    rw [if_pos (by rw [hpend, Bool.true_or])]
    refine ⟨hput.trans (congrArg some hsame), ?_⟩
    rw [he]
    exact hmem
  · rw [if_neg (by rw [hchild, Bool.or_false]; exact hpend)]
    exact ⟨Core.ticket_putTicket hput (f := fun t => { t with noticePending := true }) fun _ => rfl, List.mem_append_right _ List.mem_cons_self⟩

/-! ### FAULTED slots go FREE (R36) -/

/-- The slots of a list, not live, have gone FREE and the TC has been told of their buses. -/
structure State.Recovering (bs : List Nat) (s t : State) : Prop where
  rest : ∃ lines shelves tc gm oh insertion sending slots quota walk, t =
    { s with
      core := { s.core with lines := lines, shelves := shelves, tc := tc, gm := gm, oh := oh }
      htp := { s.htp with down := { s.htp.down with insertion := insertion, sending := sending } }
      ac := { s.ac with slots := slots, quotaInForce := quota, walkDue := walk } }
  kept : State.Kept s t
  slot : ∀ k, t.slot k = if k ∈ bs then { (s.slot k).freed with order := .idle } else s.slot k
  line : ∀ l, t.line l = s.line l ∨ t.line l = { s.line l with access := .none }
  access : ∀ b ∈ bs, ∀ l, (s.slot b).line = some l → (t.line l).access = .none
  shelf : ∀ n, ∃ pairs, t.shelf n = { s.shelf n with freePairs := pairs }
  ticket : s.core.Sound → ∀ m k, s.core.ticket m = some k → k.kind ≠ .bus → t.core.ticket m = some k
  noRetests : s.noRetests → t.noRetests

theorem State.recoverSlot_recovering (hb : b ∈ slotNumbers) (hl : (s.slot b).line = some l) : State.Recovering [b] s (s.recoverSlot b) := by
  have hfreed := State.slotFree_freed hb hl
  have hkept := State.recoverSlot_kept (.refl s) b
  have hvkept := State.slotFree_kept (.refl s) b
  unfold State.recoverSlot at hkept ⊢
  generalize s.slotFree b = v at *
  obtain ⟨tickets, notices, gm, oh, he⟩ := v.core.recovered_only .bus b
  have hline (j : Nat) : (v.updCore fun c => c.recovered .bus b).line j = v.line j := by
    show (v.core.recovered .bus b).line j = _
    rw [he]
    rfl
  have hshelf (j : Nat) : (v.updCore fun c => c.recovered .bus b).shelf j = v.shelf j := by
    show (v.core.recovered .bus b).shelf j = _
    rw [he]
    rfl
  obtain ⟨lines, shelves, insertion, sending, slots, quota, hv⟩ := hfreed.rest
  have htc : v.core.tc = s.core.tc := by rw [hv]
  refine ⟨?_, hkept, fun j => ?_, fun j => ?_, fun j hj i hi => ?_, fun j => ?_, fun hsound m k hk hkind => ?_, fun hn => ?_⟩
  · refine ⟨lines, shelves, { s.core.tc with tickets := tickets, notices := notices }, gm, oh, insertion, sending, slots, quota, true, ?_⟩
    refine (congrArg (fun c => ({ v with core := c } : State)) he).trans ?_
    rw [hv]
  · refine (hfreed.slot j).trans ?_
    by_cases hj : j = b
    · subst hj
      rw [if_pos rfl, if_pos List.mem_cons_self]
    · rw [if_neg hj, if_neg fun h => hj (List.mem_singleton.mp h)]
  · rw [hline, hfreed.line]
    split
    · next hj => exact .inr (by rw [hj])
    · exact .inl rfl
  · obtain rfl := List.mem_singleton.mp hj
    obtain rfl : l = i := Option.some.inj (hl.symm.trans hi)
    rw [hline, hfreed.line, if_pos rfl]
  · rw [hshelf, hfreed.shelf]
    split
    · exact ⟨_, rfl⟩
    · exact ⟨_, rfl⟩
  · refine Core.recovered_bus_other (hvkept.core.sound hsound) b ?_ hkind
    unfold Core.ticket at hk ⊢
    rw [htc]
    exact hk
  · refine Core.recovered_noRetests (c := v.core) ?_ .bus b
    unfold Core.noRetests
    rw [htc]
    exact hn

theorem State.Recovering.nil (s : State) : State.Recovering [] s s :=
  ⟨⟨_, _, _, _, _, _, _, _, _, _, rfl⟩, .refl s, fun _ => rfl, fun _ => .inl rfl, fun _ hb => (nomatch hb), fun _ => ⟨_, rfl⟩,
    fun _ _ _ h _ => h, id⟩

theorem State.Recovering.cons {bs : List Nat} (h : State.Recovering [b] s t) (hb : b ∉ bs) (g : State.Recovering bs t u) :
    State.Recovering (b :: bs) s u where
  rest := by
    obtain ⟨_, _, _, _, _, _, _, _, _, _, rfl⟩ := h.rest
    obtain ⟨_, _, _, _, _, _, _, _, _, _, rfl⟩ := g.rest
    exact ⟨_, _, _, _, _, _, _, _, _, _, rfl⟩
  kept := h.kept.trans g.kept
  slot k := by
    rw [g.slot, h.slot]
    by_cases hk : k = b
    · subst hk
      rw [if_neg hb, if_pos List.mem_cons_self, if_pos List.mem_cons_self]
    · rw [if_neg fun hm => hk (List.mem_singleton.mp hm)]
      simp only [List.mem_cons, hk, false_or]
  line l := by
    rcases g.line l with hg | hg
    · rw [hg]
      exact h.line l
    · rcases h.line l with hh | hh
      · exact .inr (by rw [hg, hh])
      · exact .inr (by rw [hg, hh])
  access k hk l hl := by
    rcases List.mem_cons.mp hk with rfl | hk'
    · have hnone := h.access k List.mem_cons_self l hl
      rcases g.line l with hg | hg
      · rw [hg]
        exact hnone
      · rw [hg]
    · refine g.access k hk' l ?_
      rw [h.slot, if_neg fun hm : k ∈ [b] => hb (by rw [← List.mem_singleton.mp hm]; exact hk')]
      exact hl
  shelf n := by
    obtain ⟨_, hg⟩ := g.shelf n
    obtain ⟨_, hh⟩ := h.shelf n
    rw [hg, hh]
    exact ⟨_, rfl⟩
  ticket hs m k hk hkind := g.ticket (h.kept.core.sound hs) m k (h.ticket hs m k hk hkind) hkind
  noRetests hn := g.noRetests (h.noRetests hn)

/-- Slots that each carry a line are brought back one after another. -/
theorem State.recoverSlots_recovering (bs : List Nat) (hn : bs.Nodup) (hb : ∀ b ∈ bs, b ∈ slotNumbers)
    (hl : ∀ b ∈ bs, ∃ l, (s.slot b).line = some l) : State.Recovering bs s (bs.foldl State.recoverSlot s) := by
  induction bs generalizing s with
  | nil => exact .nil s
  | cons b bs ih =>
    obtain ⟨hout, hn⟩ := List.nodup_cons.mp hn
    obtain ⟨l, hline⟩ := hl b List.mem_cons_self
    have hone := State.recoverSlot_recovering (hb b List.mem_cons_self) hline
    refine hone.cons hout (ih hn (fun k hk => hb k (List.mem_cons_of_mem b hk)) fun k hk => ?_)
    rw [hone.slot, if_neg fun hm : k ∈ [b] => hout (by rw [← List.mem_singleton.mp hm]; exact hk)]
    exact hl k (List.mem_cons_of_mem b hk)

/-! ### The lines of the slots are examined (R11, R36) -/

/-- The lines of a list, with nothing to offer, have been examined. -/
structure State.LinesOver (ls : List Nat) (s t : State) : Prop where
  rest : ∃ lines walk, t = { s with core := { s.core with lines := lines }, ac := { s.ac with walkDue := walk } }
  access : ∀ l, (t.line l).access = (s.line l).access

theorem State.accessOvers (ls : List Nat) (hc : ∀ l ∈ ls, s.LineCalm l) (hn : s.noRetests) :
    State.LinesOver ls s (ls.foldl State.accessOver s) := by
  induction ls generalizing s with
  | nil => exact ⟨⟨_, _, rfl⟩, fun _ => rfl⟩
  | cons l ls ih =>
    have hover := State.accessOver_calm (hc l List.mem_cons_self) hn
    rw [List.foldl_cons]
    generalize s.accessOver l = t at *
    obtain ⟨lines, walk, ht⟩ := hover.rest
    have haccess (j : Nat) : (t.line j).access = (s.line j).access := by
      by_cases hj : j = l
      · rw [hj]
        exact hover.access
      · rw [hover.other j hj]
    have hnone : t.noRetests := by
      rw [ht]
      exact hn
    obtain ⟨⟨_, _, hrest⟩, hall⟩ := ih (s := t) (fun j hj => by
      by_cases hjl : j = l
      · rw [hjl]
        exact hover.calm
      · have hsame := hover.other j hjl
        refine (hc j (List.mem_cons_of_mem l hj)).of_same ?_ ?_ (by rw [hsame]) (by rw [hsame]) (by rw [hsame]) (by rw [hsame])
        · rw [ht]; rfl
        · rw [ht]; rfl) hnone
    refine ⟨?_, fun j => (hall j).trans (haccess j)⟩
    rw [hrest, ht]
    exact ⟨_, _, rfl⟩

end Sys2Proof.Machine
end

section
/-! SUPPORT. A RELEASE_ALL that ends with DONE (R34, R36). -/

namespace Sys2Proof.Machine

variable {s t u v w : State} {b n l : Nat}

/-- The FAULTED slots of a shelf. -/
theorem State.mem_faultedOn : b ∈ s.slotsOn n (decide <| · = .faulted) ↔
    b ∈ slotNumbers ∧ (s.slot b).state = .faulted ∧ (s.slot b).line.map shelfOf = some n := by
  unfold State.slotsOn Slot.onShelf
  rw [List.mem_filter]
  cases (s.slot b).line with
  | none => simp
  | some l =>
    simp only [Bool.and_eq_true, decide_eq_true_eq, Option.map_some, Option.some.injEq]
    refine and_congr_right fun _ => ⟨fun h => ⟨h.1, h.2.2⟩, fun h => ⟨h.1, ?_, h.2⟩⟩
    rw [h.1]
    exact nofun

/-- Shelf n has recovered. -/
structure State.ShelfRecovered (n : Nat) (s t : State) : Prop where
  rest : ∃ core insertion sending slots quota walk, t =
    { s with
      core := core
      htp := { s.htp with down := { s.htp.down with insertion := insertion, sending := sending } }
      ac := { s.ac with slots := slots, quotaInForce := quota, walkDue := walk } }
  shelf : t.shelf n = { s.shelf n with state := .serving, failures := 0, freePairs := 2, probeDue := none, order := .idle }
  slot : ∀ k, t.slot k =
    if k ∈ s.slotsOn n (decide <| · = .faulted) then { (s.slot k).freed with order := .idle } else s.slot k
  access : ∀ b ∈ s.slotsOn n (decide <| · = .faulted), ∀ l, (s.slot b).line = some l → (t.line l).access = .none
  ticket : s.core.Sound → ∀ m k, (s.shelf n).ticket = some m → s.core.ticket m = some k → k.kind = .shelf → k.parent = none →
    k.state.standing = true → t.core.ticket m = some { k with state := .closing, noticePending := true } ∧ m ∈ t.core.tc.notices
  noRetests : t.noRetests

theorem State.probe_done (n : Fin 64) (hn : s.noRetests)
    (hrests : ∀ b ∈ slotNumbers, ∀ l, (s.slot b).state = .faulted → (s.slot b).line = some l → s.LineRests l) :
    State.ShelfRecovered n.val s (s.transactionEnds (.shelf n) .releaseAll true) := by
  have hover := s.endOrder_probe n fun q => { q with failures := 0 }
  have hwkept : State.Kept s ((s.endOrder (.shelf n)).clearFailures n.val) := by simp
  have hends : s.transactionEnds (.shelf n) .releaseAll true = ((s.endOrder (.shelf n)).clearFailures n.val).shelfRecovers n.val := rfl
  have hclear : (s.endOrder (.shelf n)).clearFailures n.val = (s.endOrder (.shelf n)).updShelf n.val fun q => { q with failures := 0 } := rfl
  rw [hends]
  rw [hclear] at hwkept ⊢
  generalize (s.endOrder (.shelf n)).updShelf n.val (fun q => { q with failures := 0 }) = w at *
  have hwslot (k : Nat) : w.slot k = s.slot k := hover.rest.slot k
  have hbs : w.slotsOn n.val (decide <| · = .faulted) = s.slotsOn n.val (decide <| · = .faulted) := by
    unfold State.slotsOn
    simp only [hwslot]
  have hmem (b : Nat) := State.mem_faultedOn (s := s) (b := b) (n := n.val)
  unfold State.shelfRecovers
  dsimp only
  rw [hbs]
  have hnodup : (s.slotsOn n.val (decide <| · = .faulted)).Nodup := List.Nodup.sublist List.filter_sublist (by decide)
  generalize hslots : s.slotsOn n.val (decide <| · = .faulted) = bs at hbs hmem hnodup ⊢
  have hfold := State.recoverSlots_recovering (s := w) bs hnodup (fun b hb => ((hmem b).mp hb).1) fun b hb => by
    obtain ⟨-, -, hl⟩ := (hmem b).mp hb
    obtain ⟨l, hl, -⟩ := Option.map_eq_some_iff.mp hl
    exact ⟨l, by rw [hwslot]; exact hl⟩
  have hlines (l : Nat) (hl : l ∈ w.linesOf bs) : s.LineRests l := by
    obtain ⟨b, hb, hbl⟩ := List.mem_filterMap.mp hl
    obtain ⟨hslot, hfaulted, -⟩ := (hmem b).mp hb
    rw [hwslot] at hbl
    exact hrests b hslot l hfaulted hbl
  have hwline (l : Nat) : w.line l = s.line l := by
    obtain ⟨_, _, _, rfl⟩ := hover.rest
    rfl
  have hwtc : w.core.tc = s.core.tc := by
    obtain ⟨_, _, _, rfl⟩ := hover.rest
    rfl
  generalize w.linesOf bs = ls at *
  generalize bs.foldl State.recoverSlot w = u at *
  obtain ⟨tickets, notices, gm, oh, he⟩ := (u.updShelf n.val fun h =>
    { h with state := .serving, failures := 0, freePairs := 2, probeDue := none }).core.recovered_only .shelf n.val
  have htold (hs : s.core.Sound) (m : Nat) (k : Ticket) (href : (s.shelf n.val).ticket = some m) (hk : s.core.ticket m = some k)
      (hkind : k.kind = .shelf) (hp : k.parent = none) (hst : k.state.standing = true) :=
    Core.recovered_shelf (c := (u.updShelf n.val fun h => { h with state := .serving, failures := 0, freePairs := 2, probeDue := none }).core)
      (n := n.val) (m := m) (k := k) (hfold.kept.core.sound (hwkept.core.sound hs)).tc (by
        obtain ⟨_, hshelf⟩ := hfold.shelf n.val
        refine (congrArg ShelfRec.ticket ((u.shelf_updShelf n.val n.val _).trans (if_pos rfl))).trans ?_
        rw [hshelf, hover.shelf, if_pos rfl]
        exact href)
      (hfold.ticket (hwkept.core.sound hs) m k (by unfold Core.ticket at hk ⊢; rw [hwtc]; exact hk) (by rw [hkind]; exact nofun)) hp hst
  have hwnone : w.noRetests := by
    unfold State.noRetests
    rw [hwtc]
    exact hn
  have hvnone := Core.recovered_noRetests (c := (u.updShelf n.val fun h =>
    { h with state := .serving, failures := 0, freePairs := 2, probeDue := none }).core) (hfold.noRetests hwnone) .shelf n.val
  generalize hv : ((u.updShelf n.val fun h => { h with state := .serving, failures := 0, freePairs := 2, probeDue := none }).updCore fun c =>
    c.recovered .shelf n.val).updAc (fun a => { a with walkDue := true }) = v at *
  have hvcore : v.core = (u.updShelf n.val fun h => { h with state := .serving, failures := 0, freePairs := 2, probeDue := none }).core.recovered
    .shelf n.val := hv ▸ rfl
  rw [← hvcore] at htold hvnone he
  have hvline (l : Nat) : v.line l = u.line l := by
    unfold State.line
    rw [he]
    rfl
  have hvrest : v = { u with core := v.core, ac := { u.ac with walkDue := true } } := by
    rw [hvcore, ← hv]
    rfl
  have hovers := State.accessOvers (s := v) ls (fun l hl => by
    have hcalm := (hlines l hl).calm
    have hsame : v.line l = s.line l ∨ v.line l = { s.line l with access := .none } := by
      rw [hvline, ← hwline]
      exact hfold.line l
    refine hcalm.of_same ?_ ?_ ?_ ?_ ?_ ?_
    · exact (congrArg Core.now he :).trans (hfold.kept.now_eq.trans hwkept.now_eq)
    · refine Eq.trans ?_ (hfold.kept.params_eq.trans hwkept.params_eq)
      have hkept := Core.recovered_kept (.refl (u.updShelf n.val fun h =>
        { h with state := .serving, failures := 0, freePairs := 2, probeDue := none }).core) .shelf n.val
      rw [← hvcore] at hkept
      exact hkept.oh.params
    all_goals rcases hsame with hsame | hsame <;> rw [hsame]) hvnone
  generalize ls.foldl State.accessOver v = t at *
  obtain ⟨⟨lines, walk, ht⟩, haccess⟩ := hovers
  refine ⟨?_, ?_, fun k => ?_, fun b hb l hl => ?_, fun hs m k href hk hkind hp hst => ?_, ?_⟩
  · obtain ⟨_, _, _, _, _, insertion, sending, slots, quota, _, hu⟩ := hfold.rest
    obtain ⟨_, _, _, hw⟩ := hover.rest
    refine ⟨t.core, insertion, sending, slots, quota, walk, ?_⟩
    rw [ht, hvrest, hu, hw]
  · have hshelf : t.shelf n.val = v.shelf n.val := by rw [ht]; rfl
    have hvshelf : v.shelf n.val = { u.shelf n.val with state := .serving, failures := 0, freePairs := 2, probeDue := none } := by
      have hput := u.shelf_updShelf n.val n.val fun h => { h with state := .serving, failures := 0, freePairs := 2, probeDue := none }
      rw [if_pos rfl] at hput
      unfold State.shelf
      rw [he]
      exact hput
    obtain ⟨_, hushelf⟩ := hfold.shelf n.val
    rw [hshelf, hvshelf, hushelf, hover.shelf, if_pos rfl]
  · have hslot : t.slot k = u.slot k := by rw [ht, hvrest]; rfl
    rw [hslot, hfold.slot, hwslot, hslots]
  · rw [haccess, hvline]
    exact hfold.access b (hslots ▸ hb) l (by rw [hwslot]; exact hl)
  · have htc : t.core.tc = v.core.tc := by rw [ht]
    have hdone := htold hs m k href hk hkind hp hst
    unfold Core.ticket at hdone ⊢
    rw [htc]
    exact hdone
  · unfold State.noRetests
    rw [ht]
    exact hvnone

end Sys2Proof.Machine
end

section
/-! SUPPORT. What offers, grants and examined lines spare: results and runs, the slots in use, and the shelves but for their free pairs
(R22, R26, R27, R122). One lemma an operation: `op_spared`. -/

namespace Sys2Proof.Machine

variable {s₀ s t u : State} {b n l : Nat}

/-- A shelf's record but for its free pairs and its ticket. -/
def ShelfRec.sansPairs (r : ShelfRec) : ShelfRec := { r with freePairs := 0, ticket := none }

theorem ShelfRec.sansPairs_of_sansTicket {r u : ShelfRec} (h : r.sansTicket = u.sansTicket) : r.sansPairs = u.sansPairs :=
  (congrArg (fun q : ShelfRec => q.sansPairs) h :)

/-- What stands when requests are offered and granted and lines are examined; what then waits for a SILENT shelf has waited before. -/
structure State.Spared (s t : State) : Prop where
  ms : t.ms = s.ms
  shelf : ∀ n, (t.shelf n).sansPairs = (s.shelf n).sansPairs
  slot : ∀ b, (s.slot b).state ≠ .free → t.slot b = s.slot b
  queue : ∀ r ∈ t.ac.queue, r ∈ s.ac.queue ∨ (s.shelf (shelfOf r.line)).state ≠ .silent

theorem State.Spared.refl (s : State) : State.Spared s s := ⟨rfl, fun _ => rfl, fun _ _ => rfl, fun _ hr => .inl hr⟩

theorem State.Spared.state (h : State.Spared s t) (n : Nat) : (t.shelf n).state = (s.shelf n).state :=
  (congrArg ShelfRec.state (h.shelf n) :)

theorem State.Spared.trans (h : State.Spared s t) (k : State.Spared t u) : State.Spared s u where
  ms := k.ms.trans h.ms
  shelf n := (k.shelf n).trans (h.shelf n)
  slot b hb := (k.slot b (by rwa [h.slot b hb])).trans (h.slot b hb)
  queue r hr := by
    rcases k.queue r hr with hold | hnew
    · exact h.queue r hold
    · exact .inr (by rwa [← h.state])

theorem State.foldl_spared {β : Type} {f : State → β → State} (hf : ∀ s x, State.Spared s (f s x)) (l : List β) (s : State) :
    State.Spared s (l.foldl f s) := by
  induction l generalizing s with
  | nil => exact .refl s
  | cons x l ih => exact (hf s x).trans (ih _)

/-! ### The parts of an offer -/

theorem State.updCore_spared (h : State.Spared s₀ s) {f : Core → Core} (hf : Core.TicketWork s.core (f s.core)) :
    State.Spared s₀ (s.updCore f) :=
  h.trans { State.Spared.refl s with shelf := fun n => ShelfRec.sansPairs_of_sansTicket (hf.shelf n) }

theorem State.putTicket_spared (h : State.Spared s₀ s) (n : Nat) {f : Ticket → Ticket} (hf : Ticket.Firm f) :
    State.Spared s₀ (s.updCore fun c => c.putTicket n f) :=
  State.updCore_spared h (Core.putTicket_work (.refl _) n hf)

theorem State.retestAttempt_spared (h : State.Spared s₀ s) (n : Nat) (w : Bool) :
    State.Spared s₀ (s.updCore fun c => c.retestAttempt n w) :=
  State.updCore_spared h (Core.retestAttempt_work (.refl _) n w)

theorem State.updLine_spared (h : State.Spared s₀ s) (l : Nat) (f : LineRec → LineRec) : State.Spared s₀ (s.updLine l f) :=
  h.trans ⟨rfl, fun _ => rfl, fun _ _ => rfl, fun _ hr => .inl hr⟩

/-- What the AC owes changes. -/
theorem State.setOwed_spared (h : State.Spared s₀ s) {f : Ac → Ac} (hs : (f s.ac).slots = s.ac.slots) (hq : (f s.ac).queue = s.ac.queue) :
    State.Spared s₀ (s.updAc f) :=
  h.trans { State.Spared.refl s with
    slot := fun b _ => by simp only [State.slot, State.updAc, hs]
    queue := fun r hr => .inl (hq ▸ hr) }

/-- No request for a line of a SILENT shelf is taken (R22). -/
theorem State.refusal_silent {r : Request} (h : s.refusal r = none) : (s.shelf (shelfOf r.line)).state ≠ .silent := by
  intro hs
  unfold State.refusal at h
  rw [if_pos (.inr hs)] at h
  cases h

theorem State.enterQueue_spared (r : Request) (h : s.refusal r = none) : State.Spared s (s.enterQueue r) := by
  refine ⟨rfl, fun _ => rfl, fun _ _ => rfl, fun q hq => ?_⟩
  rw [s.enterQueue_queue r, (insertBy_perm ..).mem_iff] at hq
  rcases List.mem_cons.mp hq with rfl | hold
  · exact .inr (State.refusal_silent h)
  · exact .inl hold

theorem State.offerCore_spared (h : State.Spared s₀ s) (r : Request) : State.Spared s₀ (s.offerCore r).1 := by
  refine h.trans ?_
  rcases s.offerCore_cases r with ⟨hr, he⟩ | ⟨_, -, he⟩
  · rw [he]
    exact State.enterQueue_spared r hr
  · rw [he]
    exact .refl s

/-- A grant takes a FREE slot. -/
theorem State.grant_spared (s : State) (r : Request) (hb : b ∈ slotNumbers) (hf : (s.slot b).state = .free) : State.Spared s (s.grant r b) := by
  have hslot (k : Nat) (hk : (s.slot k).state ≠ .free) : (s.grant r b).slot k = s.slot k :=
    s.grant_slot_other r hb fun e => hk (e ▸ hf)
  obtain ⟨i, sl, he⟩ := s.grant_eq r b
  rw [he] at hslot ⊢
  refine ⟨rfl, fun n => ?_, hslot, fun q hq => .inl (List.mem_of_mem_erase hq)⟩
  simp only [State.shelf, Core.shelf_updShelf]
  split
  · next e =>
    subst e
    rfl
  · rfl

theorem State.visit_spared (s : State) (r : Request) : State.Spared s (s.visit r) := by
  rcases s.visit_grants r with hv | ⟨b, hb, hf, -, hv⟩
  · rw [hv]
    exact .refl s
  · rw [hv]
    exact s.grant_spared r hb (State.free_of_fitting hf).1

theorem State.walk_spared (s : State) : State.Spared s s.walk := State.foldl_spared State.visit_spared _ s

theorem State.offerRetest_spared (h : State.Spared s₀ s) (n : Nat) : State.Spared s₀ (s.offerRetest n).1 := by
  unfold State.offerRetest
  split
  · exact h
  · next t ht =>
    split
    · split
      · exact h
      · next w hw =>
        have ho := State.offerCore_spared h (s.retestRequest t.subject (s.routineProgramme t.subject) w.reason (some n))
        dsimp only
        split
        · refine State.putTicket_spared ho n ?_
          exact fun _ => id
        · exact State.retestAttempt_spared ho n false
        · refine State.putTicket_spared ho n ?_
          exact fun _ => id
    · exact h

theorem State.offerRetests_spared (h : State.Spared s₀ s) (l : List Nat) : State.Spared s₀ (s.offerRetests l) := by
  induction l generalizing s with
  | nil => exact h
  | cons n l ih =>
    unfold State.offerRetests
    dsimp only
    split
    · exact State.offerRetest_spared h n
    · exact ih (State.offerRetest_spared h n)

theorem State.settleRounds_spared (n : Nat) (h : State.Spared s₀ s) : State.Spared s₀ (State.settleRounds n s) := by
  induction n generalizing s with
  | zero => exact h
  | succ n ih =>
    unfold State.settleRounds
    dsimp only
    generalize hu : (if s.ac.departed = true then
        (s.updAc fun a => { a with departed := false }).offerRetests (s.updAc fun a => { a with departed := false }).dueRetests
        else s) = u
    have hk : State.Spared s₀ u := by
      rw [← hu]
      split
      · exact State.offerRetests_spared (State.setOwed_spared h rfl rfl) _
      · exact h
    split
    · exact ih ((State.setOwed_spared hk rfl rfl).trans (State.walk_spared _))
    · exact hk

theorem State.settle_spared (h : State.Spared s₀ s) : State.Spared s₀ s.settle := State.settleRounds_spared 8 h

/-! ### Lines examined -/

theorem State.offerAndDrop_spared (h : State.Spared s₀ s) (r : Request) : State.Spared s₀ (s.offerAndDrop r) := by
  have hc := State.offerCore_spared h r
  unfold State.offerAndDrop State.offer
  split
  · next he =>
    rw [he] at hc
    exact State.settle_spared hc
  · next he =>
    rw [he] at hc
    exact hc

theorem State.examineIdleRetest_spared (h : State.Spared s₀ s) (l : Nat) : State.Spared s₀ (s.examineIdleRetest l) := by
  unfold State.examineIdleRetest
  repeat' split
  · exact h
  · refine State.settle_spared (State.offerRetest_spared (State.putTicket_spared h _ ?_) _)
    exact fun _ => id
  · exact h

theorem State.examineLockout_spared (h : State.Spared s₀ s) (l : Nat) : State.Spared s₀ (s.examineLockout l) := by
  unfold State.examineLockout
  repeat' split
  · exact h
  · exact State.updLine_spared (State.offerAndDrop_spared h _) l _
  · exact h

theorem State.countHit_spared (h : State.Spared s₀ s) (l : Nat) : State.Spared s₀ (s.countHit l) := State.updLine_spared h l _

theorem State.examineHits_spared (h : State.Spared s₀ s) (l : Nat) : State.Spared s₀ (s.examineHits l) := by
  unfold State.examineHits
  split
  · exact State.updLine_spared (State.offerAndDrop_spared h _) l _
  · exact h

theorem State.examineReOffer_spared (h : State.Spared s₀ s) (l : Nat) : State.Spared s₀ (s.examineReOffer l) := by
  unfold State.examineReOffer
  split
  · exact State.updLine_spared (State.offerAndDrop_spared h _) l _
  · exact h

theorem State.lineIdle_spared (h : State.Spared s₀ s) (l : Nat) : State.Spared s₀ (s.lineIdle l) :=
  State.examineIdleRetest_spared (State.examineLockout_spared h l) l

theorem State.applyReport_spared (h : State.Spared s₀ s) (l : Nat) (c : CallState) : State.Spared s₀ (s.applyReport l c) := by
  unfold State.applyReport
  dsimp only
  split
  · exact h
  · refine State.setOwed_spared ?_ rfl rfl
    have hhits := State.examineHits_spared (State.countHit_spared (State.updLine_spared h l fun r => { r with callState := c }) l) l
    split
    · exact State.examineIdleRetest_spared (State.examineReOffer_spared (State.updLine_spared hhits l _) l) l
    · exact State.updLine_spared hhits l _

theorem State.tellFaulted_spared (h : State.Spared s₀ s) (l : Nat) : State.Spared s₀ (s.tellFaulted l) := by
  have hheld : State.Spared s₀ (s.releaseHeld l) := by
    obtain ⟨_, he⟩ := s.releaseHeld_eq l
    rw [he]
    exact h.trans ⟨rfl, fun _ => rfl, fun _ _ => rfl, fun _ hr => .inl hr⟩
  unfold State.tellFaulted State.applyDeferred
  split
  · exact hheld
  · exact State.applyReport_spared (State.updLine_spared hheld l _) l _

end Sys2Proof.Machine
end

section
/-! SUPPORT. A live slot whose shelf goes SILENT (R35): its run and its request end, and it is FAULTED. -/

namespace Sys2Proof.Machine

variable {s₀ s t u : State} {b n j k : Nat}

/-! ### The RESULT list grows -/

/-- At most k RESULTs more, behind those that wait. -/
def State.ResultsWithin (k : Nat) (s t : State) : Prop := ∃ more, t.ms.results = s.ms.results ++ more ∧ more.length ≤ k

theorem State.ResultsWithin.same (h : t.ms.results = s.ms.results) (k : Nat) : State.ResultsWithin k s t :=
  ⟨[], h.trans (List.append_nil _).symm, Nat.zero_le k⟩

theorem State.ResultsWithin.trans (h : State.ResultsWithin j s t) (g : State.ResultsWithin k t u) : State.ResultsWithin (j + k) s u := by
  obtain ⟨more, hm, hj⟩ := h
  obtain ⟨last, hl, hk⟩ := g
  refine ⟨more ++ last, by rw [hl, hm, List.append_assoc], ?_⟩
  rw [List.length_append]
  omega

theorem State.ResultsWithin.mono (h : State.ResultsWithin j s t) (hjk : j ≤ k) : State.ResultsWithin k s t := by
  obtain ⟨more, hm, hj⟩ := h
  exact ⟨more, hm, hj.trans hjk⟩

theorem State.ResultsWithin.mem (h : State.ResultsWithin k s t) {r : Result} (hr : r ∈ s.ms.results) : r ∈ t.ms.results := by
  obtain ⟨more, hm, -⟩ := h
  rw [hm]
  exact List.mem_append_left _ hr

theorem State.ResultsWithin.length (h : State.ResultsWithin k s t) : t.ms.results.length ≤ s.ms.results.length + k := by
  obtain ⟨more, hm, hk⟩ := h
  rw [hm, List.length_append]
  omega

theorem State.makeResult_within (s : State) (r : Result) : State.ResultsWithin 1 s (s.makeResult r) := by
  unfold State.makeResult
  by_cases h : s.ms.results.length < 64
  · exact ⟨[r], by rw [State.updMs_ms, if_pos h], Nat.le_refl 1⟩
  · exact .same (by rw [State.updMs_ms, if_neg h]) 1

theorem State.endRequest_within (s : State) (r : Request) (bus : Option Nat) (e : Ending) : State.ResultsWithin 1 s (s.endRequest r bus e) := by
  unfold State.endRequest
  split
  case h_1 => exact s.makeResult_within _
  case h_4 | h_5 => exact .same (congrArg Ms.results (s.returnRetest_ms _ _)) 1
  all_goals exact .same rfl 1

theorem State.endSlotRequest_within (s : State) (b : Nat) (e : Ending) : State.ResultsWithin 1 s (s.endSlotRequest b e) := by
  unfold State.endSlotRequest
  repeat' split
  · exact .same rfl 1
  · exact .same rfl 1
  · exact State.endRequest_within (s.markEnded b) ..

/-- A run is closed for its request, or there is none of the two. -/
theorem State.closeRun_cases (s : State) (b : Nat) (o : RunOutcome) :
    s.closeRun b o = s.setRun b none
      ∨ ∃ x r, s.closeRun b o = (({ s with core := s.handedCore b r x o } : State).runResult b r x o (s.runFault x)).setRun b none := by
  cases hx : s.run b with
  | none => exact .inl (by unfold State.closeRun; rw [hx])
  | some x =>
    cases hr : (s.slot b).request with
    | none => exact .inl (by unfold State.closeRun; rw [hx, hr])
    | some r => exact .inr ⟨x, r, State.closeRun_eq hx hr o⟩

theorem State.closeRun_within (s : State) (b : Nat) (o : RunOutcome) : State.ResultsWithin 1 s (s.closeRun b o) := by
  rcases s.closeRun_cases b o with he | ⟨x, r, he⟩
  · rw [he]
    exact .same rfl 1
  · rw [he]
    generalize s.handedCore b r x o = c
    rcases State.runResult_cases { s with core := c } b r x o (s.runFault x) with ⟨y, hy⟩ | hy
    · rw [hy]
      exact State.makeResult_within { s with core := c } y
    · rw [hy]
      exact .same rfl 1

theorem State.endRunEarly_within (s : State) (b : Nat) (o : RunOutcome) : State.ResultsWithin 1 s (s.endRunEarly b o) := by
  unfold State.endRunEarly
  dsimp only
  split
  · exact State.closeRun_within (s.setPendingRun b none) b o
  · exact .same rfl 1

/-! ### The shelves stand -/

theorem State.closeRun_shelf (s : State) (b : Nat) (o : RunOutcome) (n : Nat) :
    ((s.closeRun b o).shelf n).sansTicket = (s.shelf n).sansTicket := by
  rcases s.closeRun_cases b o with he | ⟨x, r, he⟩
  · rw [he]
    rfl
  · obtain ⟨sets, hsets⟩ := s.restSource_setOnly b
    have hclosing : (s.closingCore b r x).shelf n = s.core.shelf n := by
      unfold State.closingCore
      rw [hsets]
      rfl
    rw [he]
    show (Core.shelf (State.runResult _ _ _ _ _ _).core n).sansTicket = _
    rw [State.runResult_core]
    exact ((Core.handOver_subjects _ _ _ _ _ _).shelf n).trans (congrArg ShelfRec.sansTicket hclosing)

theorem State.endRunEarly_shelf (s : State) (b : Nat) (o : RunOutcome) (n : Nat) :
    ((s.endRunEarly b o).shelf n).sansTicket = (s.shelf n).sansTicket := by
  unfold State.endRunEarly
  dsimp only
  split
  · exact State.closeRun_shelf (s.setPendingRun b none) b o n
  · rfl

/-! ### The runs and the request of a slot end with its shelf -/

/-- The run and the request of slot b have ended with its shelf. -/
structure State.EndedWithShelf (b : Nat) (s t : State) : Prop where
  ended : State.Ended b s t
  within : State.ResultsWithin 1 s t
  shelf : ∀ n, (t.shelf n).sansTicket = (s.shelf n).sansTicket
  run : ∀ k, t.run k = if k = b then none else s.run k
  pendingRun : ∀ k, t.pendingRun k = if k = b then none else s.pendingRun k
  desk : ∀ q, s.run b = none → (s.slot b).ended = false → (s.slot b).request = some q → q.cls = .desk → s.ms.results.length < 64 →
    q.result (some b) .shelfSilent ∈ t.ms.results

theorem State.endRunEarly_run (s : State) (b k : Nat) (o : RunOutcome) :
    (s.endRunEarly b o).run k = (if k = b then none else s.run k)
      ∧ (s.endRunEarly b o).pendingRun k = if k = b then none else s.pendingRun k := by
  by_cases hk : k = b
  · subst hk
    rw [if_pos rfl, if_pos rfl]
    exact s.endRunEarly_runs k o
  · rw [if_neg hk, if_neg hk]
    unfold State.endRunEarly
    dsimp only
    split
    · rw [State.closeRun_run, State.closeRun_pendingRun, State.pendingRun_setPendingRun, if_neg hk, if_neg hk]
      exact ⟨rfl, rfl⟩
    · exact ⟨rfl, (s.pendingRun_setPendingRun b k none).trans (if_neg hk)⟩

/-- A RETEST request is returned to the TC, and only then. -/
theorem State.endWithShelf_running (h : s.running b = true) :
    State.RunWork ((s.endRunEarly b .shelfSilent).markEnded b) (s.endWithShelf b)
      ∧ (s.endWithShelf b).ms = (s.endRunEarly b .shelfSilent).ms
      ∧ ∀ n, ((s.endWithShelf b).shelf n).sansTicket = ((s.endRunEarly b .shelfSilent).shelf n).sansTicket := by
  unfold State.endWithShelf
  rw [if_pos h]
  dsimp only
  generalize s.endRunEarly b .shelfSilent = v
  split
  · split
    · exact ⟨State.returnRetest_runWork (.refl _) _ _, State.returnRetest_ms _ _ _, State.returnRetest_shelf (v.markEnded b) _ _⟩
    · exact ⟨.refl _, rfl, fun _ => rfl⟩
  · exact ⟨.refl _, rfl, fun _ => rfl⟩

theorem State.endWithShelf_ended (s : State) (b : Nat) : State.EndedWithShelf b s (s.endWithShelf b) := by
  by_cases h : s.running b = true
  · obtain ⟨hwork, hms, hshelf⟩ := State.endWithShelf_running h
    have hwithin := s.endRunEarly_within b .shelfSilent
    have hrun (k : Nat) := s.endRunEarly_run b k .shelfSilent
    have hended := ((State.endRunEarly_runWork (.refl s) b .shelfSilent).ended b).trans (State.markEnded_ended _ b)
    have hshelves := s.endRunEarly_shelf b .shelfSilent
    generalize s.endRunEarly b .shelfSilent = v at *
    refine ⟨hended.trans (hwork.ended b), ?_, fun n => (hshelf n).trans (hshelves n), fun k => ?_, fun k => ?_, fun q hr => ?_⟩
    · obtain ⟨more, hm, hk⟩ := hwithin
      exact ⟨more, by rw [hms, hm], hk⟩
    · unfold State.run
      rw [hms]
      exact (hrun k).1
    · unfold State.pendingRun
      rw [hms]
      exact (hrun k).2
    · unfold State.running at h
      rw [hr] at h
      cases h
  · have he : s.endWithShelf b = (s.setPendingRun b none).endSlotRequest b (.outcome .shelfSilent) := if_neg h
    have hnone : s.run b = none := by
      unfold State.running at h
      simpa using h
    have hsame := (s.setPendingRun b none).endSlotRequest_sameRuns b (.outcome .shelfSilent)
    rw [he]
    refine ⟨((State.setPendingRun_runWork s b none).ended b).trans (State.endSlotRequest_ended _ b _), ?_, fun n => ?_, fun k => ?_, fun k => ?_,
      fun q _ hend hr hc hroom => ?_⟩
    · exact State.endSlotRequest_within (s.setPendingRun b none) b _
    · exact State.endSlotRequest_shelf (s.setPendingRun b none) b _ n
    · rw [hsame.run]
      show s.run k = _
      split
      · next hk => rw [hk, hnone]
      · rfl
    · rw [hsame.pendingRun, State.pendingRun_setPendingRun]
    · rw [State.endSlotRequest_desk (s := s.setPendingRun b none) hend hr hc hroom]
      exact List.mem_append_right _ List.mem_cons_self

/-! ### The slot is FAULTED -/

/-- A slot that is FAULTED, its order over. -/
def Slot.faulted (q : Slot) : Slot := { q with state := .faulted, holdDue := none, mark := none, order := .idle }

theorem State.slotFault_slot (s : State) (hb : b ∈ slotNumbers) (k : Nat) :
    (s.slotFault b).slot k = if k = b then (s.slot b).faulted else s.slot k := by
  obtain ⟨q, hq⟩ : ∃ q, (if (s.slot b).state.live then s.routineLeft (s.slot b).request else s) =
      { s with ac := { s.ac with quotaInForce := q } } := by
    split
    · exact ⟨_, s.routineLeft_eq _⟩
    · exact ⟨_, rfl⟩
  unfold State.slotFault
  dsimp only
  rw [hq, State.slot_updSlot, State.endOrder_slot _ hb, State.endOrder_slot _ hb, if_pos rfl]
  split <;> rfl

theorem State.slotFault_rest (s : State) (b : Nat) :
    ∃ insertion sending slots quota, s.slotFault b =
      { s with
        htp := { s.htp with down := { s.htp.down with insertion := insertion, sending := sending } }
        ac := { s.ac with slots := slots, quotaInForce := quota } } := by
  obtain ⟨q, hq⟩ : ∃ q, (if (s.slot b).state.live then s.routineLeft (s.slot b).request else s) =
      { s with ac := { s.ac with quotaInForce := q } } := by
    split
    · exact ⟨_, s.routineLeft_eq _⟩
    · exact ⟨_, rfl⟩
  unfold State.slotFault
  dsimp only
  rw [hq]
  exact ⟨_, _, _, _, rfl⟩

/-- The live slots of a list are FAULTED with cause EQUIPMENT, their runs and requests ended. -/
structure State.SlotsSilenced (bs : List Nat) (s t : State) : Prop where
  slot : ∀ k, k ∉ bs → t.slot k = s.slot k
  faulted : ∀ b ∈ bs, ∃ e, t.slot b = { (s.slot b).faulted with cause := some .equipment, ended := e }
  shelf : ∀ n, (t.shelf n).sansTicket = (s.shelf n).sansTicket
  queue : t.ac.queue = s.ac.queue
  run : ∀ k, t.run k = if k ∈ bs then none else s.run k
  pendingRun : ∀ k, t.pendingRun k = if k ∈ bs then none else s.pendingRun k
  within : State.ResultsWithin bs.length s t
  desk : s.ms.results.length + bs.length ≤ 64 → ∀ b ∈ bs, ∀ q, s.run b = none → (s.slot b).ended = false → (s.slot b).request = some q →
    q.cls = .desk → q.result (some b) .shelfSilent ∈ t.ms.results

theorem State.faultSilent_silenced (s : State) (hb : b ∈ slotNumbers) : State.SlotsSilenced [b] s (s.faultSilent b) := by
  have hended := s.endWithShelf_ended b
  unfold State.faultSilent
  generalize s.endWithShelf b = v at *
  have hslot := v.slotFault_slot hb
  obtain ⟨_, _, _, _, hrest⟩ := v.slotFault_rest b
  have hcore : (v.slotFault b).core = v.core := by rw [hrest]
  have hms : (v.slotFault b).ms = v.ms := by rw [hrest]
  have hqueue : (v.slotFault b).ac.queue = v.ac.queue := by rw [hrest]
  generalize v.slotFault b = w at *
  refine ⟨fun k hk => ?_, fun k hk => ?_, fun n => ?_, hqueue.trans hended.ended.queue, fun k => ?_, fun k => ?_, ?_,
    fun hroom k hk q hrun hend hr hc => ?_⟩
  · have hkb : k ≠ b := fun e => hk (List.mem_singleton.mpr e)
    rw [State.slot_updSlot, if_neg hkb, hslot, if_neg hkb, hended.ended.other k hkb]
  · obtain rfl := List.mem_singleton.mp hk
    obtain ⟨e, he⟩ := hended.ended.owner
    refine ⟨e, ?_⟩
    rw [State.slot_updSlot, if_pos rfl, hslot, if_pos rfl, he]
    rfl
  · have hsame : (w.updSlot b fun r => { r with cause := some .equipment }).shelf n = v.shelf n := by
      show w.core.shelf n = _
      rw [hcore]
      rfl
    rw [hsame]
    exact hended.shelf n
  · have hsame : (w.updSlot b fun r => { r with cause := some .equipment }).run k = v.run k := by
      show Table.get none w.ms.runs k = _
      rw [hms]
      rfl
    rw [hsame, hended.run]
    simp only [List.mem_singleton]
  · have hsame : (w.updSlot b fun r => { r with cause := some .equipment }).pendingRun k = v.pendingRun k := by
      show Table.get none w.ms.pendingRuns k = _
      rw [hms]
      rfl
    rw [hsame, hended.pendingRun]
    simp only [List.mem_singleton]
  · obtain ⟨more, hm, hk⟩ := hended.within
    exact ⟨more, (congrArg Ms.results hms).trans hm, hk⟩
  · obtain rfl := List.mem_singleton.mp hk
    have hmade := hended.desk q hrun hend hr hc (Nat.lt_of_succ_le hroom)
    rw [← hms] at hmade
    exact hmade

theorem State.SlotsSilenced.nil (s : State) : State.SlotsSilenced [] s s :=
  ⟨fun _ _ => rfl, fun _ hb => (nomatch hb), fun _ => rfl, rfl, fun _ => rfl, fun _ => rfl, .same rfl 0, fun _ _ hb => (nomatch hb)⟩

theorem State.SlotsSilenced.cons {bs : List Nat} (h : State.SlotsSilenced [b] s t) (hb : b ∉ bs) (g : State.SlotsSilenced bs t u) :
    State.SlotsSilenced (b :: bs) s u where
  slot k hk := by
    rw [List.mem_cons, not_or] at hk
    obtain ⟨hkb, hkbs⟩ := hk
    rw [g.slot k hkbs, h.slot k fun hm => hkb (List.mem_singleton.mp hm)]
  faulted k hk := by
    rcases List.mem_cons.mp hk with rfl | hk'
    · rw [g.slot k hb]
      exact h.faulted k List.mem_cons_self
    · obtain ⟨e, he⟩ := g.faulted k hk'
      refine ⟨e, ?_⟩
      rw [he, h.slot k fun hm => hb (by rw [← List.mem_singleton.mp hm]; exact hk')]
  shelf n := (g.shelf n).trans (h.shelf n)
  queue := g.queue.trans h.queue
  run k := by
    rw [g.run, h.run]
    by_cases hk : k = b <;> simp [hk]
  pendingRun k := by
    rw [g.pendingRun, h.pendingRun]
    by_cases hk : k = b <;> simp [hk]
  within := (h.within.trans g.within).mono (by simp [Nat.add_comm])
  desk hroom k hk q hrun hend hr hc := by
    rw [List.length_cons] at hroom
    rcases List.mem_cons.mp hk with rfl | hk'
    · exact g.within.mem (h.desk (by simp; omega) k List.mem_cons_self q hrun hend hr hc)
    · have hkb : k ∉ [b] := fun hm => hb (by rw [← List.mem_singleton.mp hm]; exact hk')
      have hlength := h.within.length
      simp only [List.length_singleton] at hlength
      refine g.desk (by omega) k hk' q ?_ ?_ ?_ hc
      · rw [h.run, if_neg hkb]
        exact hrun
      · rw [h.slot k hkb]
        exact hend
      · rw [h.slot k hkb]
        exact hr

theorem State.faultSilents_silenced (bs : List Nat) (hn : bs.Nodup) (hb : ∀ b ∈ bs, b ∈ slotNumbers) (s : State) :
    State.SlotsSilenced bs s (bs.foldl State.faultSilent s) := by
  induction bs generalizing s with
  | nil => exact .nil s
  | cons b bs ih =>
    obtain ⟨hout, hn⟩ := List.nodup_cons.mp hn
    exact (s.faultSilent_silenced (hb b List.mem_cons_self)).cons hout (ih hn (fun k hk => hb k (List.mem_cons_of_mem b hk)) _)

end Sys2Proof.Machine
end

section
/-! SUPPORT. A shelf goes SILENT (R35): its queued requests go, its live slots are FAULTED. -/

namespace Sys2Proof.Machine

variable {s₀ s t u : State} {b n j k : Nat}

/-! ### Requests leave the queue -/

/-- What stands as requests leave the queue, with at most k RESULTs more: the live slots, the runs, and the shelves. A FAULTED slot may lose
its order, and what then waits for a SILENT shelf has waited before. -/
structure State.Cleared (k : Nat) (s t : State) : Prop where
  shelf : ∀ n, (t.shelf n).sansPairs = (s.shelf n).sansPairs
  live : ∀ b, (s.slot b).state.live = true → t.slot b = s.slot b
  faulted : ∀ b, (s.slot b).state = .faulted → t.slot b = s.slot b ∨ t.slot b = { s.slot b with order := .idle }
  runs : State.SameRuns s t
  within : State.ResultsWithin k s t
  queue : ∀ r ∈ t.ac.queue, r ∈ s.ac.queue ∨ (s.shelf (shelfOf r.line)).state ≠ .silent

theorem SlotState.ne_free_of_live {q : SlotState} (h : q.live = true) : q ≠ .free := by
  rintro rfl
  cases h

theorem State.Spared.cleared (h : State.Spared s t) : State.Cleared 0 s t where
  shelf := h.shelf
  live b hb := h.slot b (SlotState.ne_free_of_live hb)
  faulted b hb := .inl (h.slot b (by rw [hb]; exact nofun))
  runs := ⟨congrArg Ms.runs h.ms, congrArg Ms.pendingRuns h.ms⟩
  within := .same (congrArg Ms.results h.ms) 0
  queue := h.queue

theorem State.Cleared.trans (h : State.Cleared j s t) (g : State.Cleared k t u) : State.Cleared (j + k) s u where
  shelf n := (g.shelf n).trans (h.shelf n)
  live b hb := by
    have hmid := h.live b hb
    rw [g.live b (by rw [hmid]; exact hb), hmid]
  faulted b hb := by
    rcases h.faulted b hb with hmid | hmid
    · have hlast := g.faulted b (by rw [hmid]; exact hb)
      rwa [hmid] at hlast
    · rcases g.faulted b (by rw [hmid]; exact hb) with hlast | hlast
      · exact .inr (hlast.trans hmid)
      · exact .inr (by rw [hlast, hmid])
  runs := ⟨g.runs.1.trans h.runs.1, g.runs.2.trans h.runs.2⟩
  within := h.within.trans g.within
  queue r hr := by
    rcases g.queue r hr with hold | hnew
    · exact h.queue r hold
    · have hstate : (t.shelf (shelfOf r.line)).state = (s.shelf (shelfOf r.line)).state := (congrArg ShelfRec.state (h.shelf (shelfOf r.line)) :)
      exact .inr (hstate ▸ hnew)

theorem State.Cleared.refl (s : State) : State.Cleared 0 s s := (State.Spared.refl s).cleared

/-- A queued request leaves the queue and ends. -/
theorem State.dequeue_cleared (s : State) (r : Request) (e : Ending) :
    State.Cleared 1 s ((s.dequeue r).endRequest r none e) ∧ ((s.dequeue r).endRequest r none e).ac.queue = s.ac.queue.erase r := by
  have hslot (b : Nat) : ((s.dequeue r).endRequest r none e).slot b = s.slot b :=
    ((State.endRequest_runWork (.refl (s.dequeue r)) r none e).slot b).trans rfl
  have hqueue : ((s.dequeue r).endRequest r none e).ac.queue = s.ac.queue.erase r :=
    congrArg Ac.queue (State.endRequest_runWork (.refl (s.dequeue r)) r none e).ac
  refine ⟨⟨fun n => ?_, fun b _ => hslot b, fun b _ => .inl (hslot b), State.endRequest_sameRuns (s.dequeue r) ..,
    State.endRequest_within (s.dequeue r) .., fun q hq => ?_⟩, hqueue⟩
  · exact ShelfRec.sansPairs_of_sansTicket (State.endRequest_shelf (s.dequeue r) r none e n)
  · rw [hqueue] at hq
    exact .inl (List.mem_of_mem_erase hq)

theorem State.dequeues_cleared (rs : List Request) (e : Ending) (s : State) :
    State.Cleared rs.length s (rs.foldl (fun s r => (s.dequeue r).endRequest r none e) s)
      ∧ (rs.foldl (fun s r => (s.dequeue r).endRequest r none e) s).ac.queue = s.ac.queue.diff rs := by
  induction rs generalizing s with
  | nil => exact ⟨.refl s, rfl⟩
  | cons r rs ih =>
    obtain ⟨hone, hqueue⟩ := s.dequeue_cleared r e
    obtain ⟨hrest, hlast⟩ := ih ((s.dequeue r).endRequest r none e)
    refine ⟨by rw [List.length_cons, Nat.add_comm]; exact hone.trans hrest, ?_⟩
    rw [List.foldl_cons, hlast, hqueue, List.diff_cons]

/-- No member with the property is left of a list less those that have it. -/
theorem List.not_mem_diff_filter {α : Type} [DecidableEq α] {p : α → Bool} {l : List α} {a : α} (h : a ∈ l.diff (l.filter p)) :
    p a = false := by
  rw [Bool.eq_false_iff]
  intro hp
  have hcount := List.count_pos_iff.mpr h
  rw [List.count_diff, List.count_filter hp] at hcount
  omega

/-- Every request for a line of the shelf, and its RESULT if it is a DESK one. -/
theorem State.expel_cleared (s : State) (n : Nat) (e : Ending) :
    State.Cleared (s.queuedOn n).length s (s.expel (s.queuedOn n) e)
      ∧ ((s.shelf n).state = .silent → ∀ r ∈ (s.expel (s.queuedOn n) e).ac.queue, shelfOf r.line ≠ n) := by
  obtain ⟨hout, hqueue⟩ := s.dequeues_cleared (s.queuedOn n) e
  unfold State.expel
  dsimp only
  generalize (s.queuedOn n).foldl (fun s r => (s.dequeue r).endRequest r none e) s = w at *
  have hidle : State.Spared w ((s.queuedOn n).foldl (fun s r => s.lineIdle r.line) w) :=
    State.foldl_spared (fun v (r : Request) => State.lineIdle_spared (.refl v) r.line) _ w
  refine ⟨hout.trans hidle.cleared, fun hs r hr => ?_⟩
  rcases hidle.queue r hr with hold | hnew
  · rw [hqueue] at hold
    have hgone := List.not_mem_diff_filter (p := fun q : Request => decide (shelfOf q.line = n)) hold
    exact of_decide_eq_false hgone
  · rintro rfl
    exact hnew ((congrArg ShelfRec.state (hout.shelf (shelfOf r.line)) :).trans hs)

/-- The order of a FAULTED slot is over. -/
theorem State.endOrder_cleared (hb : b ∈ slotNumbers) (hf : (s.slot b).state = .faulted) : State.Cleared 0 s (s.endOrder (slotOwner b)) := by
  have hslot := s.endOrder_slot hb
  have hrest : (s.endOrder (slotOwner b)).core = s.core ∧ (s.endOrder (slotOwner b)).ms = s.ms
      ∧ (s.endOrder (slotOwner b)).ac.queue = s.ac.queue := by
    rw [slotOwner_val hb]
    exact ⟨rfl, rfl, rfl⟩
  obtain ⟨hcore, hms, hqueue⟩ := hrest
  generalize s.endOrder (slotOwner b) = t at *
  refine ⟨fun n => ?_, fun k hk => ?_, fun k hk => ?_, ⟨congrArg Ms.runs hms, congrArg Ms.pendingRuns hms⟩, .same (congrArg Ms.results hms) 0,
    fun r hr => .inl (hqueue ▸ hr)⟩
  · unfold State.shelf
    rw [hcore]
  · rw [hslot, if_neg]
    rintro rfl
    rw [hf] at hk
    cases hk
  · rw [hslot]
    split
    · next hkb => exact .inr (by rw [hkb])
    · exact .inl rfl

theorem State.endOrders_cleared (bs : List Nat) (hb : ∀ b ∈ bs, b ∈ slotNumbers ∧ (s.slot b).state = .faulted) :
    State.Cleared 0 s (bs.foldl (fun s b => s.endOrder (slotOwner b)) s) := by
  induction bs generalizing s with
  | nil => exact .refl s
  | cons b bs ih =>
    obtain ⟨hmem, hf⟩ := hb b List.mem_cons_self
    have hone := State.endOrder_cleared hmem hf
    refine hone.trans (ih fun k hk => ⟨(hb k (List.mem_cons_of_mem b hk)).1, ?_⟩)
    have hfaulted := (hb k (List.mem_cons_of_mem b hk)).2
    rcases hone.faulted k hfaulted with he | he
    · rw [he]
      exact hfaulted
    · rw [he]
      exact hfaulted

/-! ### The shelf is SILENT -/

/-- The live slots of a shelf. -/
theorem State.mem_liveOn : b ∈ s.slotsOn n SlotState.live ↔
    b ∈ slotNumbers ∧ (s.slot b).state.live = true ∧ (s.slot b).line.map shelfOf = some n := by
  unfold State.slotsOn Slot.onShelf
  rw [List.mem_filter]
  cases (s.slot b).line with
  | none => simp
  | some l =>
    simp only [Bool.and_eq_true, decide_eq_true_eq, Option.map_some, Option.some.injEq]
    exact and_congr_right fun _ => ⟨fun h => ⟨h.1, h.2.2⟩, fun h => ⟨h.1, SlotState.ne_free_of_live h.1, h.2⟩⟩

/-- Shelf n has gone SILENT at the third failure. -/
structure State.ShelfSilenced (n : Nat) (s t : State) : Prop where
  shelf : (t.shelf n).sansPairs = { s.shelf n with state := .silent, probeDue := some (s.core.timeMs + 10000) }.sansPairs
  queue : ∀ r ∈ t.ac.queue, shelfOf r.line ≠ n
  faulted : ∀ b, (s.slot b).state = .faulted → t.slot b = s.slot b ∨ t.slot b = { s.slot b with order := .idle }
  live : ∀ b ∈ slotNumbers, (s.slot b).state.live = true → (s.slot b).line.map shelfOf = some n →
    ∃ e, t.slot b = { (s.slot b).faulted with cause := some .equipment, ended := e }
  runs : ∀ b ∈ slotNumbers, (s.slot b).state.live = true → (s.slot b).line.map shelfOf = some n → t.run b = none ∧ t.pendingRun b = none
  desk : s.ms.results.length ≤ 28 → s.ac.queue.length ≤ 32 → ∀ b ∈ slotNumbers, (s.slot b).state.live = true →
    (s.slot b).line.map shelfOf = some n → ∀ q, s.run b = none → (s.slot b).ended = false → (s.slot b).request = some q → q.cls = .desk →
      q.result (some b) .shelfSilent ∈ t.ms.results

/-- What offers spare stands. -/
theorem State.ShelfSilenced.spared (h : State.ShelfSilenced n s t) (g : State.Spared t u) : State.ShelfSilenced n s u where
  shelf := (g.shelf n).trans h.shelf
  queue r hr := by
    rcases g.queue r hr with hold | hnew
    · exact h.queue r hold
    · rintro rfl
      exact hnew (congrArg ShelfRec.state h.shelf :)
  faulted b hb := by
    rcases h.faulted b hb with he | he
    · rw [g.slot b (by rw [he, hb]; exact nofun)]
      exact .inl he
    · rw [g.slot b (by rw [he]; show (s.slot b).state ≠ _; rw [hb]; exact nofun)]
      exact .inr he
  live b hb hl hn := by
    obtain ⟨e, he⟩ := h.live b hb hl hn
    refine ⟨e, ?_⟩
    rw [g.slot b (by rw [he]; exact nofun), he]
  runs b hb hl hn := by
    unfold State.run State.pendingRun
    rw [g.ms]
    exact h.runs b hb hl hn
  desk hroom hq b hb hl hn q hrun hend hr hc := by
    rw [g.ms]
    exact h.desk hroom hq b hb hl hn q hrun hend hr hc

theorem State.shelfGoesSilent_silenced (s : State) (n : Nat) : State.ShelfSilenced n s (s.shelfGoesSilent n) := by
  have htell := State.updCore_spared (.refl (s.updShelf n fun h => { h with state := .silent, probeDue := some (s.after 10000) }))
    (f := fun c => c.askEquipment .shelf n .shelfSilent) (Core.askEquipment_work (.refl _) .shelf n .shelfSilent)
  unfold State.shelfGoesSilent
  dsimp only
  have hqueue : ((s.updShelf n fun h => { h with state := .silent, probeDue := some (s.after 10000) }).updCore
    fun c => c.askEquipment .shelf n .shelfSilent).ac.queue = s.ac.queue := rfl
  generalize (s.updShelf n fun h => { h with state := .silent, probeDue := some (s.after 10000) }).updCore
    (fun c => c.askEquipment .shelf n .shelfSilent) = v at *
  have hsilent : (v.shelf n).sansPairs = { s.shelf n with state := .silent, probeDue := some (s.core.timeMs + 10000) }.sansPairs := by
    rw [htell.shelf, State.shelf_updShelf, if_pos rfl]
    rfl
  obtain ⟨hexpel, hgone⟩ := v.expel_cleared n (.outcome .shelfSilent)
  have hgone := hgone (congrArg ShelfRec.state hsilent :)
  have hlength : (v.queuedOn n).length ≤ s.ac.queue.length := hqueue ▸ List.length_filter_le ..
  generalize v.expel (v.queuedOn n) (.outcome .shelfSilent) = w at *
  have horders := State.endOrders_cleared (s := w) (w.slotsOn n (decide <| · = .faulted)) fun b hb => by
    obtain ⟨hmem, hf, -⟩ := State.mem_faultedOn.mp hb
    exact ⟨hmem, hf⟩
  generalize (w.slotsOn n (decide <| · = .faulted)).foldl (fun s b => s.endOrder (slotOwner b)) w = x at *
  have hclear : State.Cleared (v.queuedOn n).length v x := hexpel.trans horders
  have hnodup : (x.slotsOn n SlotState.live).Nodup := List.Nodup.sublist List.filter_sublist (by decide)
  have hfour : (x.slotsOn n SlotState.live).length ≤ 4 := List.length_filter_le _ slotNumbers
  have hlive (b : Nat) := State.mem_liveOn (s := x) (b := b) (n := n)
  generalize x.slotsOn n SlotState.live = bs at *
  have hfaults := State.faultSilents_silenced bs hnodup (fun b hb => ((hlive b).mp hb).1) x
  generalize bs.foldl State.faultSilent x = y at *
  have hlines : State.Spared y ((y.linesOf bs).foldl State.tellFaulted y) :=
    State.foldl_spared (fun v l => State.tellFaulted_spared (.refl v) l) _ y
  generalize (y.linesOf bs).foldl State.tellFaulted y = t at *
  have hkeep (b : Nat) (hl : (s.slot b).state.live = true) : x.slot b = s.slot b := by
    have hv : v.slot b = s.slot b := htell.slot b (SlotState.ne_free_of_live hl)
    rw [hclear.live b (by rw [hv]; exact hl), hv]
  have hin (b : Nat) (hb : b ∈ slotNumbers) (hl : (s.slot b).state.live = true) (hn : (s.slot b).line.map shelfOf = some n) : b ∈ bs := by
    refine (hlive b).mpr ⟨hb, ?_⟩
    rw [hkeep b hl]
    exact ⟨hl, hn⟩
  have hmsv : v.ms = s.ms := htell.ms
  have hstaged : State.ShelfSilenced n s y := by
    refine ⟨?_, fun r hr => ?_, fun b hb => ?_, fun b hb hl hn => ?_, fun b hb hl hn => ?_, fun hroom hq b hb hl hn q hrun hend hr hc => ?_⟩
    · rw [ShelfRec.sansPairs_of_sansTicket (hfaults.shelf n), hclear.shelf, hsilent]
    · rw [hfaults.queue] at hr
      rcases horders.queue r hr with hold | hnew
      · exact hgone r hold
      · rintro rfl
        exact hnew ((congrArg ShelfRec.state (hexpel.shelf _) :).trans (congrArg ShelfRec.state hsilent :))
    · have hv : v.slot b = s.slot b := htell.slot b (by
        show (s.slot b).state ≠ _
        rw [hb]
        exact nofun)
      have hx := hclear.faulted b (by rw [hv]; exact hb)
      have hout : b ∉ bs := fun hm => by
        have hl := ((hlive b).mp hm).2.1
        have hstate : (x.slot b).state = .faulted := by
          rcases hx with he | he
          · rw [he, hv]
            exact hb
          · rw [he, hv]
            exact hb
        rw [hstate] at hl
        cases hl
      rw [hfaults.slot b hout]
      rwa [hv] at hx
    · obtain ⟨e, he⟩ := hfaults.faulted b (hin b hb hl hn)
      exact ⟨e, by rw [he, hkeep b hl]⟩
    · rw [hfaults.run, hfaults.pendingRun, if_pos (hin b hb hl hn), if_pos (hin b hb hl hn)]
      exact ⟨rfl, rfl⟩
    · have hmore := hclear.within.length
      rw [hmsv] at hmore
      refine hfaults.desk (by omega) b (hin b hb hl hn) q ?_ (by rw [hkeep b hl]; exact hend) (by rw [hkeep b hl]; exact hr) hc
      rw [hclear.runs.run]
      unfold State.run
      rw [hmsv]
      exact hrun
  exact hstaged.spared hlines

end Sys2Proof.Machine
end

section
/-! SUPPORT. The third failure of a shelf (R29, R33, R35). -/

namespace Sys2Proof.Machine

variable {s t u v w : State} {b n l : Nat} {third : Nat → Prop}

theorem satSucc_of_le {g n : Nat} (h : g ≤ n + 1) : satSucc g n = g := by
  unfold satSucc
  split <;> omega

/-- The third failure of a shelf in service (R29). -/
theorem State.countFailure_third (hf : 2 ≤ (s.shelf n).failures) (hs : (s.shelf n).state = .probing ∨ (s.shelf n).state = .serving) :
    s.countFailure n = (s.updShelf n fun h => { h with failures := 3 }).shelfGoesSilent n := by
  have hsucc : satSucc 3 (s.core.shelf n).failures = 3 := satSucc_of_le (Nat.succ_le_succ hf)
  have hcount : (s.updShelf n fun h => { h with failures := satSucc 3 h.failures }) = s.updShelf n fun h => { h with failures := 3 } :=
    congrArg (fun k => ({ s with core := s.core.setShelf n { s.core.shelf n with failures := k } } : State)) hsucc
  unfold State.countFailure
  dsimp only
  rw [hcount]
  refine if_pos ?_
  rw [State.shelf_updShelf, if_pos rfl]
  exact ⟨rfl, hs.symm⟩

/-- A shelf in service is about to count its third failure; the RELEASE of a slot may have failed for the third time just before. -/
structure State.Fails (n : Nat) (third : Nat → Prop) (s w : State) : Prop where
  failures : 2 ≤ (w.shelf n).failures
  state : (w.shelf n).state = .probing ∨ (w.shelf n).state = .serving
  time : w.core.timeMs = s.core.timeMs
  ms : w.ms = s.ms
  queue : w.ac.queue.length ≤ 32
  slot : ∀ b, (s.slot b).state.live = true → ¬third b → ∃ o, w.slot b = { s.slot b with order := o }
  faulted : ∀ b, (s.slot b).state.live = true → third b → w.slot b = (s.slot b).faulted

/-- What the third failure of shelf n has made of it, of the queue and of its slots. -/
structure State.ThirdFailure (n : Nat) (third : Nat → Prop) (s t : State) : Prop where
  state : (t.shelf n).state = .silent
  failures : (t.shelf n).failures = 3
  probeDue : (t.shelf n).probeDue = some (s.core.timeMs + 10000)
  queue : ∀ r ∈ t.ac.queue, shelfOf r.line ≠ n
  slot : ∀ b ∈ slotNumbers, (s.slot b).state.live = true → (s.slot b).line.map shelfOf = some n →
    (t.slot b).state = .faulted ∧ (t.slot b).order = .idle ∧ (third b → (t.slot b).cause = (s.slot b).cause)
      ∧ (¬third b → (t.slot b).cause = some .equipment) ∧ (t.slot b).request = (s.slot b).request ∧ (t.slot b).pair = (s.slot b).pair
  runs : ∀ b ∈ slotNumbers, (s.slot b).state.live = true → (s.slot b).line.map shelfOf = some n → ¬third b →
    t.run b = none ∧ t.pendingRun b = none
  desk : s.ms.results.length ≤ 28 → ∀ b ∈ slotNumbers, (s.slot b).state.live = true → (s.slot b).line.map shelfOf = some n → ¬third b →
    ∀ q, s.run b = none → (s.slot b).ended = false → (s.slot b).request = some q → q.cls = .desk →
      q.result (some b) .shelfSilent ∈ t.ms.results

theorem State.Fails.thirdFailure (h : State.Fails n third s w) (hspared : State.Spared (w.countFailure n) t) :
    State.ThirdFailure n third s t ∧ (t.shelf n).order = (w.shelf n).order := by
  rw [State.countFailure_third h.failures h.state] at hspared
  have hsilenced := (State.shelfGoesSilent_silenced (w.updShelf n fun h => { h with failures := 3 }) n).spared hspared
  have hshelf := hsilenced.shelf
  rw [State.shelf_updShelf, if_pos rfl] at hshelf
  have hlive (b : Nat) (hl : (s.slot b).state.live = true) (hon : (s.slot b).line.map shelfOf = some n) (ht : ¬third b) :
      (w.slot b).state.live = true ∧ (w.slot b).line.map shelfOf = some n := by
    obtain ⟨o, ho⟩ := h.slot b hl ht
    rw [ho]
    exact ⟨hl, hon⟩
  refine ⟨⟨(congrArg ShelfRec.state hshelf :), (congrArg ShelfRec.failures hshelf :), ?_, hsilenced.queue,
    fun b hb hl hon => ?_, fun b hb hl hon ht => ?_, fun hroom b hb hl hon ht q hrun hend hr hc => ?_⟩, (congrArg ShelfRec.order hshelf :)⟩
  · refine (congrArg ShelfRec.probeDue hshelf :).trans ?_
    show some (w.core.timeMs + 10000) = _
    rw [h.time]
  · by_cases ht : third b
    · have hf := h.faulted b hl ht
      have hslot : t.slot b = (s.slot b).faulted := by
        rcases hsilenced.faulted b (by show (w.slot b).state = _; rw [hf]; rfl) with he | he
        · exact he.trans hf
        · refine he.trans ?_
          show { w.slot b with order := .idle } = _
          rw [hf]
          rfl
      rw [hslot]
      exact ⟨rfl, rfl, fun _ => rfl, fun hn => absurd ht hn, rfl, rfl⟩
    · obtain ⟨hwl, hwon⟩ := hlive b hl hon ht
      obtain ⟨o, ho⟩ := h.slot b hl ht
      obtain ⟨e, he⟩ := hsilenced.live b hb hwl hwon
      have hslot : t.slot b = { (s.slot b).faulted with cause := some .equipment, ended := e } := by
        refine he.trans ?_
        show { (w.slot b).faulted with cause := some .equipment, ended := e } = _
        rw [ho]
        rfl
      rw [hslot]
      exact ⟨rfl, rfl, fun hy => absurd hy ht, fun _ => rfl, rfl, rfl⟩
  · obtain ⟨hwl, hwon⟩ := hlive b hl hon ht
    exact hsilenced.runs b hb hwl hwon
  · obtain ⟨hwl, hwon⟩ := hlive b hl hon ht
    obtain ⟨o, ho⟩ := h.slot b hl ht
    refine hsilenced.desk ?_ h.queue b hb hwl hwon q ?_ ?_ ?_ hc
    · show w.ms.results.length ≤ 28
      rw [h.ms]
      exact hroom
    · show Table.get none w.ms.runs b = none
      rw [h.ms]
      exact hrun
    · show (w.slot b).ended = false
      rw [ho]
      exact hend
    · show (w.slot b).request = some q
      rw [ho]
      exact hr

/-! ### The steps that count it -/

/-- A slot that is live on the shelf is FAULTED by its third failure, and the shelf is SILENT. -/
theorem State.countFailure_silences (hf : 2 ≤ (s.shelf n).failures) (hs : (s.shelf n).state = .probing ∨ (s.shelf n).state = .serving) :
    ((s.countFailure n).shelf n).state = .silent
      ∧ ∀ b ∈ slotNumbers, (s.slot b).state.live = true → (s.slot b).line.map shelfOf = some n →
          ((s.countFailure n).slot b).state = .faulted := by
  rw [State.countFailure_third hf hs]
  have hsilenced := State.shelfGoesSilent_silenced (s.updShelf n fun h => { h with failures := 3 }) n
  generalize (s.updShelf n fun h => { h with failures := 3 }).shelfGoesSilent n = t at *
  refine ⟨(congrArg ShelfRec.state hsilenced.shelf :), fun b hb hl hon => ?_⟩
  obtain ⟨e, he⟩ := hsilenced.live b hb hl hon
  rw [he]
  rfl

theorem State.probeFails_third (hf : 2 ≤ (s.shelf n).failures) (hs : (s.shelf n).state = .probing ∨ (s.shelf n).state = .serving) :
    s.probeFails n = s.countFailure n := by
  unfold State.probeFails
  refine if_neg ?_
  rw [(State.countFailure_silences hf hs).1]
  exact nofun

theorem State.operateFailed_third (hb : b ∈ slotNumbers) (hl : (s.slot b).state.live = true) (hon : (s.slot b).line = some l)
    (hf : 2 ≤ (s.shelf (shelfOf l)).failures)
    (hs : (s.shelf (shelfOf l)).state = .probing ∨ (s.shelf (shelfOf l)).state = .serving) :
    s.operateFailed b = s.countFailure (shelfOf l) := by
  have hshelf : s.slotShelf b = shelfOf l := by
    unfold State.slotShelf
    rw [hon]
    rfl
  unfold State.operateFailed
  rw [hshelf]
  refine if_neg ?_
  rw [(State.countFailure_silences hf hs).2 b hb hl (by rw [hon]; rfl)]
  exact nofun

theorem State.releaseFailed_third (hb : b ∈ slotNumbers) (hr : (s.slot b).state = .releasing) (ha : (s.slot b).attempt < 3)
    (hon : (s.slot b).line = some l) (hf : 2 ≤ (s.shelf (shelfOf l)).failures)
    (hs : (s.shelf (shelfOf l)).state = .probing ∨ (s.shelf (shelfOf l)).state = .serving) :
    s.releaseFailed b = s.countFailure (shelfOf l) := by
  have hshelf : s.slotShelf b = shelfOf l := by
    unfold State.slotShelf
    rw [hon]
    rfl
  unfold State.releaseFailed
  dsimp only
  rw [if_pos hr, if_pos ha, hshelf]
  refine if_neg ?_
  rw [(State.countFailure_silences hf hs).2 b hb (by rw [hr]; rfl) (by rw [hon]; rfl)]
  exact nofun

theorem State.releaseFailed_faults (hr : (s.slot b).state = .releasing) (ha : 3 ≤ (s.slot b).attempt) (hon : (s.slot b).line = some l) :
    s.releaseFailed b = (s.busFaults b).countFailure (shelfOf l) := by
  have hshelf : s.slotShelf b = shelfOf l := by
    unfold State.slotShelf
    rw [hon]
    rfl
  unfold State.releaseFailed
  dsimp only
  rw [if_pos hr, if_neg (by omega), hshelf]

/-- The bus of a slot has failed: the slot is FAULTED with its cause, request and pair (R33). -/
theorem State.busFaults_spared (s : State) (b : Nat) : State.Spared (s.slotFault b) (s.busFaults b) := by
  have hasked := State.updCore_spared (.refl (s.slotFault b)) (f := fun c => c.askEquipment .bus b .accessRelay)
    (Core.askEquipment_work (.refl _) .bus b .accessRelay)
  unfold State.busFaults
  dsimp only
  split
  · exact State.tellFaulted_spared hasked _
  · exact hasked

end Sys2Proof.Machine
end

section
/-! SUPPORT. Which transactions end with a shelf's third failure, and the ticket it then has (R29, R33, R35, R126). -/

namespace Sys2Proof.Machine

variable {s t u v w : State} {c : Core} {b n l : Nat} {third : Nat → Prop} {op p : AccessOp} {o q : AccessOwner}

/-! ### The failed transaction is counted -/

/-- A FAULTED slot stays so as a failure is counted. -/
theorem State.countFailure_faulted (n : Nat) (hf : (s.slot b).state = .faulted) :
    (s.countFailure n).slot b = s.slot b ∨ (s.countFailure n).slot b = { s.slot b with order := .idle } := by
  unfold State.countFailure
  dsimp only
  split
  · exact (State.shelfGoesSilent_silenced (s.updShelf n fun h => { h with failures := satSucc 3 h.failures }) n).faulted b hf
  · exact .inl rfl

/-- The third failed RELEASE makes the slot FAULTED, and no offer that follows changes it (R33). -/
theorem State.release_faults (b : Fin 4) (hstate : (s.slot b.val).state = .releasing) (hl : (s.slot b.val).line = some l)
    (ha : 3 ≤ (s.slot b.val).attempt) (hspared : State.Spared (s.transactionEnds (.slot b) .release false) t) :
    (t.slot b.val).state = .faulted ∧ (t.slot b.val).request = (s.slot b.val).request ∧ (t.slot b.val).pair = (s.slot b.val).pair := by
  have hb : b.val ∈ slotNumbers := mem_slotNumbers.mpr b.isLt
  have hends : s.transactionEnds (.slot b) .release false = (s.endOrder (slotOwner b.val)).releaseFailed b.val := by
    rw [slotOwner_val hb]
    rfl
  have hzero : (s.endOrder (slotOwner b.val)).slot b.val = { s.slot b.val with order := .idle } := (s.endOrder_slot hb b.val).trans (if_pos rfl)
  rw [hends] at hspared
  generalize s.endOrder (slotOwner b.val) = v at *
  rw [State.releaseFailed_faults (by rw [hzero]; exact hstate) (by rw [hzero]; exact ha) (by rw [hzero]; exact hl)] at hspared
  have hfault := (v.slotFault_slot hb b.val).trans (if_pos rfl)
  have hslot : (v.busFaults b.val).slot b.val = (s.slot b.val).faulted := by
    rw [(v.busFaults_spared b.val).slot b.val (by rw [hfault]; exact nofun), hfault, hzero]
    rfl
  have hcount : ((v.busFaults b.val).countFailure (shelfOf l)).slot b.val = (s.slot b.val).faulted := by
    rcases (v.busFaults b.val).countFailure_faulted (b := b.val) (shelfOf l) (by rw [hslot]; rfl) with he | he
    · rw [he, hslot]
    · rw [he, hslot]
      rfl
  rw [hspared.slot b.val (by rw [hcount]; exact nofun), hcount]
  exact ⟨rfl, rfl, rfl⟩

/-- A RELEASE_ALL fails for the third time. -/
theorem State.probe_third (n : Fin 64) (hs : s.Sound) (hf : 2 ≤ (s.shelf n.val).failures)
    (hstate : (s.shelf n.val).state = .probing ∨ (s.shelf n.val).state = .serving) (hthird : ∀ b, ¬third b) :
    State.Fails n.val third s (s.endOrder (.shelf n))
      ∧ s.transactionEnds (.shelf n) .releaseAll false = (s.endOrder (.shelf n)).countFailure n.val
      ∧ ((s.endOrder (.shelf n)).shelf n.val).order = .idle := by
  have hend := s.endOrder_shelf n.val n.val
  rw [shelfOwner_val, Nat.mod_eq_of_lt n.isLt, if_pos rfl] at hend
  obtain ⟨honly, hshelf⟩ := hend
  have hends : s.transactionEnds (.shelf n) .releaseAll false = (s.endOrder (.shelf n)).probeFails n.val := rfl
  rw [hends]
  generalize s.endOrder (.shelf n) = w at *
  refine ⟨⟨by rw [hshelf]; exact hf, by rw [hshelf]; exact hstate, ?_, ?_, ?_, fun b _ _ => ⟨_, honly.slot b⟩,
      fun b _ ht => absurd ht (hthird b)⟩,
    State.probeFails_third (by rw [hshelf]; exact hf) (by rw [hshelf]; exact hstate), by rw [hshelf]⟩
  · obtain ⟨_, _, _, rfl⟩ := honly
    rfl
  · obtain ⟨_, _, _, rfl⟩ := honly
    rfl
  · obtain ⟨_, _, _, rfl⟩ := honly
    exact hs.ac.queue

/-- The OPERATE or a RELEASE of a slot fails, and its shelf has the third failure; the RELEASE may be the slot's third one. -/
theorem State.slot_third (b : Fin 4) (hs : s.Sound) (hl : (s.slot b.val).line = some l) (hf : 2 ≤ (s.shelf (shelfOf l)).failures)
    (hstate : (s.shelf (shelfOf l)).state = .probing ∨ (s.shelf (shelfOf l)).state = .serving)
    (hop : ((s.slot b.val).state = .seizing ∧ op = .operate) ∨ ((s.slot b.val).state = .releasing ∧ op = .release))
    (hthird : ∀ k, third k ↔ k = b.val ∧ (s.slot k).state = .releasing ∧ 3 ≤ (s.slot k).attempt) :
    ∃ w, State.Fails (shelfOf l) third s w ∧ s.transactionEnds (.slot b) op false = w.countFailure (shelfOf l) := by
  have hb : b.val ∈ slotNumbers := mem_slotNumbers.mpr b.isLt
  have hends : s.transactionEnds (.slot b) op false =
      if op = .operate then (s.endOrder (slotOwner b.val)).operateFailed b.val else (s.endOrder (slotOwner b.val)).releaseFailed b.val := by
    rw [slotOwner_val hb]
    rcases hop with ⟨-, rfl⟩ | ⟨-, rfl⟩ <;> rfl
  have hslot := s.endOrder_slot hb
  have hshelf := s.endOrder_slot_shelf hb (shelfOf l)
  have hrest : (s.endOrder (slotOwner b.val)).core.timeMs = s.core.timeMs ∧ (s.endOrder (slotOwner b.val)).ms = s.ms
      ∧ (s.endOrder (slotOwner b.val)).ac.queue = s.ac.queue := by
    rw [slotOwner_val hb]
    exact ⟨rfl, rfl, rfl⟩
  obtain ⟨htime, hms, hqueue⟩ := hrest
  have hkept := State.endOrder_kept (.refl s) (slotOwner b.val)
  generalize s.endOrder (slotOwner b.val) = v at *
  have hzero : v.slot b.val = { s.slot b.val with order := .idle } := (hslot b.val).trans (if_pos rfl)
  have hslots (k : Nat) : ∃ o, v.slot k = { s.slot k with order := o } := by
    rw [hslot]
    split
    · next hk => exact ⟨_, by rw [hk]⟩
    · exact ⟨_, rfl⟩
  have hcount (hno : ∀ k, ¬third k) : State.Fails (shelfOf l) third s v :=
    ⟨by rw [hshelf]; exact hf, by rw [hshelf]; exact hstate, htime, hms, by rw [hqueue]; exact hs.ac.queue, fun k _ _ => hslots k,
      fun k _ hk => absurd hk (hno k)⟩
  rw [hends]
  rcases hop with ⟨hseizing, rfl⟩ | ⟨hreleasing, rfl⟩
  · refine ⟨v, hcount fun k hk => ?_, ?_⟩
    · obtain ⟨rfl, hr, -⟩ := (hthird k).mp hk
      exact nomatch hr.symm.trans hseizing
    · rw [if_pos rfl]
      exact State.operateFailed_third hb (by rw [hzero]; show SlotState.live _ = true; rw [hseizing]; rfl) (by rw [hzero]; exact hl)
        (by rw [hshelf]; exact hf) (by rw [hshelf]; exact hstate)
  · rw [if_neg nofun]
    by_cases ha : (s.slot b.val).attempt < 3
    · refine ⟨v, hcount fun k hk => ?_, ?_⟩
      · obtain ⟨rfl, -, hthree⟩ := (hthird k).mp hk
        omega
      · exact State.releaseFailed_third hb (by rw [hzero]; exact hreleasing) (by rw [hzero]; exact ha) (by rw [hzero]; exact hl)
          (by rw [hshelf]; exact hf) (by rw [hshelf]; exact hstate)
    · have hthree : 3 ≤ (s.slot b.val).attempt := Nat.le_of_not_lt ha
      refine ⟨v.busFaults b.val, ?_, State.releaseFailed_faults (by rw [hzero]; exact hreleasing) (by rw [hzero]; exact hthree)
        (by rw [hzero]; exact hl)⟩
      have hfault := v.slotFault_slot hb
      have hspared := v.busFaults_spared b.val
      obtain ⟨_, _, _, _, hsame⟩ := v.slotFault_rest b.val
      have hbus := State.busFaults_kept (.refl v) b.val
      have hrecord : ((v.busFaults b.val).shelf (shelfOf l)).sansPairs = (s.shelf (shelfOf l)).sansPairs := by
        rw [hspared.shelf, hsame, ← hshelf]
        rfl
      have hkeep (k : Nat) (hlive : (s.slot k).state.live = true) (hk : k ≠ b.val) : (v.busFaults b.val).slot k = v.slot k := by
        have hsl := (hfault k).trans (if_neg hk)
        obtain ⟨o, ho⟩ := hslots k
        rw [hspared.slot k, hsl]
        rw [hsl, ho]
        exact SlotState.ne_free_of_live hlive
      refine ⟨?_, ?_, hbus.core.time.trans htime, ?_, ?_, fun k hlive hk => ?_, fun k hlive hk => ?_⟩
      · have hfailures : ((v.busFaults b.val).shelf (shelfOf l)).failures = (s.shelf (shelfOf l)).failures :=
          (congrArg ShelfRec.failures hrecord :)
        rw [hfailures]
        exact hf
      · have hsame : ((v.busFaults b.val).shelf (shelfOf l)).state = (s.shelf (shelfOf l)).state := (congrArg ShelfRec.state hrecord :)
        rw [hsame]
        exact hstate
      · rw [hspared.ms, hsame]
        exact hms
      · exact (hbus.ac (hkept.ac hs.ac)).queue
      · have hkb : k ≠ b.val := fun e => hk ((hthird k).mpr ⟨e, by rw [e]; exact hreleasing, by rw [e]; exact hthree⟩)
        rw [hkeep k hlive hkb]
        exact hslots k
      · obtain ⟨rfl, -, -⟩ := (hthird k).mp hk
        have hsl := (hfault b.val).trans (if_pos rfl)
        rw [hspared.slot b.val (by rw [hsl]; exact nofun), hsl, hzero]
        rfl

/-! ### Which order failed -/

/-- One command fails orders of one owner; by an ACCESS_CONFIRM, those of one operation and bus. -/
theorem State.fails.same {i : Instr} {a : Nat} (h : s.fails o op n a i) (g : s.fails q p n b i) (ha : a < 256) (hb : b < 256) :
    o = q ∨ (op = p ∧ a = b) := by
  rcases h with ⟨rfl, -⟩ | ⟨rfl, -⟩
  · rcases g with ⟨he, -⟩ | ⟨he, -⟩
    · cases he
      exact .inl rfl
    · cases he
  · rcases g with ⟨he, -⟩ | ⟨he, -⟩
    · cases he
    · have hframe : s.confirmFrame n op a true = s.confirmFrame n p b true := by
        injection he
      have hop : byte op.code = byte p.code := congrArg (fun f : Octets => f.getD 4 0) hframe
      have hbus : byte a = byte b := congrArg (fun f : Octets => f.getD 5 0) hframe
      refine .inr ⟨?_, ?_⟩
      · have hcode (q : AccessOp) : accessOpOfCode (byte q.code).toNat = some q := by cases q <;> rfl
        exact Option.some.inj ((hcode op).symm.trans (hop ▸ hcode p))
      · have hnat : a % 256 = b % 256 := congrArg BitVec.toNat hbus
        omega

/-! ### The ticket of a SILENT shelf (R126) -/

/-- A ticket enters a table with room under a number of its own. -/
theorem Core.enter_ticket (hc : c.tc.Sound) (hroom : c.tc.tickets.length < 256) (t : Ticket) :
    (c.enter t).1.ticket (c.enter t).2 = some { t with number := (c.enter t).2, creation := c.tc.created } := by
  have hfresh : c.tc.tickets.find? (fun u => decide (u.number = c.tc.freeNumber 256 c.tc.counter)) = none := by
    refine List.find?_eq_none.mpr fun u hu => ?_
    rw [decide_eq_true_eq]
    exact Tc.freeNumber_fresh hc.counter hroom u hu
  show (c.tc.tickets ++ [{ t with number := c.tc.freeNumber 256 c.tc.counter, creation := c.tc.created }]).find?
    (fun u : Ticket => decide (u.number = c.tc.freeNumber 256 c.tc.counter)) = _
  rw [List.find?_append, hfresh, Option.none_or]
  exact List.find?_cons_of_pos (p := fun u : Ticket => decide (u.number = c.tc.freeNumber 256 c.tc.counter)) (decide_eq_true rfl)

/-- The first notice of a ticket without a parent. -/
theorem Core.noticeDue_first {k : Ticket} (hk : c.ticket n = some k) (hp : k.parent = none) (hnot : k.noticePending = false) :
    (c.noticeDue n).ticket n = some { k with noticePending := true } ∧ (c.noticeDue n).tc.notices = c.tc.notices ++ [n]
      ∧ (c.noticeDue n).shelves = c.shelves := by
  have hchild : c.childOfLiveGroup k = false := by
    unfold Core.childOfLiveGroup
    simp only [hp, Option.bind_none]
  obtain ⟨tickets, gm, oh, he⟩ := c.putTicket_eq n fun t => { t with noticePending := true }
  have hput := Core.ticket_putTicket hk (f := fun t => { t with noticePending := true }) fun _ => rfl
  unfold Core.noticeDue
  rw [hk]
  dsimp only
  rw [hnot, hchild, if_neg (by exact nofun)]
  refine ⟨hput, ?_, ?_⟩
  · rw [he]
    rfl
  · rw [he]
    rfl

/-- The new ticket of a shelf without one. -/
theorem Core.askEquipment_opens (hc : c.tc.Sound) (hnone : (c.shelf n).ticket = none) (hroom : c.tc.tickets.length < 256) :
    ∃ k ∈ (c.askEquipment .shelf n .shelfSilent).tc.tickets, ((c.askEquipment .shelf n .shelfSilent).shelf n).ticket = some k.number
      ∧ k.kind = .shelf ∧ k.subject = n ∧ k.cls = .fault .shelfSilent ∧ k.severity = 3 ∧ k.state = .opened ∧ k.noticePending = true
      ∧ (c.askEquipment .shelf n .shelfSilent).tc.notices = c.tc.notices ++ [k.number] := by
  have hlack : c.equipmentTicket .shelf n = none := by
    show (c.shelf n).ticket.bind c.ticket = none
    rw [hnone]
    rfl
  have hmake : c.makeRoom = (c, true) := if_pos hroom
  unfold Core.askEquipment
  rw [hlack, hmake]
  dsimp only
  rw [if_pos rfl]
  generalize ht : ({ number := 0, kind := .shelf, subject := n, cls := .fault .shelfSilent, severity := 3, state := .opened,
                     firstSeen := c.now, lastSeen := c.now } : Ticket) = t
  have hentered := Core.enter_ticket hc hroom t
  have hnotices : (c.enter t).1.tc.notices = c.tc.notices := rfl
  have hnumber : (c.enter t).2 = ({ t with number := (c.enter t).2, creation := c.tc.created } : Ticket).number := rfl
  generalize (c.enter t).1 = d at *
  generalize (c.enter t).2 = m at *
  obtain ⟨hticket, hnotice, hshelves⟩ := Core.noticeDue_first (c := d.setReference .shelf n m) hentered (by rw [← ht]) (by rw [← ht])
  obtain ⟨hmem, -⟩ := Tc.find_some hticket
  refine ⟨_, hmem, ?_, by rw [← ht], by rw [← ht], by rw [← ht], by rw [← ht], by rw [← ht], rfl,
    hnotice.trans (congrArg (· ++ [m]) hnotices)⟩
  have hrecord : ((d.setReference .shelf n m).noticeDue m).shelf n = { d.shelf n with ticket := some m } := by
    unfold Core.shelf at *
    rw [hshelves]
    exact (d.shelf_updShelf n n fun r => { r with ticket := some m }).trans (if_pos rfl)
  rw [hrecord]

end Sys2Proof.Machine
end

section
/-! PROOF of O40. -/

namespace Sys2Proof.Machine

variable {s t : State} {b n l : Nat} {op : AccessOp} {i : Instr}

/-- The step of a command with which a slot's order fails. -/
theorem exec_slotFails (b : Fin 4) (hq : s.Quiet) (hop : op ≠ .releaseAll) (hstate : (s.slot b.val).state ≠ .free)
    (hl : (s.slot b.val).line = some l) (hlow : l < 8192) (hf : s.fails (.slot b) op (shelfOf l) b.val i) :
    exec i s = .next (s.transactionEnds (.slot b) op false).finish :=
  exec_fails hq (by unfold shelfOf; omega) b.isLt hf fun _ ho => State.outstanding_slot hop hstate hl ho

/-- The step of a command with which a shelf's order fails. -/
theorem exec_shelfFails (n : Fin 64) (hq : s.Quiet) (hf : s.fails (.shelf n) .releaseAll n.val 0 i) :
    exec i s = .next (s.transactionEnds (.shelf n) .releaseAll false).finish :=
  exec_fails hq n.isLt (by decide) hf fun _ ho => State.outstanding_shelf ho

/-- What follows the end of a transaction: the settling, and the conditions shown. -/
theorem State.finish_transaction (hq : s.Quiet) (o : AccessOwner) (op : AccessOp) (done : Bool) :
    (s.transactionEnds o op done).finish = (s.transactionEnds o op done).settle.refreshConditions :=
  have hk := State.transactionEnds_kept (.refl s) o op done
  State.finish_of_ready (hk.core.oh.ready.trans hq.ready) (hk.latch.trans hq.latch)

theorem satSucc_eq_min (g n : Nat) : satSucc g n = min g (n + 1) := by
  unfold satSucc
  split <;> omega

theorem SlotState.live_of {q : SlotState} (h : q = .seizing ∨ q = .held ∨ q = .releasing) : q.live = true := by
  rcases h with rfl | rfl | rfl <;> rfl

/-- A SILENT shelf is shown (R180). -/
theorem State.anyShelfSilent_of_silent (h : (s.shelf n).state = .silent) : s.core.anyShelfSilent = true := by
  by_contra hnone
  refine Table.get_all (P := fun r : ShelfRec => r.state ≠ .silent) (d := {}) (t := s.core.shelves) nofun (fun e he hs => hnone ?_) n h
  exact List.any_eq_true.mpr ⟨e, he, decide_eq_true hs⟩

/-- The state after a command whose transaction is the shelf's third failure, once the conditions are shown. -/
theorem State.ThirdFailure.shown {third : Nat → Prop} (h : State.ThirdFailure n third s t) : t.refreshConditions.core.oh.current.shelfSilent = true :=
  (t.refreshConditions_shown).shelf.trans (State.anyShelfSilent_of_silent h.state)

/-- Slot b's RELEASE has failed for the third time, by this command. -/
def State.ThirdRelease (s : State) (n : Nat) (i : Instr) (b : Nat) : Prop :=
  (s.slot b).state = .releasing ∧ 3 ≤ (s.slot b).attempt ∧ ∃ o : Fin 4, o.val = b ∧ s.fails (.slot o) .release n b i

/-- The commands that make the third failure of shelf n, and what they do. -/
theorem exec_thirdFailure (n : Fin 64) (hq : s.Quiet) (hs : s.Sound) (hcount : 2 ≤ (s.shelf n.val).failures)
    (hstate : (s.shelf n.val).state = .probing ∨ (s.shelf n.val).state = .serving)
    (hcause : s.fails (.shelf n) .releaseAll n.val 0 i
      ∨ ∃ (b : Fin 4) (l : Nat) (op : AccessOp), (s.slot b.val).line = some l ∧ l < 8192 ∧ shelfOf l = n.val
          ∧ s.fails (.slot b) op n.val b.val i
          ∧ (((s.slot b.val).state = .seizing ∧ op = .operate) ∨ ((s.slot b.val).state = .releasing ∧ op = .release))) :
    ∃ u, exec i s = .next u.finish ∧ u.finish = u.settle.refreshConditions
      ∧ State.ThirdFailure n.val (s.ThirdRelease n.val i) s u.settle
      ∧ (s.fails (.shelf n) .releaseAll n.val 0 i →
          u = s.transactionEnds (.shelf n) .releaseAll false ∧ (u.settle.shelf n.val).order = .idle) := by
  rcases hcause with hf | ⟨b, l, op, hl, hlow, hshelf, hf, hop⟩
  · have hno (b : Nat) : ¬s.ThirdRelease n.val i b := by
      rintro ⟨-, -, o, rfl, ho⟩
      rcases hf.same ho (by decide) (Nat.lt_trans o.isLt (by decide)) with he | ⟨he, -⟩
      · cases he
      · cases he
    obtain ⟨hfails, hends, horder⟩ := State.probe_third n hs hcount hstate hno
    obtain ⟨hthird, hlast⟩ := hfails.thirdFailure (State.settle_spared (.refl _))
    rw [← hends] at hthird hlast
    exact ⟨_, exec_shelfFails n hq hf, State.finish_transaction hq _ _ _, hthird, fun _ => ⟨rfl, hlast.trans horder⟩⟩
  · have hsame (k : Nat) : s.ThirdRelease n.val i k ↔ k = b.val ∧ (s.slot k).state = .releasing ∧ 3 ≤ (s.slot k).attempt := by
      refine ⟨?_, ?_⟩
      · rintro ⟨hr, ha, o, rfl, ho⟩
        refine ⟨?_, hr, ha⟩
        rcases hf.same ho (Nat.lt_trans b.isLt (by decide)) (Nat.lt_trans o.isLt (by decide)) with he | ⟨-, he⟩
        · cases he
          rfl
        · exact he.symm
      · rintro ⟨rfl, hr, ha⟩
        refine ⟨hr, ha, b, rfl, ?_⟩
        rcases hop with ⟨hseizing, -⟩ | ⟨-, rfl⟩
        · exact nomatch hr.symm.trans hseizing
        · exact hf
    have hlive : (s.slot b.val).state ≠ .free ∧ op ≠ .releaseAll := by
      rcases hop with ⟨hst, rfl⟩ | ⟨hst, rfl⟩ <;> exact ⟨by rw [hst]; exact nofun, nofun⟩
    rw [← hshelf] at hcount hstate hf hsame ⊢
    obtain ⟨w, hfails, hends⟩ := State.slot_third b hs hl hcount hstate hop hsame
    obtain ⟨hthird, -⟩ := hfails.thirdFailure (State.settle_spared (.refl _))
    rw [← hends] at hthird
    refine ⟨_, exec_slotFails b hq hlive.2 hlive.1 hl hlow hf, State.finish_transaction hq _ _ _, hthird, fun hprobe => ?_⟩
    rcases hprobe.same hf (by decide) (Nat.lt_trans b.isLt (by decide)) with he | ⟨he, -⟩
    · cases he
    · exact absurd he.symm hlive.2

/-- A shelf without a slot or a queued request goes SILENT, and the TC is told. -/
theorem State.shelfGoesSilent_alone (hqueue : ∀ r ∈ s.ac.queue, shelfOf r.line ≠ n)
    (hslots : ∀ b ∈ slotNumbers, (s.slot b).line.map shelfOf ≠ some n) :
    ∃ v : State, v.ac = s.ac ∧ v.core.tc = s.core.tc ∧ (v.shelf n).ticket = (s.shelf n).ticket
      ∧ s.shelfGoesSilent n = v.updCore fun c => c.askEquipment .shelf n .shelfSilent := by
  refine ⟨s.updShelf n fun h => { h with state := .silent, probeDue := some (s.after 10000) }, rfl, rfl, ?_, ?_⟩
  · rw [State.shelf_updShelf, if_pos rfl]
  · unfold State.shelfGoesSilent
    dsimp only
    have hac : ((s.updShelf n fun h => { h with state := .silent, probeDue := some (s.after 10000) }).updCore
        fun c => c.askEquipment .shelf n .shelfSilent).ac = s.ac := rfl
    generalize ((s.updShelf n fun h => { h with state := .silent, probeDue := some (s.after 10000) }).updCore
      fun c => c.askEquipment .shelf n .shelfSilent) = v at *
    have hempty : v.queuedOn n = [] := by
      refine List.filter_eq_nil_iff.mpr fun r hr => ?_
      rw [decide_eq_true_eq]
      exact hqueue r (hac ▸ hr)
    have hexpel : v.expel (v.queuedOn n) (.outcome .shelfSilent) = v := by
      rw [hempty]
      rfl
    have hnone (p : SlotState → Bool) : v.slotsOn n p = [] := by
      refine List.filter_eq_nil_iff.mpr fun b hb => ?_
      have hslot : v.slot b = s.slot b := by
        unfold State.slot
        rw [hac]
      have hout := hslots b hb
      rw [hslot]
      unfold Slot.onShelf
      cases hl : (s.slot b).line with
      | none => simp
      | some l =>
        rw [hl] at hout
        have hne : shelfOf l ≠ n := fun e => hout (congrArg some e)
        simp [hne]
    rw [hexpel, hnone, List.foldl_nil, hnone]
    rfl

/-- A shelf without a ticket, a slot or a request has one OPEN at its third failure (R35, R126). -/
theorem State.probe_opens (n : Fin 64) (hs : s.Sound) (hcount : 2 ≤ (s.shelf n.val).failures)
    (hstate : (s.shelf n.val).state = .probing ∨ (s.shelf n.val).state = .serving) (hnone : (s.shelf n.val).ticket = none)
    (hroom : s.core.tc.tickets.length < 256) (hqueue : ∀ r ∈ s.ac.queue, shelfOf r.line ≠ n.val)
    (hslots : ∀ b ∈ slotNumbers, (s.slot b).line.map shelfOf ≠ some n.val) (hu : s.transactionEnds (.shelf n) .releaseAll false = t) :
    t.ac = s.ac ∧ ∃ k ∈ t.core.tc.tickets, (t.shelf n.val).ticket = some k.number ∧ k.kind = .shelf ∧ k.subject = n.val
      ∧ k.cls = .fault .shelfSilent ∧ k.severity = 3 ∧ k.state = .opened ∧ k.noticePending = true
      ∧ t.core.tc.notices = s.core.tc.notices ++ [k.number] := by
  have hend := s.endOrder_shelf n.val n.val
  rw [shelfOwner_val, Nat.mod_eq_of_lt n.isLt, if_pos rfl] at hend
  obtain ⟨honly, hshelf⟩ := hend
  obtain ⟨hfails, hends, -⟩ := State.probe_third (third := fun _ => False) n hs hcount hstate fun _ => id
  rw [← hu, hends]
  generalize s.endOrder (.shelf n) = w at *
  have hrest : w.ac = s.ac ∧ w.core.tc = s.core.tc := by
    obtain ⟨_, _, _, rfl⟩ := honly
    exact ⟨rfl, rfl⟩
  obtain ⟨hac, htc⟩ := hrest
  obtain ⟨v, hvac, hvtc, hvticket, hv⟩ := State.shelfGoesSilent_alone (s := w.updShelf n.val fun h => { h with failures := 3 }) (n := n.val)
    (by show ∀ r ∈ w.ac.queue, _; rw [hac]; exact hqueue)
    fun b hb => by show (w.slot b).line.map shelfOf ≠ _; rw [honly.slot]; exact hslots b hb
  rw [State.countFailure_third hfails.failures hfails.state, hv]
  have hlack : (v.shelf n.val).ticket = none := by
    rw [hvticket, State.shelf_updShelf, if_pos rfl, hshelf]
    exact hnone
  have hsame : v.core.tc = s.core.tc := hvtc.trans htc
  obtain ⟨k, hk, h1, h2, h3, h4, h5, h6, h7, h8⟩ := Core.askEquipment_opens (c := v.core) (hsame ▸ hs.core.tc) hlack (by rw [hsame]; exact hroom)
  exact ⟨hvac.trans hac, k, hk, h1, h2, h3, h4, h5, h6, h7, h8.trans (by rw [hsame])⟩

end Sys2Proof.Machine
end

open Sys2Proof Sys2Proof.Machine in
/-- Settles O40: each ending of a transaction is followed through the failures its shelf counts; at the third one, what offers and examined
lines spare carries the FAULTED slots and the emptied queue to the end of the step. -/
theorem failedReleaseIsRepeated : Obligations.FailedReleaseIsRepeated := by
  refine ⟨fun b l i s hq hstate hl hlow hf => ⟨fun ha hcount => ?_, fun ha => ?_⟩, fun b r due s h hstate hr hlow ho hempty hnone hrests => ?_,
    fun b r i s hq hstate hr hlow hcount hf => ?_, fun n due s h hs ho hempty hnone hrests => ?_,
    fun n i s hq hf => ⟨fun hstate hcount => ?_, fun hstate => ?_⟩, fun n i s hq hs hcount hstate => ?_⟩
  · have hexec := exec_slotFails (op := .release) b hq nofun (by rw [hstate]; exact nofun) hl hlow hf
    have hagain := State.release_repeats b hstate hl ha hcount
    have hkept := State.transactionEnds_kept (.refl s) (.slot b) .release false
    rw [State.finish_of_kept hq hkept (by
      obtain ⟨_, _, _, _, he⟩ := hagain.rest
      rw [he]
      exact hq.settled)] at hexec
    generalize s.transactionEnds (.slot b) .release false = u at *
    have hself := (hagain.slot b.val).trans (if_pos rfl)
    obtain ⟨_, _, _, _, he⟩ := hagain.rest
    refine ⟨_, hexec, ?_, ?_, ?_, hagain.failures, fun k hk => (hagain.slot k).trans (if_neg hk), ?_⟩
    · exact (congrArg Slot.state hself :).trans hstate
    · exact (congrArg Slot.attempt hself :)
    · exact (congrArg Slot.order hself :)
    · rw [he]
      exact ⟨rfl, rfl, rfl, rfl⟩
  · have hexec := exec_slotFails (op := .release) b hq nofun (by rw [hstate]; exact nofun) hl hlow hf
    rw [State.finish_transaction hq] at hexec
    have hfaulted := State.release_faults b hstate hl ha (State.settle_spared (.refl _))
    exact ⟨_, hexec, hfaulted⟩
  · have hb : b.val ∈ slotNumbers := mem_slotNumbers.mpr b.isLt
    have hl : (s.slot b.val).line = some r.line := by
      show (s.slot b.val).request.map (·.line) = _
      rw [hr]
      rfl
    have hout := State.outstanding_slot (op := .release) nofun (by rw [hstate]; exact nofun) hl ho
    have hexec := exec_confirm h (by unfold shelfOf; omega) b.isLt hout false
    have hkept := State.transactionEnds_kept (.refl s) (.slot b) .release true
    obtain ⟨w, hover, hfreed⟩ := State.release_done b hstate hl hrests hnone
    have hself : w.slot b.val = { s.slot b.val with order := .idle } := (hover.slot b.val).trans (if_pos rfl)
    obtain ⟨_, _, _, _, hw⟩ := hover.rest
    obtain ⟨_, _, _, _, _, _, _, _, hu⟩ := hfreed.rest
    rw [Bool.not_false] at hexec
    generalize s.transactionEnds (.slot b) .release true = u at *
    rw [State.finish_of_empty (hkept.core.oh.ready.trans h.quiet.ready) (hkept.latch.trans h.quiet.latch) (by rw [hu, hw]; exact hnone)
      (by rw [hu, hw]; exact hempty)] at hexec
    have hslot := (hfreed.slot b.val).trans (if_pos rfl)
    have hshelf := (hfreed.shelf (shelfOf r.line)).trans (if_pos rfl)
    rw [hself] at hslot
    rw [hover.shelf, if_pos rfl] at hshelf
    have hwline (k : Nat) : w.line k = s.line k := by
      rw [hw]
      rfl
    refine ⟨_, hexec, (congrArg Slot.state hslot :), (congrArg Slot.request hslot :), (congrArg Slot.order hslot :), (congrArg Slot.cause hslot :),
      (congrArg Slot.attempt hslot :), fun k hk => ?_, hfreed.access, hfreed.deferred, ?_, fun k hk => ?_, (congrArg ShelfRec.failures hshelf :),
      (congrArg ShelfRec.freePairs hshelf :), ?_⟩
    · exact (hfreed.slot k).trans ((if_neg hk).trans ((hover.slot k).trans (if_neg hk)))
    · rw [← hwline]
      exact hfreed.callState
    · exact (hfreed.other k hk).trans (hwline k)
    · have hquota := hfreed.quota
      rw [hself] at hquota
      have hlive : ({ s.slot b.val with order := .idle } : Slot).state.live = true := by
        show (s.slot b.val).state.live = true
        rw [hstate]
        rfl
      have hleft : w.quotaLeft (s.slot b.val).request = if r.cls = .routine ∧ s.core.oh.params.routineQuota < s.ac.quotaInForce then
          s.ac.quotaInForce - 1 else s.ac.quotaInForce := by
        rw [hw, hr]
        unfold State.quotaLeft
        simp only [Option.map_some, Option.some.injEq]
        rfl
      rw [if_pos hlive, hleft] at hquota
      refine ⟨?_, ?_, hquota, ?_⟩
      · rw [hu, hw]
        rfl
      · rw [hu, hw]
        rfl
      · rw [hu, hw]
        exact ⟨hempty, rfl, rfl, rfl, rfl⟩
  · have hl : (s.slot b.val).line = some r.line := by
      show (s.slot b.val).request.map (·.line) = _
      rw [hr]
      rfl
    have hexec := exec_slotFails (op := .operate) b hq nofun (by rw [hstate]; exact nofun) hl hlow hf
    obtain ⟨⟨w, hover, hdeparts⟩, hmarked, hdesk⟩ := State.operate_fails b hstate hl hcount
    have hkept := State.transactionEnds_kept (.refl s) (.slot b) .operate false
    rw [State.finish_of_kept hq hkept (hdeparts.settled (hover.settled hq.settled))] at hexec
    generalize s.transactionEnds (.slot b) .operate false = u at *
    obtain ⟨h1, h2, h3, -, h5, h6, h7, -, -, h10, h11, -, h13⟩ := hdeparts.over hover
    exact ⟨_, hexec, h1, h3, h2, h5, h6.trans hr, h7, h13, h10, h11, hmarked, fun hm he => hdesk r hm he hr⟩
  · have hexec := exec_confirm h n.isLt (by decide) (State.outstanding_shelf (bus := 0) ho) false
    have hkept := State.transactionEnds_kept (.refl s) (.shelf n) .releaseAll true
    have hrecovered := State.probe_done n hnone hrests
    rw [Bool.not_false] at hexec
    generalize s.transactionEnds (.shelf n) .releaseAll true = u at *
    obtain ⟨core, insertion, sending, slots, quota, walk, hu⟩ := hrecovered.rest
    rw [State.finish_of_empty (hkept.core.oh.ready.trans h.quiet.ready) (hkept.latch.trans h.quiet.latch) hrecovered.noRetests
      (by rw [hu]; exact hempty)] at hexec
    have hshelf := hrecovered.shelf
    refine ⟨_, hexec, (congrArg ShelfRec.state hshelf :), (congrArg ShelfRec.failures hshelf :), (congrArg ShelfRec.freePairs hshelf :),
      (congrArg ShelfRec.probeDue hshelf :), (congrArg ShelfRec.order hshelf :), (congrArg ShelfRec.fitted hshelf :), fun b hb hf hl => ?_,
      fun b hb hout => ?_, fun m k href hk hkind hp hst => hrecovered.ticket hs.core m k href hk hkind hp hst, ?_⟩
    · have hin := State.mem_faultedOn.mpr ⟨hb, hf, hl⟩
      have hslot := (hrecovered.slot b).trans (if_pos hin)
      exact ⟨(congrArg Slot.state hslot :), (congrArg Slot.request hslot :), fun l hline => hrecovered.access b hin l hline⟩
    · refine (hrecovered.slot b).trans (if_neg fun hin => ?_)
      obtain ⟨-, hf, hl⟩ := State.mem_faultedOn.mp hin
      exact hout ⟨hf, hl⟩
    · rw [hu]
      exact ⟨hempty, rfl, rfl, rfl⟩
  · have hexec := exec_shelfFails n hq hf
    obtain ⟨w, hover, hends⟩ := State.probe_fails n (.inl hcount)
    have hkept := State.transactionEnds_kept (.refl s) (.shelf n) .releaseAll false
    rw [hends, if_pos hstate] at hkept hexec
    obtain ⟨_, _, _, hw⟩ := hover.rest
    obtain ⟨_, _, he⟩ := w.makeReady_shelf_eq n.val .releaseAll
    have hshelf := (w.makeReady_shelfOwner n.isLt .releaseAll n.val).trans (if_pos rfl)
    rw [hover.shelf, if_pos rfl, hover.madeReady, satSucc_of_lt (by omega)] at hshelf
    rw [State.finish_of_kept hq hkept (by rw [he, hw]; exact hq.settled)] at hexec
    generalize w.makeReady (shelfOwner n.val) .releaseAll = u at *
    refine ⟨_, hexec, ?_, (congrArg ShelfRec.failures hshelf :), (congrArg ShelfRec.order hshelf :), ?_⟩
    · exact (congrArg ShelfRec.state hshelf :).trans hstate
    · rw [he, hw]
      exact ⟨rfl, rfl, rfl, rfl⟩
  · have hexec := exec_shelfFails n hq hf
    obtain ⟨w, hover, hends⟩ := State.probe_fails n (.inr hstate)
    have hkept := State.transactionEnds_kept (.refl s) (.shelf n) .releaseAll false
    rw [hends, if_neg (by rw [hstate]; exact nofun)] at hkept hexec
    obtain ⟨_, _, _, hw⟩ := hover.rest
    rw [State.finish_of_kept hq hkept (by rw [hw]; exact hq.settled)] at hexec
    refine ⟨_, hexec, ?_, ?_⟩
    · refine ((hover.shelf n.val).trans (if_pos rfl)).trans ?_
      rw [satSucc_eq_min]
    · rw [hw]
      exact ⟨rfl, rfl, rfl, rfl⟩
  · intro third hcause
    obtain ⟨u, hexec, hfinish, hthird, hprobe⟩ := exec_thirdFailure n hq hs hcount hstate hcause
    have hshown := hthird.shown
    rw [← hfinish] at hshown
    have hsame (b : Nat) : u.finish.slot b = u.settle.slot b := by
      rw [hfinish]
      rfl
    refine ⟨_, hexec, ?_, ?_, ?_, hshown, fun hf => ?_, ?_, fun b hb hst hon => ?_, fun hnone hroom hqueue hslots => ?_⟩
    · rw [hfinish]
      exact hthird.state
    · rw [hfinish]
      exact hthird.failures
    · rw [hfinish]
      exact hthird.probeDue
    · rw [hfinish]
      exact (hprobe hf).2
    · rw [hfinish]
      exact hthird.queue
    · obtain ⟨h1, h2, h3, h4, h5, h6⟩ := hthird.slot b hb (SlotState.live_of hst) hon
      rw [hsame]
      refine ⟨h1, h2, h3, h4, h5, h6, fun ht => ?_, fun hmany hearly hrun hend q hr hc => ?_⟩
      · rw [hfinish]
        exact hthird.runs b hb (SlotState.live_of hst) hon ht
      · rw [hfinish]
        refine hthird.desk hmany b hb (SlotState.live_of hst) hon (fun ht => ?_) q hrun hend hr hc
        rcases hearly with he | he
        · exact nomatch he.symm.trans ht.1
        · exact nomatch he.symm.trans ht.1
    · have hf : s.fails (.shelf n) .releaseAll n.val 0 i := by
        rcases hcause with hf | ⟨b, l, _, hl, -, hon, -, -⟩
        · exact hf
        · exact absurd (by rw [hl]; exact congrArg some hon) (hslots b.val (mem_slotNumbers.mpr b.isLt))
      have hu := (hprobe hf).1
      obtain ⟨hac, k, hk, h1, h2, h3, h4, h5, h6, h7, h8⟩ := State.probe_opens n hs hcount hstate hnone hroom hqueue hslots hu.symm
      have hkept := State.transactionEnds_kept (.refl s) (.shelf n) .releaseAll false
      rw [← hu] at hkept
      rw [State.finish_of_kept hq hkept (by unfold State.settled; rw [hac]; exact hq.settled)]
      exact ⟨k, hk, h1, h2, h3, h4, h5, h6, h7, h8, hac⟩

section
/-! SUPPORT. Commands that write the record of one test set, and the end of such a command. -/

namespace Sys2Proof.Machine

variable {s t u : State} {n : Nat} {r : TestSet}

/-- Of the part only the record of set n and the OH's record differ, and the set's record is now r. -/
structure State.SetWritten (s t : State) (n : Nat) (r : TestSet) : Prop where
  self : t.testSet n = r
  others : ∀ k, k ≠ n → t.testSet k = s.testSet k
  rest : ({ t with core := { t.core with sets := s.core.sets, oh := s.core.oh } } : State) = s

theorem State.SetWritten.ac (h : State.SetWritten s t n r) : t.ac = s.ac := (congrArg State.ac h.rest :)

theorem State.SetWritten.ms (h : State.SetWritten s t n r) : t.ms = s.ms := (congrArg State.ms h.rest :)

/-- The step of a command that writes the record of one set. -/
theorem State.SetIs.command (h : State.SetIs s u n r) (hq : s.Quiet) {f : State → State} (he : f s = u) :
    ∃ t, s.command f = .next t ∧ State.SetWritten s t n r := by
  subst he
  have hself := h.self
  obtain ⟨⟨sets, hf⟩, hsets⟩ := h
  have hfinish : (f s).finish = (f s).refreshConditions := by
    rw [hf]
    exact State.finish_of_settled hq.ready hq.settled hq.latch
  refine ⟨_, (State.command_of_live hq.live f).trans (congrArg _ hfinish), hself, fun k hk => (hsets k).trans (if_neg hk), ?_⟩
  rw [hf]
  rfl

/-- Nothing has been written yet. -/
theorem State.SetIs.refl (s : State) (n : Nat) : State.SetIs s s n (s.testSet n) := ⟨.refl s, fun k => by split <;> simp_all⟩

theorem State.SetIs.sendLink (h : State.SetIs s t n r) (m : LinkMsg) (timed : Bool) :
    State.SetIs s (t.sendLink n m timed) n { r with sending := r.sending ++ [{ msg := m, timed := timed }] } := h.then _

theorem State.SetIs.streamOff (h : State.SetIs s t n r) :
    State.SetIs s (t.sendStream n false) n { r with stream := false, sending := r.sending ++ [{ msg := .stream false }] } :=
  (h.then fun v => { v with stream := false, expected := if false then 0 else v.expected }).sendLink _ _

/-- The set's answer timer and try are over (R54, R64). -/
def TestSet.unasked (t : TestSet) : TestSet := { t.unanswering with attempt := 0, samplesSeen := false }

theorem State.SetIs.endIdentify (h : State.SetIs s t n r) : State.SetIs s (t.endIdentify n) n r.unasked := (h.then _).then _

/-! ### Records that an ending run does not tell apart -/

theorem TestSet.Alike.refl (t : TestSet) : TestSet.Alike t t := ⟨rfl, rfl, rfl, rfl, rfl, rfl⟩

theorem TestSet.Alike.trans {t u v : TestSet} (h : TestSet.Alike t u) (k : TestSet.Alike u v) : TestSet.Alike t v :=
  ⟨k.state.trans h.state, k.tag.trans h.tag, k.stream.trans h.stream, k.agreedKinds.trans h.agreedKinds, k.agreedRate.trans h.agreedRate,
    k.msgs.trans h.msgs⟩

theorem TestSet.Alike.of_sansTicket {t u : TestSet} (h : u.sansTicket = t.sansTicket) : TestSet.Alike t u :=
  ⟨(congrArg TestSet.state h :), (congrArg TestSet.tag h :), (congrArg TestSet.stream h :), (congrArg TestSet.agreedKinds h :),
    (congrArg TestSet.agreedRate h :), (congrArg (fun v : TestSet => v.sending.map (·.msg)) h :)⟩

theorem TestSet.stopped_alike (t : TestSet) : TestSet.Alike t t.stopped := ⟨rfl, rfl, rfl, rfl, rfl, t.stopped_unsent.msgs⟩

end Sys2Proof.Machine
end

section
/-! PROOF of O44: a frame leaves a link. -/

namespace Sys2Proof.Machine

/-- A set whose oldest frame has left its link at this moment (R52). -/
def TestSet.left (t : TestSet) (f : LinkFrame) (rest : List LinkFrame) (now : Nat) : TestSet :=
  match f.timed, f.msg with
  | true, .identify => { t with sending := rest, answerDue := some (now + 100) }
  | true, .source .. => { t with sending := rest, firstTagDue := some (now + 40) }
  | _, _ => { t with sending := rest }

theorem State.linkLeaves_setIs {s : State} {n : Nat} {f : LinkFrame} {rest : List LinkFrame} (h : (s.testSet n).sending = f :: rest) :
    State.SetIs s (s.linkLeaves n) n ((s.testSet n).left f rest s.core.timeMs) := by
  have hupd := s.updTestSet_setIs n fun t =>
    match t.sending with
    | [] => t
    | f :: rest => t.left f rest s.core.timeMs
  rw [h] at hupd
  exact hupd

theorem TestSet.left_untimed (t : TestSet) {f : LinkFrame} (rest : List LinkFrame) (now : Nat)
    (h : f.timed = false ∨ (∃ on, f.msg = .stream on) ∨ ∃ r k, f.msg = .agree r k) : t.left f rest now = { t with sending := rest } := by
  obtain ⟨msg, timed⟩ := f
  rcases h with rfl | ⟨on, rfl⟩ | ⟨r, k, rfl⟩
  · rfl
  · cases timed <;> rfl
  · cases timed <;> rfl

end Sys2Proof.Machine

open Sys2Proof Sys2Proof.Machine in
/-- Settles O44: the frame leaves the record of its set, and what it is decides the timer. -/
theorem linkFrameStartsItsTimer : Obligations.LinkFrameStartsItsTimer := by
  intro n f rest s hq hsending
  obtain ⟨t, hexec, hself, hothers, hrest⟩ := (State.linkLeaves_setIs hsending).command hq (f := (State.linkLeaves · n.val)) rfl
  refine ⟨t, hexec, fun ht hm => ?_, fun tag p m l sl r c ht hm => ?_, fun h => hself.trans (TestSet.left_untimed _ rest _ h), hothers, hrest⟩
  · rw [hself, TestSet.left, ht, hm]
  · rw [hself, TestSet.left, ht, hm]
end

section
/-! PROOF of O48: a SILENT set is probed. -/

namespace Sys2Proof.Machine

variable {s : State} {n due : Nat}

/-- The probe timer of a SILENT set that falls due (R64). -/
theorem State.setProbeDue_eq (hst : (s.testSet n).state = .silent) (hp : (s.testSet n).probeDue = some due) (hd : due ≤ s.core.timeMs) :
    s.setProbeDue n = if (s.testSet n).attempt = 0 then s.probeSet n else s.updTestSet n fun x => { x with probeDue := some (due + 5000) } := by
  unfold State.setProbeDue
  rw [hp]
  exact if_pos ⟨hd, hst⟩

end Sys2Proof.Machine

open Sys2Proof Sys2Proof.Machine in
/-- Settles O48: each of the three commands writes the record of the set alone. -/
theorem silentSetIsProbed : Obligations.SilentSetIsProbed := by
  intro n due s hq hst hd
  refine ⟨fun hp ha => ?_, fun hp ha => ?_, fun ha => ?_⟩
  · have heq : s.setProbeDue n.val = s.probeSet n.val := (State.setProbeDue_eq hst hp hd).trans (if_pos ha)
    obtain ⟨t, hexec, hself, hothers, hrest⟩ := (s.probeSet_setIs n.val).command hq (f := (State.setProbeDue · n.val)) heq
    refine ⟨t, hexec, ?_, hothers, hrest⟩
    simp [hself, TestSet.asked]
  · have heq : s.setProbeDue n.val = s.updTestSet n.val fun x => { x with probeDue := some (due + 5000) } :=
      (State.setProbeDue_eq hst hp hd).trans (if_neg ha)
    obtain ⟨t, hexec, hself, hothers, hrest⟩ := (s.updTestSet_setIs n.val _).command hq (f := (State.setProbeDue · n.val)) heq
    exact ⟨t, hexec, hself, hothers, hrest⟩
  · have hdue : s.due (s.testSet n.val).answerDue = true := by rw [ha]; exact decide_eq_true hd
    obtain ⟨t, hexec, hself, hothers, hrest⟩ := (State.SetIs.refl s n.val).endIdentify.streamOff.command hq (f := fun s =>
      if (s.testSet n.val).state = .silent ∧ s.due (s.testSet n.val).answerDue = true then
        (s.endIdentify n.val).sendStream n.val false
      else s) (if_pos ⟨hst, hdue⟩)
    refine ⟨t, hexec, ?_, ?_, ?_, ?_, ?_, hothers, hrest⟩
    · rw [hself]; exact hst
    · rw [hself]; rfl
    · rw [hself]; rfl
    · rw [hself]
    · rw [hself, List.map_append]
      exact congrArg (· ++ _) (s.testSet n.val).unanswering_msgs
end

section
/-! SUPPORT. What a found set agrees (R54, R55), up to the end of the command. -/

namespace Sys2Proof.Machine

variable {s₀ s t u w : State} {n b : Nat} {r : TestSet}

/-! ### The agreed rate (R55) -/

/-- The rate is in the set. -/
def RateSet.has (r : RateSet) : Rate → Bool
  | .r1000 => r.r1000
  | .r500 => r.r500
  | .r250 => r.r250

theorem RateSet.isNone_iff {r : RateSet} : r.isNone = true ↔ r = { r1000 := false, r500 := false, r250 := false } := by
  obtain ⟨a, b, c⟩ := r
  simp [RateSet.isNone, and_assoc]

/-- The rate agreed is offered; not above the maximum rate it is the highest such offered, and above it the lowest offered. -/
theorem agreedRateOf_spec (greatest : Rate) {r : RateSet} (h : r.isNone = false) :
    r.has (agreedRateOf greatest r) = true
      ∧ ((agreedRateOf greatest r).perSecond ≤ greatest.perSecond →
          ∀ q, r.has q = true → q.perSecond ≤ greatest.perSecond → q.perSecond ≤ (agreedRateOf greatest r).perSecond)
      ∧ (greatest.perSecond < (agreedRateOf greatest r).perSecond →
          ∀ q, r.has q = true → (agreedRateOf greatest r).perSecond ≤ q.perSecond) := by
  obtain ⟨a, b, c⟩ := r
  have hall (p : Rate → Prop) : (∀ q, p q) ↔ p .r1000 ∧ p .r500 ∧ p .r250 :=
    ⟨fun hp => ⟨hp _, hp _, hp _⟩, fun ⟨h1, h2, h3⟩ q => by cases q <;> assumption⟩
  simp only [hall]
  revert a b c
  cases greatest <;> decide

/-! ### The record of a set that agrees -/

/-- A set that has agreed on offers of these kinds and rates (R54, R55). -/
def TestSet.agreeing (t : TestSet) (p : Params) (type : SetType) (kinds : KindSet) (rates : RateSet) : TestSet :=
  { t with
    state := .ready, type := some type, offeredKinds := some kinds, offeredRates := some rates
    agreedKinds := some (kinds.inter p.enabledKinds), agreedRate := some (agreedRateOf p.maximumRate rates)
    failures := 0, probeDue := none, stream := false
    sending := (match type with
        | .full => t.sending ++ [{ msg := .agree (agreedRateOf p.maximumRate rates) (kinds.inter p.enabledKinds) }]
        | .basic => t.sending)
      ++ (if t.stream then [{ msg := .stream false }] else []) }

/-- Set n has gone READY with this record, but for its ticket; a grant walk is owed, and runs and slots stand. -/
structure State.Readied (s t : State) (n : Nat) (r : TestSet) : Prop where
  testSet : (t.testSet n).sansTicket = r.sansTicket
  ms : t.ms = s.ms
  slot : ∀ b, t.slot b = s.slot b

theorem State.SetIs.goReady (h : State.SetIs s t n r) :
    State.Readied s (t.goReady n) n { r with state := .ready, failures := 0, probeDue := none } := by
  have hset := h.then fun v => { v with state := .ready, failures := 0, probeDue := none }
  have hself := hset.self
  obtain ⟨⟨_, honly⟩, -⟩ := hset
  unfold State.goReady
  dsimp only
  generalize t.updTestSet n (fun v => { v with state := .ready, failures := 0, probeDue := none }) = v at *
  split
  · refine ⟨?_, by rw [honly]; rfl, fun b => by rw [honly]; rfl⟩
    rw [← hself]
    exact (Core.recovered_work (.refl v.core) .testSet n).testSet n
  · exact ⟨congrArg _ hself, by rw [honly]; rfl, fun b => by rw [honly]; rfl⟩

/-- The stream is turned off if it was on. -/
theorem State.SetIs.restStream (h : State.SetIs s t n r) :
    State.SetIs s (if (t.testSet n).stream then t.sendStream n false else t) n
      { r with stream := false, sending := r.sending ++ if r.stream then [{ msg := .stream false }] else [] } := by
  rw [h.self]
  cases hon : r.stream with
  | true => exact h.streamOff
  | false =>
    have hsame : { r with stream := false, sending := r.sending ++ [] } = r := by rw [← hon, List.append_nil]
    rw [if_neg Bool.false_ne_true, if_neg Bool.false_ne_true, hsame]
    exact h

theorem State.agree_readied (s : State) (n : Nat) (type : SetType) (kinds : KindSet) (rates : RateSet) :
    State.Readied s (s.agree n type kinds rates) n ((s.testSet n).agreeing s.params type kinds rates) := by
  have hagreed := (State.SetIs.refl s n).then fun t =>
    { t with
      type := some type, offeredKinds := some kinds, offeredRates := some rates
      agreedKinds := some (kinds.inter s.params.enabledKinds), agreedRate := some (agreedRateOf s.params.maximumRate rates) }
  cases type with
  | full => exact (hagreed.sendLink _ _).restStream.goReady
  | basic => exact hagreed.restStream.goReady

/-- The end of a command in which a set has gone READY: grants spare the set, the runs and the slots that are not FREE. -/
theorem State.Readied.finish (h : State.Readied s u n r) (hq : s₀.Quiet) (hk : State.Kept s₀ u) :
    (u.finish.testSet n).sansTicket = r.sansTicket ∧ u.finish.ms = s.ms ∧ ∀ b, (s.slot b).state ≠ .free → u.finish.slot b = s.slot b := by
  have hwork : State.OfferWork u u.settle.refreshConditions := State.updOh_offerWork (State.settle_offerWork (.refl u)) _
  rw [State.finish_of_ready (hk.core.oh.ready.trans hq.ready) (hk.latch.trans hq.latch)]
  exact ⟨(hwork.testSet n).trans h.testSet, hwork.ms.trans h.ms, fun b hb => (hwork.slot b (by rwa [h.slot])).trans (h.slot b)⟩

/-- An enumeration is over (R54). -/
def TestSet.enumerated (t : TestSet) : TestSet :=
  { t.unasked with stream := false, expected := 0, sending := t.unasked.sending ++ [{ msg := .stream false }] }

theorem State.endEnumeration_setIs (s : State) (n : Nat) : State.SetIs s (s.endEnumeration n) n (s.testSet n).enumerated :=
  (State.SetIs.refl s n).endIdentify.streamOff.then _

theorem TestSet.enumerated_msgs (t : TestSet) : t.enumerated.sending.map (·.msg) = t.sending.map (·.msg) ++ [.stream false] := by
  rw [← t.unanswering_msgs]
  exact List.map_append

end Sys2Proof.Machine
end

section
/-! PROOF of O47: an IDENTIFY that is not answered. -/

namespace Sys2Proof.Machine

variable {s : State} {n due : Nat}

/-- IDENTIFY is sent once more (R53). -/
theorem State.identifyExpires_repeats (h : (s.testSet n).attempt < 3) :
    State.SetIs s (s.identifyExpires n) n
      { (s.testSet n).unanswering with
        sending := (s.testSet n).unanswering.sending ++ [{ msg := .identify, timed := true }]
        attempt := satSucc 3 (s.testSet n).attempt } := by
  unfold State.identifyExpires
  rw [if_pos h]
  exact ((s.updTestSet_setIs n TestSet.unanswering).sendLink _ _).then _

/-- No sample has been seen either: the set is ABSENT (R54). -/
theorem State.identifyExpires_absent (h : 3 ≤ (s.testSet n).attempt) (hseen : (s.testSet n).samplesSeen = false) :
    State.SetIs s (s.identifyExpires n) n
      { (s.testSet n).enumerated with
        state := .absent, type := none, offeredKinds := none, offeredRates := none, agreedKinds := none, agreedRate := none
        failures := 0 } := by
  unfold State.identifyExpires State.unanswered
  rw [if_neg (Nat.not_lt.mpr h), hseen]
  exact (s.endEnumeration_setIs n).then _

/-- Samples have been seen: the set is BASIC (R54). -/
theorem State.identifyExpires_basic (h : 3 ≤ (s.testSet n).attempt) (hseen : (s.testSet n).samplesSeen = true) :
    s.identifyExpires n = (s.endEnumeration n).agree n .basic basicKinds basicRates := by
  unfold State.identifyExpires State.unanswered
  rw [if_neg (Nat.not_lt.mpr h)]
  exact if_pos hseen

/-- The one rate of a BASIC set is the lowest offered. -/
theorem agreedRateOf_basic (greatest : Rate) : agreedRateOf greatest basicRates = .r250 := by cases greatest <;> rfl

end Sys2Proof.Machine

open Sys2Proof Sys2Proof.Machine in
/-- Settles O47: by the try that has expired, and at the third by whether samples have been seen. -/
theorem unansweredIdentifyIsRepeated : Obligations.UnansweredIdentifyIsRepeated := by
  intro n due s hq hst ha hd
  have hdue : s.due (s.testSet n.val).answerDue = true := by rw [ha]; exact decide_eq_true hd
  have hexpires : (if (s.testSet n.val).state = .probing ∧ s.due (s.testSet n.val).answerDue = true then s.identifyExpires n.val else s)
      = s.identifyExpires n.val := if_pos ⟨hst, hdue⟩
  by_cases hlow : (s.testSet n.val).attempt < 3
  · obtain ⟨t, hexec, hw⟩ := (State.identifyExpires_repeats hlow).command hq (f := fun s =>
      if (s.testSet n.val).state = .probing ∧ s.due (s.testSet n.val).answerDue = true then s.identifyExpires n.val else s) hexpires
    refine ⟨t, hexec, fun _ => ⟨?_, ?_, ?_, hw.ac, hw.ms, ?_⟩, fun h3 => absurd hlow (by omega), fun h3 => absurd hlow (by omega)⟩
    · rw [hw.self]; exact hst
    · rw [hw.self]; rfl
    · rw [hw.self]; exact satSucc_of_lt hlow
    · rw [hw.self, List.map_append, TestSet.unanswering_msgs]; rfl
  · have h3 : 3 ≤ (s.testSet n.val).attempt := Nat.not_lt.mp hlow
    cases hseen : (s.testSet n.val).samplesSeen with
    | false =>
      obtain ⟨t, hexec, hw⟩ := (State.identifyExpires_absent h3 hseen).command hq (f := fun s =>
        if (s.testSet n.val).state = .probing ∧ s.due (s.testSet n.val).answerDue = true then s.identifyExpires n.val else s) hexpires
      refine ⟨t, hexec, fun h => absurd h hlow, fun _ _ => ?_, fun _ h => nomatch h⟩
      rw [hw.self]
      exact ⟨rfl, rfl, rfl, rfl, rfl, hw.ac, hw.ms⟩
    | true =>
      have hbasic := State.identifyExpires_basic h3 hseen
      have hkept := State.identifyExpires_kept (.refl s) n.val
      have hagreed := (s.endEnumeration n.val).agree_readied n.val .basic basicKinds basicRates
      have hparams : (s.endEnumeration n.val).params = s.params := by
        obtain ⟨⟨_, h⟩, -⟩ := s.endEnumeration_setIs n.val
        rw [h]
        rfl
      rw [← hbasic, hparams] at hagreed
      obtain ⟨hset, -, -⟩ := hagreed.finish hq hkept
      have hexec : exec (.identifyAnswerTimeout n) s = .next (s.identifyExpires n.val).finish :=
        (State.command_of_live hq.live _).trans (by rw [hexpires])
      refine ⟨_, hexec, fun h => absurd h hlow, fun _ h => absurd h (by decide), fun _ _ => ⟨(congrArg TestSet.state hset :),
        (congrArg TestSet.type hset :), ?_, (congrArg TestSet.agreedKinds hset :), (congrArg TestSet.stream hset :)⟩⟩
      exact (congrArg TestSet.agreedRate hset).trans (congrArg some (agreedRateOf_basic _))
end

section
/-! PROOF of O45: an IDENTITY is taken. -/

namespace Sys2Proof.Machine

variable {s t u : State} {n b : Nat} {kinds : KindSet} {rates : RateSet} {octets : Octets}

/-! ### A set that restarts under the part (R47, R57) -/

/-- Closing a run sends nothing to a set that is not READY (R82). -/
theorem State.closeRun_alike (h : (s.testSet b).state ≠ .ready) (o : RunOutcome) :
    TestSet.Alike (s.testSet b) ((s.closeRun b o).testSet b) := by
  cases hx : s.run b with
  | none =>
    have hclose : s.closeRun b o = s.setRun b none := by unfold State.closeRun; rw [hx]
    rw [hclose]
    exact .refl _
  | some x =>
    cases hr : (s.slot b).request with
    | none =>
      have hclose : s.closeRun b o = s.setRun b none := by unfold State.closeRun; rw [hx, hr]
      rw [hclose]
      exact .refl _
    | some r =>
      have hrest : (s.testSet b).restarted = (s.testSet b).stopped := if_neg h
      exact (s.testSet b).stopped_alike.trans (.of_sansTicket (hrest ▸ State.closeRun_testSet hx hr o))

theorem State.endRunEarly_alike (h : (s.testSet b).state ≠ .ready) (o : RunOutcome) :
    TestSet.Alike (s.testSet b) ((s.endRunEarly b o).testSet b) := by
  unfold State.endRunEarly
  dsimp only
  split
  · exact State.closeRun_alike (s := s.setPendingRun b none) h o
  · exact .refl _

/-- What the access of slot b comes to as its set restarts: no run is left, and a slot with a run that does not KEEP releases. -/
structure State.AccessRestarted (s t : State) (b : Nat) : Prop where
  testSet : TestSet.Alike (s.testSet b) (t.testSet b)
  run : t.run b = none
  pendingRun : t.pendingRun b = none
  stands : ∀ r, (s.slot b).request = some r → (s.run b = none ∨ r.keep = true) → t.slot b = s.slot b
  releases : ∀ r, (s.slot b).request = some r → (s.run b).isSome = true → r.keep = false →
    (t.slot b).state = .releasing ∧ (t.slot b).cause = some .equipment ∧ (t.slot b).request = some r

theorem State.setRestarted_idle (h : s.run b = none) : s.setRestarted b = s.setPendingRun b none :=
  if_neg (by simp [State.running, h])

theorem State.setRestarted_running (h : (s.run b).isSome = true) : s.setRestarted b =
    if s.keeps b then s.endRunEarly b .equipment else ((s.endRunEarly b .equipment).markEnded b).beginRelease b .equipment := by
  have hkeeps : (s.endRunEarly b .equipment).keeps b = s.keeps b := by
    unfold State.keeps
    rw [(State.endRunEarly_runWork (.refl s) b .equipment).slot]
  rw [← hkeeps]
  exact if_pos h

theorem State.setRestarted_access (hb : b ∈ slotNumbers) (hset : (s.testSet b).state ≠ .ready) :
    State.AccessRestarted s (s.setRestarted b) b := by
  have hkeeps (r : Request) (hr : (s.slot b).request = some r) : s.keeps b = r.keep := by
    unfold State.keeps
    rw [hr]
    rfl
  cases hrun : s.run b with
  | none =>
    rw [State.setRestarted_idle hrun]
    exact ⟨.refl _, hrun, (s.pendingRun_setPendingRun b b none).trans (if_pos rfl), fun _ _ _ => rfl,
      fun r _ h _ => by rw [hrun] at h; exact nomatch h⟩
  | some x =>
    have hearly := State.endRunEarly_runWork (.refl s) b .equipment
    have halike := State.endRunEarly_alike hset .equipment
    obtain ⟨hnorun, hnopend⟩ := s.endRunEarly_runs b .equipment
    rw [State.setRestarted_running (by rw [hrun]; rfl)]
    generalize s.endRunEarly b .equipment = w at *
    cases hk : s.keeps b with
    | true =>
      refine ⟨halike, hnorun, hnopend, fun _ _ _ => hearly.slot b, fun r hr _ hkeep => ?_⟩
      rw [← hkeeps r hr, hk] at hkeep
      exact nomatch hkeep
    | false =>
      obtain ⟨e, hslot⟩ := ((hearly.ended b).trans (w.markEnded_ended b)).release_slot hb .equipment b
      rw [if_pos rfl] at hslot
      have hms : ((w.markEnded b).beginRelease b .equipment).ms = w.ms := State.beginRelease_ms ..
      have hcore : ((w.markEnded b).beginRelease b .equipment).core = w.core := State.beginRelease_core ..
      rw [if_neg Bool.false_ne_true]
      refine ⟨?_, ?_, ?_, fun r hr h => ?_, fun r hr _ _ => ?_⟩
      · unfold State.testSet
        rw [hcore]
        exact halike
      · unfold State.run
        rw [hms]
        exact hnorun
      · unfold State.pendingRun
        rw [hms]
        exact hnopend
      · rw [← hkeeps r hr, hk, hrun] at h
        simp at h
      · rw [hslot]
        exact ⟨rfl, rfl, hr⟩

/-! ### The set as it is found (R54, R57, R64) -/

/-- What ends as an IDENTITY finds a set, before the agreement. -/
def State.found (s : State) (n : Nat) : State :=
  match (s.testSet n).state with
  | .disabled | .absent => s
  | .probing => s.endEnumeration n
  | .ready => s.restartSet n
  | .silent => (s.updTestSet n fun t => { t with probeDue := none }).endIdentify n

theorem State.identity_eq (h : (s.testSet n).state ≠ .disabled) (kinds : KindSet) (rates : RateSet) :
    s.identity n kinds rates = (s.found n).agree n .full kinds rates := by
  unfold State.identity State.found
  cases hst : (s.testSet n).state with
  | disabled => exact absurd hst h
  | absent | probing | ready | silent => rfl

/-- The record of a set that has been found, by its state before. -/
structure TestSet.Found (t u : TestSet) : Prop where
  tag : u.tag = t.tag
  stream : u.stream = if t.state = .probing then false else t.stream
  msgs : u.sending.map (·.msg) = t.sending.map (·.msg) ++ if t.state = .probing then [.stream false] else []
  probing : t.state = .probing → u.expected = 0 ∧ u.attempt = 0 ∧ u.samplesSeen = false ∧ u.answerDue = none
  silent : t.state = .silent → u.attempt = 0 ∧ u.answerDue = none

/-- A set of another state that is found as it was. -/
theorem TestSet.Found.of_alike {t u v : TestSet} (h : TestSet.Alike v u) (htag : v.tag = t.tag) (hstream : v.stream = t.stream)
    (hmsgs : v.sending.map (·.msg) = t.sending.map (·.msg)) (hp : t.state ≠ .probing) (hs : t.state ≠ .silent) : TestSet.Found t u where
  tag := h.tag.trans htag
  stream := by rw [if_neg hp, h.stream, hstream]
  msgs := by rw [if_neg hp, h.msgs, hmsgs, List.append_nil]
  probing := fun e => absurd e hp
  silent := fun e => absurd e hs

theorem State.restartSet_access (hn : n ∈ slotNumbers) :
    State.AccessRestarted (s.updTestSet n fun t => { t with state := .probing }) (s.restartSet n) n :=
  State.setRestarted_access hn (by rw [State.testSet_updTestSet, if_pos rfl]; exact nofun)

theorem State.found_set (hn : n ∈ slotNumbers) (h : (s.testSet n).state ≠ .disabled) :
    TestSet.Found (s.testSet n) ((s.found n).testSet n) := by
  unfold State.found
  cases hst : (s.testSet n).state with
  | disabled => exact absurd hst h
  | absent => exact .of_alike (.refl _) rfl rfl rfl (by rw [hst]; exact nofun) (by rw [hst]; exact nofun)
  | probing =>
    dsimp only
    rw [(s.endEnumeration_setIs n).self]
    exact ⟨rfl, (if_pos hst).symm, by rw [if_pos hst]; exact TestSet.enumerated_msgs _, fun _ => ⟨rfl, rfl, rfl, rfl⟩,
      fun e => by rw [hst] at e; exact nomatch e⟩
  | ready =>
    have halike := (State.restartSet_access (s := s) hn).testSet
    rw [State.testSet_updTestSet, if_pos rfl] at halike
    exact .of_alike halike rfl rfl rfl (by rw [hst]; exact nofun) (by rw [hst]; exact nofun)
  | silent =>
    have hp : (s.testSet n).state ≠ .probing := by rw [hst]; exact nofun
    dsimp only
    rw [((s.updTestSet_setIs n fun t => { t with probeDue := none }).endIdentify).self]
    exact ⟨rfl, (if_neg hp).symm, by rw [if_neg hp, List.append_nil]; exact TestSet.unanswering_msgs _, fun e => absurd e hp,
      fun _ => ⟨rfl, rfl⟩⟩

theorem State.found_ready (h : (s.testSet n).state = .ready) : s.found n = s.restartSet n := by
  unfold State.found
  rw [h]

theorem State.found_kept (s : State) (n : Nat) : State.Kept s (s.found n) := by
  unfold State.found
  split <;> simp (maxDischargeDepth := 20)

/-! ### An IDENTITY arrives (R52, R54) -/

theorem State.identityArrives_eq (hp : parseIdentity octets = some (kinds, rates)) :
    s.identityArrives n octets = if s.linkOpen n = true ∧ rates.isNone = false then s.identity n kinds rates else s := by
  unfold State.identityArrives
  rw [hp]

theorem State.linkOpen_iff : s.linkOpen n = true ↔ s.csi.imageAwaited = false ∧ (s.testSet n).state ≠ .disabled := by
  simp [State.linkOpen]

/-- An IDENTITY that is discarded. -/
theorem State.identityArrives_same (hp : parseIdentity octets = some (kinds, rates))
    (h : rates.isNone = true ∨ (s.testSet n).state = .disabled) : s.identityArrives n octets = s := by
  rw [State.identityArrives_eq hp]
  refine if_neg fun ⟨hopen, hnone⟩ => ?_
  rcases h with h | h
  · rw [hnone] at h
    exact nomatch h
  · exact (State.linkOpen_iff.mp hopen).2 h

/-- An IDENTITY that is taken. -/
theorem State.identityArrives_taken (hp : parseIdentity octets = some (kinds, rates)) (hi : s.csi.imageAwaited = false)
    (hr : rates.isNone = false) (h : (s.testSet n).state ≠ .disabled) :
    s.identityArrives n octets = (s.found n).agree n .full kinds rates := by
  rw [State.identityArrives_eq hp, if_pos ⟨State.linkOpen_iff.mpr ⟨hi, h⟩, hr⟩, State.identity_eq h]

/-- The frames an agreeing FULL set has been sent. -/
theorem TestSet.agreeing_msgs (t : TestSet) (p : Params) :
    (t.agreeing p .full kinds rates).sending.map (·.msg) = t.sending.map (·.msg)
      ++ (.agree (agreedRateOf p.maximumRate rates) (kinds.inter p.enabledKinds) :: if t.stream then [.stream false] else []) := by
  cases hs : t.stream <;> simp [TestSet.agreeing, hs]

end Sys2Proof.Machine

open Sys2Proof Sys2Proof.Machine in
/-- Settles O45: what ends as the set is found, then the agreement, then the grants, which spare the set. -/
theorem identityMakesASetReady : Obligations.IdentityMakesASetReady := by
  intro n octets kinds rates s hq himage hparse was
  refine ⟨fun h => State.command_of_same hq (State.identityArrives_same hparse (h.imp_left RateSet.isNone_iff.mpr)),
    fun hrates hstate => ?_⟩
  have hsome : rates.isNone = false := Bool.eq_false_iff.mpr fun h => hrates (RateSet.isNone_iff.mp h)
  have htaken := State.identityArrives_taken hparse himage hsome hstate
  have hn : n.val ∈ slotNumbers := mem_slotNumbers.mpr n.isLt
  have hfound := State.found_set hn hstate
  have hkept := s.found_kept n.val
  have hparams : (s.found n.val).params = s.params := hkept.core.oh.params
  have hagreed := (s.found n.val).agree_readied n.val .full kinds rates
  rw [hparams] at hagreed
  obtain ⟨hset, hms, hslot⟩ := hagreed.finish hq (State.agree_kept hkept n.val .full kinds rates)
  have hexec : exec (.identityReceived n octets) s = .next ((s.found n.val).agree n.val .full kinds rates).finish :=
    (State.command_of_live hq.live _).trans (by rw [htaken])
  generalize ((s.found n.val).agree n.val .full kinds rates).finish = t at *
  refine ⟨t, agreedRateOf s.params.maximumRate rates, hexec, (congrArg TestSet.state hset :), (congrArg TestSet.type hset :),
    (congrArg TestSet.offeredKinds hset :), (congrArg TestSet.offeredRates hset :), (congrArg TestSet.agreedRate hset :),
    ⟨(congrArg TestSet.agreedKinds hset :), ?_⟩, (congrArg TestSet.stream hset :), (congrArg TestSet.failures hset :),
    (congrArg TestSet.tag hset).trans hfound.tag, fun hp => ?_, fun hp => ?_, fun hready => ?_,
    agreedRateOf_spec s.params.maximumRate hsome⟩
  · refine (congrArg (fun v : TestSet => v.sending.map (·.msg)) hset).trans ((TestSet.agreeing_msgs _ _).trans ?_)
    rw [hfound.msgs, hfound.stream]
    by_cases hp : was.state = .probing
    · rw [if_pos hp, if_pos hp, if_pos hp, List.append_assoc]
      rfl
    · rw [if_neg hp, if_neg hp, if_neg hp, List.append_nil]
      split <;> rfl
  · obtain ⟨h1, h2, h3, h4⟩ := hfound.probing hp
    exact ⟨(congrArg TestSet.expected hset).trans h1, (congrArg TestSet.attempt hset).trans h2, (congrArg TestSet.samplesSeen hset).trans h3,
      (congrArg TestSet.answerDue hset).trans h4⟩
  · obtain ⟨h1, h2⟩ := hfound.silent hp
    exact ⟨(congrArg TestSet.probeDue hset :), (congrArg TestSet.attempt hset).trans h1, (congrArg TestSet.answerDue hset).trans h2⟩
  · rw [State.found_ready hready] at hms hslot
    have haccess := State.restartSet_access (s := s) hn
    refine ⟨?_, ?_, fun r hheld hr => ⟨fun h => ?_, fun hrun hkeep => ?_⟩⟩
    · unfold State.run
      rw [hms]
      exact haccess.run
    · unfold State.pendingRun
      rw [hms]
      exact haccess.pendingRun
    · have hstands : (s.restartSet n.val).slot n.val = s.slot n.val := haccess.stands r hr h
      exact (hslot n.val (by rw [hstands, hheld]; exact nofun)).trans hstands
    · have hreleases := haccess.releases r hr hrun hkeep
      rw [hslot n.val (by rw [hreleases.1]; exact nofun)]
      exact hreleases
end

section
/-! SUPPORT and PROOF of O50: a SAMPLE on its way to the run of its set (R60, R77, R78). -/

namespace Sys2Proof.Machine

variable {s t u v w : State} {n b : Nat} {x : Sample} {octets : Octets} {was r : Run} {p : Programme} {st : Step}

/-! ### The TLC takes a SAMPLE (R60, R61) -/

/-- A set as a SAMPLE of this index comes: the next is expected, and a sample timeout that runs restarts. -/
def TestSet.indexed (t : TestSet) (index now : Nat) : TestSet :=
  { t with
    expected := (index + 1) % 256
    sampleDue := if t.sampleDue.isSome then some (now + 40) else t.sampleDue }

/-- A set whose sample is delivered to a run, in APPLY or after it. -/
def TestSet.heard (t : TestSet) (index now : Nat) (applying : Bool) : TestSet :=
  if applying then { { t.indexed index now with failures := 0 }.stopped with sampleDue := some (now + 40) }
  else { t.indexed index now with failures := 0 }

/-- The state as a SAMPLE comes. -/
def State.indexed (s : State) (n : Nat) (x : Sample) : State :=
  (s.updTestSet n fun t => { t with expected := (x.index + 1) % 256 }).restartSampleTimeout n

theorem State.indexed_setIs (s : State) (n : Nat) (x : Sample) :
    State.SetIs s (s.indexed n x) n ((s.testSet n).indexed x.index s.core.timeMs) := by
  have h := (s.updTestSet_setIs n fun t => { t with expected := (x.index + 1) % 256 }).then fun t =>
    if t.sampleDue.isSome then { t with sampleDue := some (s.core.timeMs + 40) } else t
  have hsame : (s.testSet n).indexed x.index s.core.timeMs =
      if (s.testSet n).sampleDue.isSome then
        { s.testSet n with expected := (x.index + 1) % 256, sampleDue := some (s.core.timeMs + 40) }
      else { s.testSet n with expected := (x.index + 1) % 256 } := by
    unfold TestSet.indexed
    split <;> rfl
  rw [hsame]
  exact h

/-- The state as a SAMPLE is handed to the MS. -/
def State.heard (s : State) (n : Nat) (x : Sample) : State :=
  let s := (s.indexed n x).updTestSet n fun t => { t with failures := 0 }
  if (s.run n).map (·.phase) = some .apply then
    (s.stopStepTimers n).updTestSet n fun t => { t with sampleDue := some (s.after 40) }
  else s

theorem State.heard_setIs (s : State) (n : Nat) (x : Sample) :
    State.SetIs s (s.heard n x) n
      ((s.testSet n).heard x.index s.core.timeMs (decide ((s.run n).map (·.phase) = some .apply))) := by
  have h := (s.indexed_setIs n x).then fun t => { t with failures := 0 }
  have hrun : ((s.indexed n x).updTestSet n fun t => { t with failures := 0 }).run n = s.run n := rfl
  unfold State.heard TestSet.heard
  dsimp only
  rw [hrun]
  by_cases ha : (s.run n).map (·.phase) = some .apply
  · rw [if_pos ha, if_pos (decide_eq_true ha)]
    exact (h.then _).then _
  · rw [if_neg ha, if_neg (by simpa using ha)]
    exact h

/-- A SAMPLE on a READY set. -/
theorem State.sampleArrives_ready (hp : parseSample octets = some x) (hi : s.csi.imageAwaited = false) (h : (s.testSet n).state = .ready) :
    s.sampleArrives n octets = if x.tag = (s.testSet n).tag ∧ s.running n = true then
        (s.heard n x).deliver n x (sampleGap x.index (s.testSet n).expected)
      else s.indexed n x := by
  have htag : ((s.indexed n x).testSet n).tag = (s.testSet n).tag := by rw [(s.indexed_setIs n x).self]; rfl
  have hopen : s.linkOpen n = true := State.linkOpen_iff.mpr ⟨hi, by rw [h]; exact nofun⟩
  unfold State.sampleArrives State.sample
  simp only [hp, hopen, h, if_true]
  rw [← htag]
  rfl

/-! ### The sample reaches the run -/

/-- The sample x of set b has been handed to the MS, and the run of bus b is now r: of the part only sets and runs differ, and of the set
nothing that a run reads but the failure count. -/
structure State.Heard (b : Nat) (x : Sample) (s t : State) (r : Run) : Prop where
  only : ∃ sets runs, t = { s with core := { s.core with sets := sets }, ms := { s.ms with runs := runs } }
  run : t.run b = some r
  others : ∀ k, k ≠ b → t.run k = s.run k
  alike : TestSet.Alike (s.testSet b) (t.testSet b)
  range : (t.testSet b).range = (s.testSet b).range
  expected : (t.testSet b).expected = (x.index + 1) % 256
  failures : (t.testSet b).failures = 0

theorem State.heard_heard (h : s.run b = some was) (x : Sample) : State.Heard b x s (s.heard b x) was := by
  have hset := s.heard_setIs b x
  have hself := hset.self
  obtain ⟨⟨sets, ht⟩, -⟩ := hset
  have hall : TestSet.Alike (s.testSet b) ((s.heard b x).testSet b) ∧ ((s.heard b x).testSet b).range = (s.testSet b).range
      ∧ ((s.heard b x).testSet b).expected = (x.index + 1) % 256 ∧ ((s.heard b x).testSet b).failures = 0 := by
    rw [hself]
    unfold TestSet.heard
    split
    · exact ⟨⟨rfl, rfl, rfl, rfl, rfl, (s.testSet b).stopped_unsent.msgs⟩, rfl, rfl, rfl⟩
    · exact ⟨⟨rfl, rfl, rfl, rfl, rfl, rfl⟩, rfl, rfl, rfl⟩
  obtain ⟨h1, h2, h3, h4⟩ := hall
  refine ⟨?_, ?_, ?_, h1, h2, h3, h4⟩
  · rw [ht]
    exact ⟨_, _, rfl⟩
  · rw [ht]
    exact h
  · rw [ht]
    exact fun _ _ => rfl

/-- The run is changed. -/
theorem State.Heard.updRun (h : State.Heard b x s t r) (f : Run → Run) : State.Heard b x s (t.updRun b f) (f r) where
  only := by
    obtain ⟨_, _, rfl⟩ := h.only
    exact ⟨_, _, rfl⟩
  run := by
    rw [State.run_updRun, if_pos rfl, h.run]
    rfl
  others k hk := by
    rw [State.run_updRun, if_neg hk]
    exact h.others k hk
  alike := h.alike
  range := h.range
  expected := h.expected
  failures := h.failures

/-- The other blocks, the RESULTs, the lines and the tickets stand. -/
theorem State.Heard.stands (h : State.Heard b x s t r) :
    t.ms.results = s.ms.results ∧ t.ac = s.ac ∧ t.core.lines = s.core.lines ∧ t.core.tc = s.core.tc := by
  obtain ⟨_, _, rfl⟩ := h.only
  exact ⟨rfl, rfl, rfl, rfl⟩

theorem State.Heard.settled (h : State.Heard b x s t r) (hs : s.settled) : t.settled := by
  unfold State.settled
  rw [h.stands.2.1]
  exact hs

theorem State.Heard.timeMs (h : State.Heard b x s t r) : t.core.timeMs = s.core.timeMs := by
  obtain ⟨_, _, rfl⟩ := h.only
  rfl

theorem State.Heard.runAlike (h : State.Heard b x s t r) : State.RunAlike b s t := by
  have halike := h.alike
  obtain ⟨_, _, rfl⟩ := h.only
  exact ⟨⟨_, _, rfl⟩, ⟨_, rfl⟩, rfl, fun _ => rfl, rfl, halike⟩

theorem State.stepUnderWay_of (h : s.run b = some r) (hp : s.ms.programme r.programme = some p) (hst : s.ms.stepOf p r.step = some st) :
    s.stepUnderWay b = some (r, p, st) := by
  unfold State.stepUnderWay
  simp only [h, hp, hst, Option.map_some]

/-- The step under way is that of the run the sample has reached. -/
theorem State.Heard.stepUnderWay (h : State.Heard b x s t r) (hw : s.stepUnderWay b = some (was, p, st)) (hp : r.programme = was.programme)
    (hk : r.step = was.step) : t.stepUnderWay b = some (r, p, st) := by
  obtain ⟨-, hprog, hstep⟩ := State.stepUnderWay_some hw
  have hrun := h.run
  obtain ⟨_, _, rfl⟩ := h.only
  exact State.stepUnderWay_of hrun (by rw [hp]; exact hprog) (by rw [hk]; exact hstep)

/-- SETTLE ends for the run, at its settle end or with the sample itself. -/
theorem State.settleEnds_eq {due : Nat} (hr : s.run b = some r) (hph : r.phase = .settle) (he : r.settleEnd = some due)
    (hd : due ≤ s.core.timeMs) : s.settleEnds b = s.updRun b Run.enterAcquire := by
  have hdue : s.due r.settleEnd = true := by rw [he]; exact decide_eq_true hd
  unfold State.settleEnds
  simp only [hr]
  exact if_pos ⟨hph, hdue⟩

/-- A sample that ends APPLY of a step with a settle time (R77). -/
theorem State.deliver_applies (h : s.stepUnderWay b = some (r, p, st)) (hph : r.phase = .apply) (hs : 0 < st.settle) (x : Sample) (g : Nat) :
    s.deliver b x g = s.updRun b fun r => { r with phase := .settle, settleEnd := some (s.core.timeMs + st.settle) } := by
  unfold State.deliver
  simp only [h, hph]
  exact if_neg (Nat.ne_of_gt hs)

/-- A sample before the settle end (R78). -/
theorem State.deliver_settles {due : Nat} (h : s.stepUnderWay b = some (r, p, st)) (hph : r.phase = .settle) (he : r.settleEnd = some due)
    (hd : s.core.timeMs < due) (x : Sample) (g : Nat) : s.deliver b x g = s := by
  have hdue : s.due r.settleEnd = false := by rw [he]; exact decide_eq_false (Nat.not_le.mpr hd)
  unfold State.deliver
  simp only [h, hph, hdue]
  exact if_neg Bool.false_ne_true

/-- A sample that does not reach the acquisition of a step: it begins SETTLE or comes before its end. -/
theorem State.deliver_waits (hway : s.stepUnderWay b = some (r, p, st))
    (hphase : r.phase = .apply ∨ (r.phase = .settle ∧ ∃ due, r.settleEnd = some due ∧ s.core.timeMs < due))
    (hsettle : r.phase = .apply → 0 < st.settle) (g : Nat) : ∃ t, (s.heard b x).deliver b x g = t
      ∧ State.Heard b x s t (if r.phase = .apply then { r with phase := .settle, settleEnd := some (s.core.timeMs + st.settle) } else r)
      ∧ t.testSet b = (s.heard b x).testSet b := by
  obtain ⟨hr, -, -⟩ := State.stepUnderWay_some hway
  have hheard := State.heard_heard hr x
  have hv := hheard.stepUnderWay hway rfl rfl
  by_cases ha : r.phase = .apply
  · rw [if_pos ha, ← hheard.timeMs]
    exact ⟨_, State.deliver_applies hv ha (hsettle ha) x g, hheard.updRun _, rfl⟩
  · obtain ⟨hph, due, he, hd⟩ := hphase.resolve_left ha
    rw [if_neg ha]
    exact ⟨_, State.deliver_settles hv hph he (by rw [hheard.timeMs]; exact hd) x g, hheard, rfl⟩

/-- A change of runs alone at a quiet moment: the end of the command adds nothing. -/
theorem State.RunOnly.finish (h : State.RunOnly s t) (hq : s.Quiet) : t.finish = t := by
  obtain ⟨_, rfl⟩ := h
  exact State.finish_of_quiet ⟨hq.live, hq.settled, hq.latch, hq.ready, hq.conditions.1, hq.conditions.2, hq.conditions.3, hq.conditions.4⟩

/-- The step of a SAMPLE that a run takes, where it leaves nothing owed. -/
theorem exec_sampleReceived (hq : s.Quiet) {b : Fin 4} (hi : s.csi.imageAwaited = false) (hready : (s.testSet b.val).state = .ready)
    (hp : parseSample octets = some x) (htag : x.tag = (s.testSet b.val).tag) (hrun : s.run b.val = some r)
    (ht : (s.heard b.val x).deliver b.val x (sampleGap x.index (s.testSet b.val).expected) = t) (hs : t.settled) :
    exec (.sampleReceived b octets) s = .next t.refreshConditions := by
  have harrives : s.sampleArrives b.val octets = t := by
    rw [State.sampleArrives_ready hp hi hready, if_pos ⟨htag, by rw [State.running, hrun]; rfl⟩, ht]
  have hkept := s.sampleArrives_kept b.val octets
  subst harrives
  exact State.command_of_kept hq (f := (State.sampleArrives · b.val octets)) hkept hs

end Sys2Proof.Machine

open Sys2Proof Sys2Proof.Machine in
/-- Settles O50: a sample that begins or awaits the settle end, and the settle end. -/
theorem settleEndBeginsAcquisition : Obligations.SettleEndBeginsAcquisition := by
  refine ⟨fun b octets x r p st s hq hi hready hp htag hway hphase hsettle => ?_, fun b r due s hq hr hph he hd => ?_⟩
  · obtain ⟨hr, -, -⟩ := State.stepUnderWay_some hway
    obtain ⟨t, hdeliver, hheard, hsame⟩ := State.deliver_waits (x := x) hway hphase hsettle (sampleGap x.index (s.testSet b.val).expected)
    obtain ⟨hresults, hac, hlines, -⟩ := hheard.stands
    refine ⟨_, exec_sampleReceived hq hi hready hp htag hr hdeliver (hheard.settled hq.settled), hheard.run, hheard.expected, hheard.failures,
      fun ha => ?_, hheard.others, hresults, hac, hlines⟩
    have hset : t.testSet b.val = (s.testSet b.val).heard x.index s.core.timeMs true := by
      rw [hsame, (s.heard_setIs b.val x).self, hr, Option.map_some, ha, decide_eq_true rfl]
    exact ⟨(congrArg TestSet.firstTagDue hset :), (congrArg TestSet.sampleDue hset :)⟩
  · have hends := State.settleEnds_eq hr hph he hd
    have honly : State.RunOnly s (s.settleEnds b.val) := by rw [hends]; exact ⟨_, rfl⟩
    have hexec : exec (.settleEnd b) s = .next (s.settleEnds b.val) :=
      (State.command_of_live hq.live _).trans (congrArg _ (honly.finish hq))
    refine ⟨_, hexec, ?_, fun k hk => ?_, ?_⟩
    · rw [hends, State.run_updRun, if_pos rfl, hr]
      rfl
    · rw [hends, State.run_updRun, if_neg hk]
    · rw [hends]
      rfl
end

section
/-! SUPPORT. A delivered sample in an acquisition, and the CHECK of a step (R78–R80, R91). -/

namespace Sys2Proof.Machine

variable {s t u v w : State} {n b : Nat} {x : Sample} {octets : Octets} {was r y : Run} {p : Programme} {st next : Step} {q : Request}

/-! ### The accumulator (R91) -/

theorem Accum.add_eq (a : Accum) (kind : Kind) (range : CurrentRange) (x : Sample) :
    a.add kind range x =
      { sv := a.sv + summedCode x.voltage
        si := a.si + x.current
        sv2 := if kind = .acv then a.sv2 + (summedCode x.voltage).natAbs ^ 2 else a.sv2
        range := range
        overI := a.overI || x.overI
        overV := if a.overV.isSome = true then a.overV else if x.overV = true then some (decide (0 ≤ x.voltage)) else none } := by
  have hsquare : (a.add kind range x).sv2 = if kind = .acv then a.sv2 + (summedCode x.voltage).natAbs ^ 2 else a.sv2 := by
    rw [pow_two]
    cases kind <;> rfl
  have hsign : (a.add kind range x).overV =
      if a.overV.isSome = true then a.overV else if x.overV = true then some (decide (0 ≤ x.voltage)) else none := by
    unfold Accum.add
    cases a.overV <;> rfl
  rw [← hsquare, ← hsign]
  rfl

/-! ### An acquisition (R78, R79) -/

/-- A sample of the acquisition reaches the run as it is in ACQUIRE. -/
theorem State.deliver_acquires (hway : s.stepUnderWay b = some (was, p, st)) (ha : s.acquires was r st) (x : Sample) (g : Nat) :
    ∃ w, State.Heard b x s w r ∧ w.stepUnderWay b = some (r, p, st) ∧ (s.heard b x).deliver b x g = w.acquire b x g := by
  obtain ⟨hr, -, -⟩ := State.stepUnderWay_some hway
  have hheard := State.heard_heard hr x
  have hv := hheard.stepUnderWay hway rfl rfl
  rcases ha with ⟨hph, rfl⟩ | ⟨hph, ⟨due, he, hd⟩, rfl⟩ | ⟨hph, hz, rfl⟩
  · refine ⟨_, hheard, hv, ?_⟩
    unfold State.deliver
    rcases hph with hph | hph <;> simp only [hv, hph]
  · have hdue : (s.heard b x).due was.settleEnd = true := by
      rw [he]
      exact decide_eq_true (by rw [hheard.timeMs]; exact hd)
    have hbegun := hheard.updRun Run.enterAcquire
    refine ⟨_, hbegun, hbegun.stepUnderWay hway rfl rfl, ?_⟩
    unfold State.deliver
    simp only [hv, hph, hdue, if_true]
  · have hbegun := (hheard.updRun fun r => { r with phase := .settle, settleEnd := some ((s.heard b x).after st.settle) }).updRun Run.enterAcquire
    have hnow : (s.heard b x).after st.settle = s.core.timeMs := by rw [hz]; exact hheard.timeMs
    rw [hnow] at hbegun
    refine ⟨_, hbegun, hbegun.stepUnderWay hway rfl rfl, ?_⟩
    unfold State.deliver
    simp only [hv, hph, hnow]
    exact if_pos hz

/-- A run with one sample more in its working accumulator. -/
def Run.counted (r : Run) (lost : Nat) (sums : Accum) : Run := { r with lost := lost, taken := r.taken + 1, working := sums }

/-- What a sample of gap g does to the acquisition of run r: `lost` and `sums` are what it brings its counts to. -/
theorem State.acquire_eq (hway : s.stepUnderWay b = some (r, p, st)) {g lost : Nat} {sums : Accum} (hlost : min 65535 (r.lost + g) = lost)
    (hsums : r.working.add st.kind (s.testSet b).range x = sums) :
    s.acquire b x g =
      if st.samples / 4 < lost then (s.updRun b fun r => { r with lost := lost }).abandon b false
      else if r.taken + 1 < st.samples then s.updRun b (·.counted lost sums)
      else if st.kind = .cap ∧ r.ramp = .up then
        ((s.updRun b (·.counted lost sums)).updRun b fun r => { r with held := some r.working }).applyStep b st .down
      else (s.updRun b (·.counted lost sums)).checkStep b := by
  subst hlost hsums
  obtain ⟨hr, -, -⟩ := State.stepUnderWay_some hway
  have hcounted : s.updRun b (·.counted (min 65535 (r.lost + g)) (r.working.add st.kind (s.testSet b).range x)) =
      s.updRun b fun r' => { r' with
        lost := min 65535 (r.lost + g), taken := r'.taken + 1, working := r'.working.add st.kind (s.testSet b).range x } := by
    unfold State.updRun
    rw [hr]
    rfl
  unfold State.acquire
  simp only [hway, hcounted]

/-! ### The down ramp begins (R79) -/

/-- A source is asked for, and the stream turned on if it was off. -/
theorem State.SetIs.askOpen {a : TestSet} (h : State.SetIs s t b a.stopped) (st : Step) (start slope : Int) :
    ∃ sent, State.SetIs s (if (!a.stream) = true then (t.askSource b st start slope).sendStream b true else t.askSource b st start slope) b sent
      ∧ TestSet.Asked a sent := by
  obtain ⟨f, range, hask⟩ := State.askSource_setIs h st start slope
  cases hon : a.stream with
  | true => exact ⟨_, hask, rfl, rfl, rfl, rfl, rfl, hon, rfl, rfl⟩
  | false => exact ⟨_, (hask.then _).then _, rfl, rfl, rfl, rfl, rfl, rfl, rfl, rfl⟩

/-- The step enters APPLY on its down ramp, and keeps the held accumulator (R77). -/
theorem State.applyStep_down (hr : s.run b = some r) (st : Step) :
    State.StepApplied b s (s.applyStep b st .down) { r.applying .down (!(s.testSet b).stream) with held := r.held } := by
  have hstop : State.SetIs s (s.stopStepTimers b) b (s.testSet b).stopped := s.updTestSet_setIs b _
  have hstream : ((s.stopStepTimers b).testSet b).stream = (s.testSet b).stream := by rw [hstop.self]; rfl
  obtain ⟨sent, hset, hasked⟩ := hstop.askOpen st (st.rampStart ((s.stopStepTimers b).period b) false) (-(st.slope : Int))
  have happly : s.applyStep b st .down =
      (if (!((s.stopStepTimers b).testSet b).stream) = true then
        ((s.stopStepTimers b).askSource b st (st.rampStart ((s.stopStepTimers b).period b) false) (-(st.slope : Int))).sendStream b true
      else (s.stopStepTimers b).askSource b st (st.rampStart ((s.stopStepTimers b).period b) false) (-(st.slope : Int))).updRun b
        fun r => { r.applying .down (!((s.stopStepTimers b).testSet b).stream) with held := r.held } := rfl
  rw [happly, hstream]
  generalize (if (!(s.testSet b).stream) = true then
    ((s.stopStepTimers b).askSource b st (st.rampStart ((s.stopStepTimers b).period b) false) (-(st.slope : Int))).sendStream b true
    else (s.stopStepTimers b).askSource b st (st.rampStart ((s.stopStepTimers b).period b) false) (-(st.slope : Int))) = z at *
  obtain ⟨⟨sets, hz⟩, hsets⟩ := hset
  have hself : z.testSet b = sent := (hsets b).trans (if_pos rfl)
  refine ⟨by rw [hz]; exact ⟨_, _, rfl⟩, ?_, hself ▸ hasked, fun k hk => (hsets k).trans (if_neg hk)⟩
  have hrun : z.run b = some r := by rw [hz]; exact hr
  rw [State.run_updRun, if_pos rfl, hrun]
  rfl

/-- What a step that enters APPLY leaves of the part the sample has come to. -/
theorem State.StepApplied.stands (ha : State.StepApplied b w t y) (h : State.Heard b x s w r) :
    t.ms.results = s.ms.results ∧ t.ac = s.ac ∧ t.core.lines = s.core.lines ∧ t.core.tc = s.core.tc := by
  obtain ⟨_, _, rfl⟩ := ha.only
  exact h.stands

theorem State.StepApplied.tag_next (ha : State.StepApplied b w t y) (h : State.Heard b x s w r) :
    (t.testSet b).tag = ((s.testSet b).tag + 1) % 16 := by
  rw [ha.testSet.tag, h.alike.tag]
  rfl

theorem State.StepApplied.settled (ha : State.StepApplied b w t y) (h : State.Heard b x s w r) (hs : s.settled) : t.settled := by
  unfold State.settled
  rw [(ha.stands h).2.1]
  exact hs

/-! ### CHECK (R80, R104) -/

/-- The result of the step under way joins the list, and the step's timers stop. -/
def State.recorded (s : State) (b : Nat) (result : StepResult) : State := (s.stopStepTimers b).record b result

theorem State.checkStep_eq (hway : s.stepUnderWay b = some (r, p, st)) :
    s.checkStep b = if (s.ms.check r p st).verdict = .fail ∧ st.onFail = .finish then (s.recorded b (s.ms.check r p st)).finishRun b
      else (s.recorded b (s.ms.check r p st)).nextStep b := by
  unfold State.checkStep
  simp only [hway]
  rfl

/-- The run with one result more. -/
def Run.recorded (r : Run) (result : StepResult) : Run := { r with results := r.results ++ [result], working := {}, held := none }

theorem State.Heard.recorded (h : State.Heard b x s t r) (result : StepResult) :
    State.Heard b x s (t.recorded b result) (r.recorded result) := by
  have hstop : State.Heard b x s (t.stopStepTimers b) r := by
    have hself : (t.stopStepTimers b).testSet b = (t.testSet b).stopped := (State.stopStepTimers_testSet ..).trans (if_pos rfl)
    refine ⟨?_, h.run, h.others, ?_, ?_, ?_, ?_⟩
    · obtain ⟨_, _, rfl⟩ := h.only
      exact ⟨_, _, rfl⟩
    · rw [hself]
      exact h.alike.trans (TestSet.stopped_alike _)
    · rw [hself]
      exact h.range
    · rw [hself]
      exact h.expected
    · rw [hself]
      exact h.failures
  exact hstop.updRun _

theorem State.checkStep_slotWork (s : State) (hb : b ∈ slotNumbers) : State.SlotWork b s (s.checkStep b) := by
  unfold State.checkStep
  split
  · exact (State.RunWork.refl s).slotWork b
  · next y p st _ =>
    have hrecord : State.SlotWork b s (s.recorded b (s.ms.check y p st)) :=
      (State.updRun_runWork (State.stopStepTimers_runWork (.refl s) b) b _).slotWork b
    dsimp only
    split
    · exact hrecord.trans (State.finishRun_slotWork _ hb)
    · exact hrecord.trans (State.nextStep_slotWork _ hb)

theorem State.Heard.tables (h : State.Heard b x s t r) : (∀ k, t.ms.programme k = s.ms.programme k)
    ∧ (∀ p k, t.ms.stepOf p k = s.ms.stepOf p k) ∧ (∀ r p st, t.ms.check r p st = s.ms.check r p st) ∧ ∀ k, t.slot k = s.slot k := by
  obtain ⟨_, _, rfl⟩ := h.only
  exact ⟨fun _ => rfl, fun _ _ => rfl, fun _ _ _ => rfl, fun _ => rfl⟩

/-- The step after a result, where it can be run, enters APPLY (R80). -/
theorem State.nextStep_enters (hr : s.run b = some r) (hp : s.ms.programme r.programme = some p) (hlt : r.step < p.count)
    (hst : s.ms.stepOf p (r.step + 1) = some next) (hv : s.stepVoid b next = false) :
    State.StepApplied b s (s.nextStep b) (r.entering (r.step + 1) next.kind r.results (!(s.testSet b).stream)) := by
  obtain ⟨n, hn⟩ : ∃ n, p.count - r.step = 0 + (n + 1) := ⟨p.count - r.step - 1, by omega⟩
  obtain ⟨hbegun, happlied⟩ := State.beginSteps_enters b p n 0 (r.step + 1) hr (fun i hi hlt => absurd hlt (by omega)) hst hv
  have hvoids : s.ms.voids p (r.step + 1) 0 = [] := rfl
  rw [hvoids, List.append_nil] at happlied
  rw [State.nextStep_eq hr hp, State.stepsOn, hn, if_pos hbegun]
  exact happlied

end Sys2Proof.Machine
end

section
/-! PROOF of O46: a SAMPLE on a READY set. -/

namespace Sys2Proof.Machine

variable {s t w : State} {b lost : Nat} {x : Sample} {r : Run} {p : Programme} {st next : Step} {q : Request} {result : StepResult} {sums : Accum}

/-! ### The acquisition is abandoned (R83) -/

theorem State.stepUnderWay_updRun (h : s.stepUnderWay b = some (r, p, st)) {f : Run → Run} (hp : (f r).programme = r.programme)
    (hk : (f r).step = r.step) : (s.updRun b f).stepUnderWay b = some (f r, p, st) := by
  obtain ⟨hr, hprog, hstep⟩ := State.stepUnderWay_some h
  have hrun : (s.updRun b f).run b = some (f r) := by rw [State.run_updRun, if_pos rfl, hr]; rfl
  exact State.stepUnderWay_of hrun (by rw [hp]; exact hprog) (by rw [hk]; exact hstep)

/-- Too many samples are lost for the first time: the step is retried. -/
theorem State.Heard.retries (h : State.Heard b x s w r) (hway : w.stepUnderWay b = some (r, p, st)) (hu : r.retryUsed = false) (lost : Nat) :
    State.StepApplied b (w.updRun b fun r => { r with lost := lost }) ((w.updRun b fun r => { r with lost := lost }).abandon b false)
      { r.entering r.step st.kind r.results (!(s.testSet b).stream) with retryUsed := true } := by
  have hway' : (w.updRun b fun r => { r with lost := lost }).stepUnderWay b = some ({ r with lost := lost }, p, st) :=
    State.stepUnderWay_updRun hway rfl rfl
  have happlied := State.abandon_retries hway' hu false
  rw [(h.updRun fun r => { r with lost := lost }).alike.stream] at happlied
  exact happlied

/-- They are lost for the second time: the step is VOID_LOSS. -/
theorem State.Heard.loses (h : State.Heard b x s w r) (hb : b ∈ slotNumbers) (hway : w.stepUnderWay b = some (r, p, st))
    (hu : r.retryUsed = true) (hq : (s.slot b).request = some q) (lost : Nat) :
    s.stepsFollow ((w.updRun b fun r => { r with lost := lost }).abandon b false) b q r p
      (r.results ++ [voidAs r.step st { voidLoss := true }]) := by
  have hlost := h.updRun fun r => { r with lost := lost }
  have hway' : (w.updRun b fun r => { r with lost := lost }).stepUnderWay b = some ({ r with lost := lost }, p, st) :=
    State.stepUnderWay_updRun hway rfl rfl
  have hreq : ((w.updRun b fun r => { r with lost := lost }).slot b).request = some q := hlost.runAlike.slot b ▸ hq
  exact hlost.runAlike.stepsFollow (State.abandon_loses hb hway' hu hreq false)

/-! ### The acquisition is complete (R79, R80) -/

/-- The up ramp of CAP is over: its sums are held, and the down ramp begins. -/
theorem State.Heard.turns (h : State.Heard b x s w r) (st : Step) :
    State.StepApplied b (w.updRun b fun r => { r with held := some r.working })
      ((w.updRun b fun r => { r with held := some r.working }).applyStep b st .down)
      { r.applying .down (!(s.testSet b).stream) with held := some r.working } := by
  have hheld := h.updRun fun r => { r with held := some r.working }
  have happlied := State.applyStep_down hheld.run st
  rw [hheld.alike.stream] at happlied
  exact happlied

/-- A run that goes on after a verdict is not ended by it. -/
theorem not_and_of_goesOn {v : Verdict} {f : OnFail} (h : v ≠ .fail ∨ f = .goOn) : ¬(v = .fail ∧ f = .finish) := by
  rintro ⟨rfl, rfl⟩
  exact h.elim (· rfl) nofun

/-- A result that ends the run (R80, R81). -/
theorem State.Heard.finishes (h : State.Heard b x s w r) (hb : b ∈ slotNumbers) (hq : (s.slot b).request = some q) (result : StepResult) :
    s.runEnds ((w.recorded b result).finishRun b) b q r.programme (r.results ++ [result]) := by
  have hd := h.recorded result
  have hreq : ((w.recorded b result).slot b).request = some q := by rw [hd.tables.2.2.2]; exact hq
  exact hd.runAlike.runEnds (State.finishRun_ends hb hd.run hreq)

/-- A result after which the run goes on (R80). -/
theorem State.Heard.follows (h : State.Heard b x s w r) (hb : b ∈ slotNumbers) (hq : (s.slot b).request = some q)
    (hp : s.ms.programme r.programme = some p) (result : StepResult) :
    s.stepsFollow ((w.recorded b result).nextStep b) b q r p (r.results ++ [result]) := by
  have hd := h.recorded result
  obtain ⟨hprog, -, -, hslot⟩ := hd.tables
  have hreq : ((w.recorded b result).slot b).request = some q := by rw [hslot]; exact hq
  exact hd.runAlike.stepsFollow (State.nextStep_follow hb hd.run hreq ((hprog _).trans hp))

/-- A result after which the step behind it enters APPLY (R80). -/
theorem State.Heard.enters (h : State.Heard b x s w r) (hp : s.ms.programme r.programme = some p) (hlt : r.step < p.count)
    (hst : s.ms.stepOf p (r.step + 1) = some next) (hv : s.stepVoid b next = false) (result : StepResult) :
    State.StepApplied b (w.recorded b result) ((w.recorded b result).nextStep b)
      (r.entering (r.step + 1) next.kind (r.results ++ [result]) (!(s.testSet b).stream)) := by
  have hd := h.recorded result
  obtain ⟨hprog, hstepOf, -, -⟩ := hd.tables
  have happlied := State.nextStep_enters hd.run ((hprog _).trans hp) hlt ((hstepOf p _).trans hst) ((hd.runAlike.stepVoid next).trans hv)
  rw [hd.alike.stream] at happlied
  exact happlied

/-! ### The step of a SAMPLE that no run takes -/

theorem exec_sampleReceived_unheard (hq : s.Quiet) {b : Fin 4} {octets : Octets} (hi : s.csi.imageAwaited = false)
    (hready : (s.testSet b.val).state = .ready) (hp : parseSample octets = some x)
    (hor : x.tag ≠ (s.testSet b.val).tag ∨ s.run b.val = none) : ∃ t, exec (.sampleReceived b octets) s = .next t
      ∧ State.SetWritten s t b.val ((s.testSet b.val).indexed x.index s.core.timeMs) := by
  have hnot : ¬(x.tag = (s.testSet b.val).tag ∧ s.running b.val = true) := fun ⟨htag, hrun⟩ => by
    rcases hor with h | h
    · exact h htag
    · simp [State.running, h] at hrun
  have harrives := (State.sampleArrives_ready hp hi hready).trans (if_neg hnot)
  exact (s.indexed_setIs b.val x).command hq (f := (State.sampleArrives · b.val octets)) harrives

end Sys2Proof.Machine

open Sys2Proof Sys2Proof.Machine in
/-- Settles O46: a sample of another tag is indexed alone; one of an acquisition is counted, and what it comes to is decided by the samples
lost and taken. -/
theorem sampleIsAccumulated : Obligations.SampleIsAccumulated := by
  intro n octets x s hq hi hready hparse
  have hn : n.val ∈ slotNumbers := mem_slotNumbers.mpr n.isLt
  constructor
  · intro hor
    obtain ⟨t, hexec, hw⟩ := exec_sampleReceived_unheard hq hi hready hparse hor
    refine ⟨t, hexec, ?_, ?_, fun hdue => ?_, hw.ms, hw.ac, (congrArg (·.core.lines) hw.rest :)⟩
    · rw [hw.self]; rfl
    · rw [hw.self]; rfl
    · rw [hw.self]
      exact if_pos hdue
  · intro was r p st htag hway ha lost v w sums
    obtain ⟨hwas, -, -⟩ := State.stepUnderWay_some hway
    obtain ⟨u, hheard, huway, hdeliver⟩ := State.deliver_acquires hway ha x (sampleGap x.index (s.testSet n.val).expected)
    obtain ⟨-, hprog, -⟩ := State.stepUnderWay_some huway
    rw [hheard.tables.1] at hprog
    have hsums : r.working.add st.kind (u.testSet n.val).range x = sums := by rw [Accum.add_eq, hheard.range]; rfl
    have hacquire := State.acquire_eq huway (g := sampleGap x.index (s.testSet n.val).expected) (lost := lost) rfl hsums
    have hcounted := hheard.updRun (·.counted lost sums)
    have hcheck := State.checkStep_eq (State.stepUnderWay_updRun huway (f := (·.counted lost sums)) rfl rfl)
    have hresult : (u.updRun n.val (·.counted lost sums)).ms.check (r.counted lost sums) p st = s.ms.check { r with working := sums } p st :=
      hcounted.tables.2.2.1 _ _ _
    rw [hresult] at hcheck
    have hexec {t : State} (he : u.acquire n.val x (sampleGap x.index (s.testSet n.val).expected) = t) (hs : t.settled) :
        exec (.sampleReceived n octets) s = .next t.refreshConditions :=
      exec_sampleReceived hq hi hready hparse htag hwas (hdeliver.trans he) hs
    have hchecked (hle : lost ≤ st.samples / 4) (hlast : st.samples ≤ r.taken + 1) (hup : ¬(st.kind = .cap ∧ r.ramp = .up)) :=
      hexec (hacquire.trans ((if_neg (Nat.not_lt.mpr hle)).trans ((if_neg (Nat.not_lt.mpr hlast)).trans (if_neg hup))))
        ((State.checkStep_slotWork _ hn).settled (hcounted.settled hq.settled))
    have habandoned (hgt : st.samples / 4 < lost) := hexec (hacquire.trans (if_pos hgt))
      ((State.abandon_slotWork _ hn false).settled ((hheard.updRun fun r => { r with lost := lost }).settled hq.settled))
    refine ⟨fun hle hlt => ?_, fun hgt hu => ?_, fun q hgt hu hr => ?_, fun hle hlast hcap hup => ?_, fun q hle hlast hup hr => ?_,
      fun next hle hlast hup hlt hst hv => ?_⟩
    · have he := hacquire.trans ((if_neg (Nat.not_lt.mpr hle)).trans (if_pos hlt))
      obtain ⟨hresults, hac, hlines, -⟩ := hcounted.stands
      exact ⟨_, hexec he (hcounted.settled hq.settled), hcounted.run, hcounted.expected, hcounted.failures, hcounted.others, hresults, hac,
        hlines⟩
    · have happlied := hheard.retries huway hu lost
      have hlost := hheard.updRun fun r => { r with lost := lost }
      exact ⟨_, habandoned hgt, happlied.run, happlied.tag_next hlost, happlied.stands hlost⟩
    · have hfollow := hheard.loses hn huway hu hr lost
      have hexec' := habandoned hgt
      generalize (u.updRun n.val fun r => { r with lost := lost }).abandon n.val false = t at *
      exact ⟨_, hexec', hfollow⟩
    · have he := hacquire.trans ((if_neg (Nat.not_lt.mpr hle)).trans ((if_neg (Nat.not_lt.mpr hlast)).trans (if_pos ⟨hcap, hup⟩)))
      have happlied := hcounted.turns st
      have hheld := hcounted.updRun fun r => { r with held := some r.working }
      obtain ⟨hresults, hac, -, -⟩ := happlied.stands hheld
      exact ⟨_, hexec he (happlied.settled hheld hq.settled), happlied.run, happlied.tag_next hheld, hresults, hac⟩
    · have hchecks := hchecked hle hlast hup
      have hfinish := hcounted.finishes hn hr (s.ms.check { r with working := sums } p st)
      have hfollow := hcounted.follows hn hr hprog (s.ms.check { r with working := sums } p st)
      rw [hcheck] at hchecks
      intro result
      by_cases hend : result.verdict = .fail ∧ st.onFail = .finish
      · rw [if_pos hend] at hchecks
        generalize ((u.updRun n.val (·.counted lost sums)).recorded n.val (s.ms.check { r with working := sums } p st)).finishRun n.val = t at *
        exact ⟨_, hchecks, fun _ _ => hfinish, fun hgo => absurd hend (not_and_of_goesOn hgo)⟩
      · rw [if_neg hend] at hchecks
        generalize ((u.updRun n.val (·.counted lost sums)).recorded n.val (s.ms.check { r with working := sums } p st)).nextStep n.val = t at *
        exact ⟨_, hchecks, fun hfail hlast => absurd ⟨hfail, hlast⟩ hend, fun _ => hfollow⟩
    · have hchecks := hchecked hle hlast hup
      have happlied := hcounted.enters hprog hlt hst hv (s.ms.check { r with working := sums } p st)
      have hrecorded := hcounted.recorded (s.ms.check { r with working := sums } p st)
      intro result hgo
      rw [hcheck, if_neg (not_and_of_goesOn hgo)] at hchecks
      exact ⟨_, hchecks, happlied.run, happlied.tag_next hrecorded, happlied.stands hrecorded⟩
end

section
/-! SUPPORT. Changes that leave a quiet moment quiet, what a run does not tell apart, and live tokens. -/

namespace Sys2Proof.Machine

variable {s t : State} {b : Nat}

/-! ### Quiet moments -/

/-- The measurement blocks have no part in what makes a moment quiet. -/
theorem State.Quiet.updMs (h : s.Quiet) (f : Ms → Ms) : (s.updMs f).Quiet := h.of_core rfl h.settled rfl rfl fun _ => rfl

theorem State.Quiet.updCg (h : s.Quiet) (f : Cg → Cg) : (s.updCg f).Quiet := h.of_core rfl h.settled rfl rfl fun _ => rfl

/-- Nor have the frames of the OH's own that wait for a place. -/
theorem State.Quiet.ohWaiting (h : s.Quiet) (frames : List OhFrame) : (s.updOh fun o => { o with waiting := frames }).Quiet :=
  ⟨h.live, h.settled, h.latch, h.ready, h.conditions.shelf, h.conditions.testSet, h.conditions.bus, h.conditions.table⟩

/-- A command that leaves a quiet moment ends with what it does. -/
theorem State.command_of_quiet (hl : s.resetInput = false) {f : State → State} (h : (f s).Quiet) : s.command f = .next (f s) := by
  rw [State.command_of_live hl, State.finish_of_quiet h]

/-! ### Runs -/

theorem State.SlotWork.up (h : State.SlotWork b s t) : t.htp.up = s.htp.up := by
  obtain ⟨_, _, _, _, rfl⟩ := h.rest
  rfl

/-- A run does not tell a frame more in the UP insertion queue. -/
theorem State.withUpFrame_runAlike (s : State) (f : OwnFrame) (b : Nat) : State.RunAlike b s (s.withUpFrame f) :=
  ⟨⟨_, _, rfl⟩, ⟨_, rfl⟩, rfl, fun _ => rfl, rfl, rfl, rfl, rfl, rfl, rfl, rfl⟩

/-! ### Live tokens (R44) -/

theorem State.tokenLive_of_slot {token : Nat} (h : s.deskSlot token = some b) : s.tokenLive token = true := by
  unfold State.tokenLive
  rw [h]
  rfl

theorem State.tokenLive_of_noSlot {token : Nat} (h : s.deskSlot token = none) : s.tokenLive token = (s.deskQueued token).isSome := by
  unfold State.tokenLive
  rw [h, Option.isSome_none, Bool.false_or]

end Sys2Proof.Machine
end

section
/-! PROOF of O22: LOAD STEP, LOAD PROGRAMME and LOAD LIMIT of one record. -/

namespace Sys2Proof.Machine

variable {s : State}

/-! ### Codes and clamps -/

theorem clamp_eq {low high : Nat} (h : low ≤ high) (v : Nat) : clamp low high v = max low (min high v) := by
  unfold clamp
  split_ifs <;> omega

theorem clampInt_eq {low high : Int} (h : low ≤ high) (v : Int) : clampInt low high v = max low (min high v) := by
  unfold clampInt
  split_ifs <;> omega

theorem kindOfCode_of_le {n : Nat} (h : n ≤ 4) : ∃ k, kindOfCode n = some k ∧ k.code = n := by
  interval_cases n <;> exact ⟨_, rfl, rfl⟩

theorem leadPairOfCode_of_le {n : Nat} (h : n ≤ 2) : ∃ p, leadPairOfCode n = some p ∧ p.code = n := by
  interval_cases n <;> exact ⟨_, rfl, rfl⟩

theorem stepClassOfCode_of_le {n : Nat} (h₁ : 1 ≤ n) (h₈ : n ≤ 8) : ∃ f, stepClassOfCode n = some f ∧ f.code = n := by
  interval_cases n <;> exact ⟨_, rfl, rfl⟩

theorem unitOfCode_of_le {n : Nat} (h : n ≤ 2) : ∃ u, unitOfCode n = some u ∧ u.code = n := by
  interval_cases n <;> exact ⟨_, rfl, rfl⟩

theorem onFailOfCode_of_le {n : Nat} (h : n ≤ 1) : ∃ f, onFailOfCode n = some f ∧ (f = .finish ↔ n = 1) := by
  interval_cases n
  · exact ⟨.goOn, rfl, by decide⟩
  · exact ⟨.finish, rfl, by decide⟩

/-- The limit set a good STEP record names. -/
theorem limitOfByte_of_good {b : Byte} (h : b.toNat ≤ 63 ∨ b = 0xFF) : limitOfByte b = .ok (if b = 0xFF then none else some b.toNat) := by
  unfold limitOfByte
  split_ifs with hnone
  · rfl
  · exact if_pos (decide_eq_true (h.resolve_right hnone))

/-! ### Records judged -/

/-- The step that a good record carries, clamped (R69). -/
structure Step.Carries (st : Step) (r : StepArg) : Prop where
  kind : st.kind.code = r.kind.toNat
  pair : st.pair.code = r.leadPair.toNat
  level : st.level = max (-150000) (min 150000 r.level.toInt)
  slope : st.slope = max 1 (min 100 r.slope.toNat)
  settle : st.settle = min 2000 r.settle.toNat
  samples : st.samples = max 1 (min 256 r.sampleCount.toNat)
  limitSet : st.limitSet = if r.limitSet = 0xFF then none else some r.limitSet.toNat
  faultClass : st.faultClass.code = r.faultClass.toNat
  onFail : st.onFail = .finish ↔ r.onFail = 1

/-- A STEP record with assigned codes is taken. -/
theorem stepContents_of_good {r : StepArg} (hkind : r.kind.toNat ≤ 4) (hpair : r.leadPair.toNat ≤ 2)
    (hlimit : r.limitSet.toNat ≤ 63 ∨ r.limitSet = 0xFF) (hclass : 1 ≤ r.faultClass.toNat ∧ r.faultClass.toNat ≤ 8)
    (hfail : r.onFail.toNat ≤ 1) : ∃ st, stepContents r = .ok st ∧ st.Carries r := by
  obtain ⟨kind, hkind, hkcode⟩ := kindOfCode_of_le hkind
  obtain ⟨pair, hpair, hpcode⟩ := leadPairOfCode_of_le hpair
  obtain ⟨cls, hclass, hccode⟩ := stepClassOfCode_of_le hclass.1 hclass.2
  obtain ⟨onFail, hfail, hfcode⟩ := onFailOfCode_of_le hfail
  have hone : r.onFail = 1 ↔ r.onFail.toNat = 1 := BitVec.toNat_inj.symm
  refine ⟨_, by unfold stepContents; rw [hkind, hpair, limitOfByte_of_good hlimit, hclass, hfail], hkcode, hpcode, ?_, ?_, ?_, ?_, rfl,
    hccode, hfcode.trans hone.symm⟩
  · exact clampInt_eq (by decide) _
  · exact clamp_eq (by decide) _
  · exact (clamp_eq (by decide) _).trans (Nat.zero_max _)
  · exact clamp_eq (by decide) _

/-- A STEP record of a kind, for a step that no run uses, is judged by its contents (R71). -/
theorem State.judgeStep_of_kind {r : StepArg} (huse : s.stepInUse r.step.toNat = false) (hkind : r.kind.toNat ≤ 4) :
    s.judgeStep r = (stepContents r).map fun st => (r.step.toNat, some st) := by
  have hsome : r.kind ≠ 0xFF := fun h => absurd (h ▸ hkind) (by decide)
  unfold State.judgeStep
  rw [huse, if_neg nofun, if_neg hsome]

/-- One of kind NONE empties its step (log 58). -/
theorem State.judgeStep_of_none {r : StepArg} (huse : s.stepInUse r.step.toNat = false) (hkind : r.kind = 0xFF)
    (hname : s.ms.stepNamed r.step.toNat = false) : s.judgeStep r = .ok (r.step.toNat, none) := by
  unfold State.judgeStep
  rw [huse, if_neg nofun, if_pos hkind, hname]
  rfl

/-- The programme that a good record carries (R68). -/
def programmeOf (r : ProgrammeArg) : Option Programme :=
  if r.stepCount = 0 then none else some { first := r.firstStep.toNat, count := min 12 r.stepCount.toNat }

theorem State.judgeProgramme_of_good {r : ProgrammeArg} (hle : r.programme.toNat ≤ 31) (huse : r.programme.toNat ∉ s.programmesInUse)
    (hspan : ∀ k, k < min 12 r.stepCount.toNat →
      r.firstStep.toNat + k ≤ 255 ∧ (s.ms.step (r.firstStep.toNat + k)).isSome = true) :
    s.judgeProgramme r = .ok (r.programme.toNat, programmeOf r) := by
  have hzero : r.stepCount = 0 ↔ r.stepCount.toNat = 0 := BitVec.toNat_inj.symm
  have hcontents : s.programmeContents r.firstStep.toNat r.stepCount.toNat = .ok (programmeOf r) := by
    unfold State.programmeContents programmeOf
    by_cases h : r.stepCount.toNat = 0
    · rw [if_pos (by omega), if_pos (hzero.mpr h)]
    · have hloaded : s.ms.spanLoaded r.firstStep.toNat (min 12 r.stepCount.toNat) = true :=
        List.all_eq_true.mpr fun k hk => (hspan k (List.mem_range.mp hk)).2
      have hlast := (hspan (min 12 r.stepCount.toNat - 1) (by omega)).1
      rw [if_neg (by omega), if_neg (mt hzero.mp h), hloaded]
      exact if_pos (by rw [Bool.and_true]; exact decide_eq_true (by omega))
  unfold State.judgeProgramme
  rw [if_neg (Nat.not_lt.mpr hle), if_neg (by rw [List.contains_iff_mem]; exact huse), hcontents]
  rfl

/-- The limit set that a good record carries (R70). -/
structure LimitSet.Carries (x : LimitSet) (r : LimitArg) : Prop where
  unit : x.unit.code = r.unit.toNat
  low : x.low = if r.low = 0xFFFFFFFF then none else some (min 999999999 r.low.toNat)
  high : x.high = if r.high = 0xFFFFFFFF then none else some (min 999999999 r.high.toNat)
  hysteresis : x.hysteresis = min 50 r.hysteresis.toNat

theorem limitsOrdered_of_good {low high : BitVec 32}
    (h : low = 0xFFFFFFFF ∨ high = 0xFFFFFFFF ∨ min 999999999 low.toNat ≤ min 999999999 high.toNat) :
    limitsOrdered (limitOfWord low) (limitOfWord high) = true := by
  unfold limitOfWord
  split_ifs with hlow _ hhigh
  · rfl
  · rfl
  · rfl
  · exact decide_eq_true ((h.resolve_left hlow).resolve_left hhigh)

theorem judgeLimit_of_good {r : LimitArg} (hle : r.limitSet.toNat ≤ 63) (hunit : r.unit.toNat ≤ 2)
    (hlimits : r.low = 0xFFFFFFFF ∨ r.high = 0xFFFFFFFF ∨ min 999999999 r.low.toNat ≤ min 999999999 r.high.toNat) :
    ∃ x, judgeLimit r = .ok (r.limitSet.toNat, x) ∧ x.Carries r := by
  obtain ⟨unit, hunit, hcode⟩ := unitOfCode_of_le hunit
  have hjudge : judgeLimit r = .ok (r.limitSet.toNat,
      { unit := unit, low := limitOfWord r.low, high := limitOfWord r.high, hysteresis := clamp 0 50 r.hysteresis.toNat }) := by
    unfold judgeLimit Judged.guard
    rw [hunit]
    exact if_pos (by rw [decide_eq_true hle, limitsOrdered_of_good hlimits]; rfl)
  exact ⟨_, hjudge, hcode, rfl, rfl, (clamp_eq (Nat.zero_le 50) _).trans (Nat.zero_max _)⟩

/-! ### A record taken -/

/-- The state behind a LOAD of one record that is taken. -/
theorem State.orderCommand_loadOne (ht : s.Takes) (hs : s.csi.saving = none) {i : Instr} {code ref : Byte} {args : Octets}
    (he : encodeOrder i = code :: ref :: args) {α β : Type} {r : α} {y : β} {judge : α → Judged β} (hj : judge r = .ok y)
    {apply : State → β → State} {order : State → State}
    (ho : order s = s.loadSome i [r] judge fun s rs => rs.foldl apply s)
    (hq : (apply (s.withUpFrame (s.answerFrame i .accepted [])) y).Quiet) :
    s.orderCommand i order = .next (apply (s.withUpFrame (s.answerFrame i .accepted [])) y) := by
  have hload : order s = apply (s.withUpFrame (s.answerFrame i .accepted [])) y := by
    have hall : ∀ x ∈ [r], judge x = .ok y := fun x hx => List.mem_singleton.mp hx ▸ hj
    rw [ho, State.loadSome_of_ok hs i (List.cons_ne_nil r []) hall, State.answer_eq s he]
    rfl
  rw [State.orderCommand_of_takes ht, hload, State.finish_of_quiet hq]

/-- LOAD STEP of a record that is taken (R69). -/
theorem exec_loadStep (ht : s.Takes) (hs : s.csi.saving = none) {ref : Byte} {r : StepArg} {y : Nat × Option Step}
    (h : s.judgeStep r = .ok y) :
    exec (.loadStep ref [r]) s = .next ((s.withUpFrame (s.answerFrame (.loadStep ref [r]) .accepted [])).setStep y) :=
  State.orderCommand_loadOne ht hs rfl h rfl ((ht.quiet.withUpFrame _).updMs _)

theorem State.step_setStep (s : State) (y : Nat × Option Step) (k : Nat) :
    (s.setStep y).ms.step k = if k = y.1 then y.2 else s.ms.step k := Table.get_set ..

/-- LOAD PROGRAMME of a record that is taken (R68). -/
theorem exec_loadProgramme (ht : s.Takes) (hs : s.csi.saving = none) {ref : Byte} {r : ProgrammeArg} {y : Nat × Option Programme}
    (h : s.judgeProgramme r = .ok y) :
    exec (.loadProgramme ref [r]) s = .next ((s.withUpFrame (s.answerFrame (.loadProgramme ref [r]) .accepted [])).setProgramme y) :=
  State.orderCommand_loadOne ht hs rfl h rfl ((ht.quiet.withUpFrame _).updMs _)

theorem State.programme_setProgramme (s : State) (y : Nat × Option Programme) (k : Nat) :
    (s.setProgramme y).ms.programme k = if k = y.1 then y.2 else s.ms.programme k := Table.get_set ..

/-- LOAD LIMIT of a record that is taken (R70). -/
theorem exec_loadLimit (ht : s.Takes) (hs : s.csi.saving = none) {ref : Byte} {r : LimitArg} {y : Nat × LimitSet}
    (h : judgeLimit r = .ok y) :
    exec (.loadLimit ref [r]) s = .next ((s.withUpFrame (s.answerFrame (.loadLimit ref [r]) .accepted [])).setLimit y) :=
  State.orderCommand_loadOne ht hs rfl h rfl ((ht.quiet.withUpFrame _).updMs _)

theorem State.limit_setLimit (s : State) (y : Nat × LimitSet) (k : Nat) :
    (s.setLimit y).ms.limit k = if k = y.1 then y.2 else s.ms.limit k := Table.get_set ..

end Sys2Proof.Machine

open Sys2Proof Sys2Proof.Machine in
/-- Settles O22: each good record is taken, and it is written where its number says. -/
theorem measurementTablesAreLoaded : Obligations.MeasurementTablesAreLoaded := by
  refine ⟨fun ref r s ht hs huse hkind hpair hlimit hclass hfail => ?_, fun ref r s ht hs huse hkind hname => ?_,
    fun ref r s ht hs hle huse hspan => ?_, fun ref r s ht hs hle hunit hlimits => ?_⟩
  · obtain ⟨st, hst, hc⟩ := stepContents_of_good hkind hpair hlimit hclass hfail
    have hjudge : s.judgeStep r = .ok (r.step.toNat, some st) := by
      rw [State.judgeStep_of_kind huse hkind, hst]
      rfl
    exact ⟨_, exec_loadStep ht hs hjudge,
      ⟨st, (State.step_setStep ..).trans (if_pos rfl), hc.kind, hc.pair, hc.level, hc.slope, hc.settle, hc.samples, hc.limitSet,
        hc.faultClass, hc.onFail⟩,
      fun k hk => (State.step_setStep ..).trans (if_neg hk), rfl⟩
  · exact ⟨_, exec_loadStep ht hs (State.judgeStep_of_none huse hkind hname), (State.step_setStep ..).trans (if_pos rfl),
      fun k hk => (State.step_setStep ..).trans (if_neg hk), rfl⟩
  · exact ⟨_, exec_loadProgramme ht hs (State.judgeProgramme_of_good hle huse hspan),
      (State.programme_setProgramme ..).trans (if_pos rfl), fun k hk => (State.programme_setProgramme ..).trans (if_neg hk), rfl⟩
  · obtain ⟨x, hjudge, hc⟩ := judgeLimit_of_good hle hunit hlimits
    have hself := (State.limit_setLimit (s.withUpFrame (s.answerFrame (.loadLimit ref [r]) .accepted [])) (r.limitSet.toNat, x)
      r.limitSet.toNat).trans (if_pos rfl)
    exact ⟨_, exec_loadLimit ht hs hjudge, hself ▸ hc.unit, hself ▸ hc.low, hself ▸ hc.high, hself ▸ hc.hysteresis,
      fun k hk => (State.limit_setLimit ..).trans (if_neg hk), rfl⟩
end

section
/-! PROOF of O28: RUN is judged, and waits or starts. -/

namespace Sys2Proof.Machine

variable {s t u : State} {b token p : Nat} {r : Request}

/-! ### RUN judged (R74) -/

theorem State.programmeLoaded_iff : s.programmeLoaded p = true ↔ p ≤ 31 ∧ s.ms.programme p ≠ none := by
  unfold State.programmeLoaded
  rw [Bool.and_eq_true, decide_eq_true_iff, Option.isSome_iff_ne_none]

theorem State.setCanRun_iff : s.setCanRun b p = true ↔ (s.testSet b).state = .ready
    ∧ ∃ k, (s.testSet b).agreedKinds = some k ∧ k.contains (s.ms.requiredKinds (some p)) = true := by
  unfold State.setCanRun TestSet.agrees
  rw [Bool.and_eq_true, decide_eq_true_iff]
  cases (s.testSet b).agreedKinds <;> simp

/-- The tests of a token that stands in no slot. -/
theorem State.judgeRun_of_noSlot (h : s.deskSlot token = none) (p : Nat) :
    s.judgeRun token p = if s.tokenLive token = false then .error .unknownToken
      else if s.programmeLoaded p = true then .error .busy else .error .badArg := by
  unfold State.judgeRun
  rw [h, State.tokenLive_of_noSlot h]
  cases s.deskQueued token <;> rfl

/-- The tests of a token that stands in a slot. -/
theorem State.judgeRun_of_slot (h : s.deskSlot token = some b) (p : Nat) :
    s.judgeRun token p = if s.programmeLoaded p = false then .error .badArg
      else if (s.slot b).state ≠ .held then .error .busy
      else if s.setCanRun b p = false then .error .noTestSet
      else if s.running b = true ∧ (s.pendingRun b).isSome = true then .error .busy
      else .ok b := by
  unfold State.judgeRun
  rw [h]

/-- A token of no live request. -/
theorem State.judgeRun_unknown (h : s.tokenLive token = false) (p : Nat) : s.judgeRun token p = .error .unknownToken := by
  cases hslot : s.deskSlot token with
  | none => rw [State.judgeRun_of_noSlot hslot, if_pos h]
  | some b => exact absurd ((State.tokenLive_of_slot hslot).symm.trans h) nofun

/-- A programme that is not loaded. -/
theorem State.judgeRun_unloaded (hlive : s.tokenLive token = true) (hp : s.programmeLoaded p = false) :
    s.judgeRun token p = .error .badArg := by
  cases hslot : s.deskSlot token with
  | none => rw [State.judgeRun_of_noSlot hslot, hlive, hp]; rfl
  | some b => rw [State.judgeRun_of_slot hslot, if_pos hp]

/-- An order is taken on the slot of its token. -/
theorem State.deskSlot_of_judgeRun (h : s.judgeRun token p = .ok b) : s.deskSlot token = some b := by
  cases hslot : s.deskSlot token with
  | none =>
    rw [State.judgeRun_of_noSlot hslot] at h
    split_ifs at h
  | some c =>
    rw [State.judgeRun_of_slot hslot] at h
    split_ifs at h
    rw [Except.ok.inj h]

/-! ### RUN taken -/

theorem State.takeRun_idle (h : s.run b = none) (p : Nat) : s.takeRun b p = s.startRunNow b p := by
  unfold State.takeRun State.running
  rw [h]
  rfl

theorem State.takeRun_running (h : (s.run b).isSome = true) (p : Nat) : s.takeRun b p = s.setPendingRun b (some p) := if_pos h

theorem State.takeRun_slotWork (s : State) (hb : b ∈ slotNumbers) (p : Nat) : State.SlotWork b s (s.takeRun b p) := by
  unfold State.takeRun
  split
  · exact (State.setPendingRun_runWork s b _).slotWork b
  · exact State.startRunNow_slotWork s hb p

/-- The step of a RUN that is taken. -/
theorem exec_run (ht : s.Takes) {ref token programme : Byte} (h : s.judgeRun token.toNat programme.toNat = .ok b) :
    exec (.run ref token programme) s =
      .next ((s.withUpFrame (s.answerFrame (.run ref token programme) .accepted [])).takeRun b programme.toNat).refreshConditions := by
  have hb := (State.deskSlot_some (State.deskSlot_of_judgeRun h)).1
  refine State.orderCommand_of_answered ht rfl (work := (State.takeRun · b programme.toNat)) ?_ (fun u => u.takeRun_kept b _)
    ((State.takeRun_slotWork _ hb _).settled ht.quiet.settled)
  simp only [h]

/-- The step of a RUN that is refused. -/
theorem exec_run_refused (ht : s.Takes) {ref token programme : Byte} {a : Answer} (h : s.judgeRun token.toNat programme.toNat = .error a) :
    exec (.run ref token programme) s = .next (s.withUpFrame (s.answerFrame (.run ref token programme) a [])) := by
  refine State.orderCommand_of_answer ht rfl (a := a) (d := []) ?_
  simp only [h]

end Sys2Proof.Machine

open Sys2Proof Sys2Proof.Machine in
/-- Settles O28: the tests by where the token stands; a RUN that is taken waits behind the run of its slot, or starts its own. -/
theorem runIsJudgedAndTaken : Obligations.RunIsJudgedAndTaken := by
  intro ref token programme s ht i
  refine ⟨fun a => exec_run_refused ht, fun h => State.judgeRun_unknown h _, fun hlive hp => ?_, fun hlive hle hp => ?_,
    fun b h hrun => ?_, fun b p st r h hrun hp hcount hst hvoid hr => ?_, fun b p r h hrun hp hr => ?_⟩
  · refine State.judgeRun_unloaded hlive (Bool.eq_false_iff.mpr fun hloaded => ?_)
    obtain ⟨hle, hsome⟩ := State.programmeLoaded_iff.mp hloaded
    exact hp.elim (Nat.not_lt.mpr hle) hsome
  · have hloaded : s.programmeLoaded programme.toNat = true := State.programmeLoaded_iff.mpr ⟨hle, hp⟩
    refine ⟨fun hslot => ?_, fun b hslot => ?_⟩
    · rw [State.judgeRun_of_noSlot hslot, hlive, hloaded, if_neg nofun, if_pos rfl]
    · intro able
      have hable : able ↔ s.setCanRun b programme.toNat = true := State.setCanRun_iff.symm
      rw [State.judgeRun_of_slot hslot, hloaded, if_neg nofun]
      refine ⟨fun hstate => if_pos hstate, fun hstate hnot => ?_, fun hstate hcan hrun hpend => ?_, fun hstate hcan hfree => ?_⟩
      · rw [if_neg (not_not.mpr hstate), if_pos (Bool.eq_false_iff.mpr (mt hable.mpr hnot))]
      · rw [if_neg (not_not.mpr hstate), if_neg (by rw [hable.mp hcan]; nofun), if_pos ⟨hrun, hpend⟩]
      · rw [if_neg (not_not.mpr hstate), if_neg (by rw [hable.mp hcan]; nofun), if_neg]
        rintro ⟨hrun, hpend⟩
        unfold State.running at hrun
        rcases hfree with h | h <;> simp [h] at hrun hpend
  · have hexec := exec_run ht (ref := ref) h
    have hquiet : (State.setPendingRun (s.withUpFrame (s.answerFrame i .accepted [])) b (some programme.toNat)).Quiet :=
      (ht.quiet.withUpFrame _).updMs _
    rw [State.takeRun_running (s := s.withUpFrame _) hrun, State.refreshConditions_of_shown hquiet.conditions] at hexec
    exact ⟨_, hexec, (State.pendingRun_setPendingRun ..).trans (if_pos rfl),
      fun k hk => (State.pendingRun_setPendingRun ..).trans (if_neg hk), rfl⟩
  · have hexec := exec_run ht (ref := ref) h
    have halike := s.withUpFrame_runAlike (s.answerFrame i .accepted []) b
    have happlied := State.startRunNow_enters (s := s.withUpFrame (s.answerFrame i .accepted [])) (q := programme.toNat) hr hp hcount hst
      ((halike.stepVoid st).trans hvoid)
    rw [State.takeRun_idle (s := s.withUpFrame _) hrun] at hexec
    refine ⟨_, hexec, ?_, happlied.run, ?_⟩
    all_goals
      obtain ⟨_, _, honly⟩ := happlied.only
      rw [honly]
    · rfl
    · exact ⟨rfl, rfl, rfl, rfl, rfl⟩
  · have hexec := exec_run ht (ref := ref) h
    have hb := (State.deskSlot_some (State.deskSlot_of_judgeRun h)).1
    have halike := s.withUpFrame_runAlike (s.answerFrame i .accepted []) b
    have hfollow := halike.stepsFollow (State.startRunNow_follow (s := s.withUpFrame (s.answerFrame i .accepted [])) hb hr hp)
    have hup := (State.startRunNow_slotWork (s.withUpFrame (s.answerFrame i .accepted [])) hb programme.toNat).up
    rw [State.takeRun_idle (s := s.withUpFrame _) hrun] at hexec
    exact ⟨_, hexec, congrArg OutPort.insertion hup, hfollow⟩
end

section
/-! PROOF of O30: CANCEL of scope STEP. -/

namespace Sys2Proof.Machine

variable {s : State} {b : Nat} {x : Run} {p : Programme} {st next : Step} {q : Request}

/-! ### The step under way is skipped (R85) -/

theorem State.recorded_run (h : s.run b = some x) (result : StepResult) : (s.recorded b result).run b = some (x.recorded result) := by
  have hsame : (s.stopStepTimers b).run b = some x := h
  unfold State.recorded State.record
  rw [State.run_updRun, if_pos rfl, hsame]
  rfl

theorem State.recorded_runAlike (s : State) (b : Nat) (result : StepResult) : State.RunAlike b s (s.recorded b result) := by
  have hset : (s.recorded b result).testSet b = (s.testSet b).stopped := (State.stopStepTimers_testSet ..).trans (if_pos rfl)
  refine ⟨⟨_, _, rfl⟩, ⟨_, rfl⟩, rfl, fun _ => rfl, rfl, ?_⟩
  rw [hset]
  exact TestSet.stopped_alike _

theorem State.cancelCurrent_eq (h : s.stepUnderWay b = some (x, p, st)) :
    s.cancelCurrent b = (s.recorded b (voidAs x.step st { voidSkipped := true })).nextStep b := by
  unfold State.cancelCurrent
  rw [h]
  rfl

theorem State.cancelCurrent_slotWork (s : State) (hb : b ∈ slotNumbers) : State.SlotWork b s (s.cancelCurrent b) := by
  cases h : s.stepUnderWay b with
  | none =>
    have hstill : s.cancelCurrent b = s := by
      unfold State.cancelCurrent
      rw [h]
    rw [hstill]
    exact (State.RunWork.refl s).slotWork b
  | some way =>
    obtain ⟨x, p, st⟩ := way
    rw [State.cancelCurrent_eq h]
    exact (State.RunWork.slotWork (State.updRun_runWork (State.stopStepTimers_runWork (.refl s) b) b _) b).trans
      (State.nextStep_slotWork _ hb)

/-- The step after a skipped one, where it can be run, enters APPLY. -/
theorem State.cancelCurrent_enters (h : s.stepUnderWay b = some (x, p, st)) (hlt : x.step < p.count)
    (hst : s.ms.stepOf p (x.step + 1) = some next) (hv : s.stepVoid b next = false) :
    State.StepApplied b (s.recorded b (voidAs x.step st { voidSkipped := true })) (s.cancelCurrent b)
      (x.entering (x.step + 1) next.kind (x.results ++ [voidAs x.step st { voidSkipped := true }]) (!(s.testSet b).stream)) := by
  obtain ⟨hx, hp, -⟩ := State.stepUnderWay_some h
  have halike := s.recorded_runAlike b (voidAs x.step st { voidSkipped := true })
  rw [State.cancelCurrent_eq h, ← halike.testSet.stream]
  exact State.nextStep_enters (State.recorded_run hx _) hp hlt hst ((halike.stepVoid next).trans hv)

/-- What follows a skipped step (R76, R81). -/
theorem State.cancelCurrent_follow (hb : b ∈ slotNumbers) (h : s.stepUnderWay b = some (x, p, st)) (hq : (s.slot b).request = some q) :
    s.stepsFollow (s.cancelCurrent b) b q x p (x.results ++ [voidAs x.step st { voidSkipped := true }]) := by
  obtain ⟨hx, hp, -⟩ := State.stepUnderWay_some h
  have hrun := State.recorded_run hx (voidAs x.step st { voidSkipped := true })
  rw [State.cancelCurrent_eq h]
  exact (s.recorded_runAlike b _).stepsFollow (State.nextStep_follow hb hrun hq hp)

/-! ### The step of CANCEL -/

theorem exec_cancelStep (ht : s.Takes) {ref token : Byte} (hslot : s.deskSlot token.toNat = some b) (hheld : (s.slot b).state = .held)
    (hrun : s.running b = true) : exec (.cancelStep ref token) s =
      .next ((s.withUpFrame (s.answerFrame (.cancelStep ref token) .accepted [])).cancelCurrent b).refreshConditions := by
  obtain ⟨hb, -⟩ := State.deskSlot_some hslot
  refine State.orderCommand_of_answered ht rfl (work := (State.cancelCurrent · b)) ?_ (fun u => State.cancelCurrent_kept (.refl u) b)
    ((State.cancelCurrent_slotWork _ hb).settled ht.quiet.settled)
  simp only [hslot]
  exact if_pos ⟨hheld, hrun⟩

/-- Where the token stands in a slot with no step to skip. -/
theorem exec_cancelStep_idle (ht : s.Takes) {ref token : Byte} (hslot : s.deskSlot token.toNat = some b)
    (hno : (s.slot b).state ≠ .held ∨ s.run b = none) :
    exec (.cancelStep ref token) s = .next (s.withUpFrame (s.answerFrame (.cancelStep ref token) .badArg [])) := by
  refine State.orderCommand_of_answer ht rfl (a := .badArg) (d := []) ?_
  simp only [hslot]
  refine if_neg fun ⟨hheld, hrun⟩ => hno.elim (· hheld) fun hnone => ?_
  unfold State.running at hrun
  rw [hnone] at hrun
  exact nomatch hrun

/-- Where the token stands in no slot. -/
theorem exec_cancelStep_noSlot (ht : s.Takes) {ref token : Byte} (hslot : s.deskSlot token.toNat = none) :
    exec (.cancelStep ref token) s = .next (s.withUpFrame (s.answerFrame (.cancelStep ref token)
      (if s.tokenLive token.toNat = true then .badArg else .unknownToken) [])) := by
  refine State.orderCommand_of_answer ht rfl (d := []) ?_
  simp only [hslot, State.tokenLive_of_noSlot hslot]

end Sys2Proof.Machine

open Sys2Proof Sys2Proof.Machine in
/-- Settles O30: the step under way is recorded, and the steps behind it begin; a token with no run to skip in is answered alone. -/
theorem cancelStepSkipsTheStep : Obligations.CancelStepSkipsTheStep := by
  intro ref token s ht i
  have hrunning {b : Nat} {x : Run} {p : Programme} {st : Step} (h : s.stepUnderWay b = some (x, p, st)) : s.running b = true := by
    unfold State.running
    rw [(State.stepUnderWay_some h).1]
    rfl
  refine ⟨fun b x p st next hslot hheld hway hlt hst hv => ?_, fun b x p st r hslot hheld hway hr => ?_, fun hlive hno => ?_, fun hlive => ?_⟩
  · have halike := s.withUpFrame_runAlike (s.answerFrame i .accepted []) b
    have happlied := State.cancelCurrent_enters (s := s.withUpFrame (s.answerFrame i .accepted [])) hway hlt hst
      ((halike.stepVoid next).trans hv)
    refine ⟨_, exec_cancelStep ht hslot hheld (hrunning hway), ?_, happlied.run, ?_⟩
    all_goals
      obtain ⟨_, _, honly⟩ := happlied.only
      rw [honly]
    · rfl
    · exact ⟨rfl, rfl, rfl, rfl, rfl⟩
  · obtain ⟨hb, -⟩ := State.deskSlot_some hslot
    have hfollow := State.cancelCurrent_follow (s := s.withUpFrame (s.answerFrame i .accepted [])) hb hway hr
    have hup := (State.cancelCurrent_slotWork (s.withUpFrame (s.answerFrame i .accepted [])) hb).up
    exact ⟨_, exec_cancelStep ht hslot hheld (hrunning hway), congrArg OutPort.insertion hup,
      (s.withUpFrame_runAlike _ b).stepsFollow hfollow⟩
  · cases hslot : s.deskSlot token.toNat with
    | none => rw [exec_cancelStep_noSlot ht hslot, if_pos hlive]
    | some b => exact exec_cancelStep_idle ht hslot (hno b hslot)
  · cases hslot : s.deskSlot token.toNat with
    | none => rw [exec_cancelStep_noSlot ht hslot, if_neg (by rw [hlive]; nofun)]
    | some b => exact absurd ((State.tokenLive_of_slot hslot).symm.trans hlive) nofun
end

section
/-! PROOF of O37: frames that wait for a place in the UP insertion queue. -/

namespace Sys2Proof.Machine

variable {s u : State}

/-! ### A frame placed -/

/-- The step of a command that places frame g, leaving u but for the queue, where there is room. -/
theorem State.command_places (hq : s.Quiet) (hu : u.Quiet) {f : State → State} {c : Prop} [Decidable c] {g : OwnFrame}
    (h : f s = if c then u.withUpFrame g else s) : s.command f = .next (if c then u.withUpFrame g else s) := by
  have hquiet : (f s).Quiet := by
    rw [h]
    split
    · exact hu.withUpFrame g
    · exact hq
  rw [State.command_of_quiet hq.live hquiet, h]

theorem State.placeOh_eq {wanted : OhFrame → Bool} {g : OhFrame} {rest : List OhFrame} (h : s.core.oh.waiting = g :: rest)
    (hw : wanted g = true) : s.placeOh wanted =
      if s.htp.up.insertion.length < 14 then (s.updOh fun o => { o with waiting := rest }).withUpFrame (s.ohFrame g) else s := by
  unfold State.placeOh
  simp only [h, hw, State.upFree_iff, true_and]
  rfl

theorem State.placeResult_eq {r : Result} {rest : List Result} (h : s.ms.results = r :: rest) : s.placeResult =
    if s.htp.up.insertion.length < 14 then
      (s.updMs fun m => { m with results := rest }).withUpFrame (s.toControl kindResult (resultPayload r)) else s := by
  unfold State.placeResult
  simp only [h, State.upFree_iff]
  rfl

theorem State.placeGuardNotice_eq {g : GuardNotice} {rest : List GuardNotice} (h : s.cg.waiting = g :: rest) : s.placeGuardNotice =
    if s.htp.up.insertion.length < 16 then (s.updCg fun c => { c with waiting := rest }).withUpFrame (s.guardFrame g) else s := by
  unfold State.placeGuardNotice
  simp only [h, State.upGuardFree_iff]
  rfl

end Sys2Proof.Machine

open Sys2Proof Sys2Proof.Machine in
/-- Settles O37: each placing takes the front of its list where the queue has room, and leaves the moment quiet. -/
theorem waitingFramesArePlaced : Obligations.WaitingFramesArePlaced :=
  ⟨fun _ _ rest _ hq h => State.command_places hq (hq.ohWaiting rest) (State.placeOh_eq h rfl),
    fun rest _ hq h => State.command_places hq (hq.ohWaiting rest) (State.placeOh_eq h rfl),
    fun _ _ _ hq h => State.command_places hq (hq.updMs _) (State.placeResult_eq h),
    fun _ _ _ hq h => State.command_places hq (hq.updCg _) (State.placeGuardNotice_eq h)⟩
end

section
/-! PROOF of O57: the floor of a root, quotients rounded half away from zero, and the two means (R92). -/

namespace Sys2Proof.Machine

/-! ### The floor of a root -/

/-- Where the root lies within 2^k above r, trying the bits below 2^k from the highest down finds it. -/
theorem isqrtBits_floor {n : Nat} : ∀ {k r : Nat}, r * r ≤ n → n < (r + 2 ^ k) * (r + 2 ^ k) →
    isqrtBits k n r * isqrtBits k n r ≤ n ∧ n < (isqrtBits k n r + 1) * (isqrtBits k n r + 1)
  | 0, _, hlow, hhigh => ⟨hlow, hhigh⟩
  | k + 1, r, hlow, hhigh => by
    unfold isqrtBits
    split
    · next hbit =>
      have hsum : r + 2 ^ (k + 1) = r + 2 ^ k + 2 ^ k := by rw [pow_succ]; omega
      exact isqrtBits_floor hbit (hsum ▸ hhigh)
    · next hbit => exact isqrtBits_floor hlow (not_le.mp hbit)

theorem isqrt_floor (n : Nat) : isqrt n * isqrt n ≤ n ∧ n < (isqrt n + 1) * (isqrt n + 1) := by
  refine isqrtBits_floor (Nat.zero_le n) ?_
  calc n < 2 ^ (n.log2 + 1) := Nat.lt_log2_self
    _ ≤ 2 ^ (n.log2 / 2 + 1 + (n.log2 / 2 + 1)) := Nat.pow_le_pow_right two_pos (by omega)
    _ = (0 + 2 ^ (n.log2 / 2 + 1)) * (0 + 2 ^ (n.log2 / 2 + 1)) := by rw [pow_add, zero_add]

/-! ### Rounded quotients -/

theorem rounded_natCast (a b : Nat) : rounded a b = ((2 * a + b) / (2 * b) : Nat) := by
  have hsign : (a : Int) < 0 ↔ (b : Int) < 0 := by omega
  unfold rounded
  exact if_pos hsign

theorem rounded_neg (a : Int) {b : Nat} (hb : 0 < b) : rounded (-a) b = -rounded a b := by
  unfold rounded
  simp only [Int.natAbs_neg, Int.natAbs_natCast]
  rcases lt_trichotomy a 0 with ha | rfl | ha
  · rw [if_pos (by omega), if_neg (by omega), neg_neg]
  · have hzero : (2 * (0 : Int).natAbs + b) / (2 * b) = 0 := Nat.div_eq_of_lt (by omega)
    simp only [hzero, Nat.cast_zero, neg_zero, ite_self]
  · rw [if_neg (by omega), if_pos (by omega)]

theorem rounded_natCast_within (a : Nat) {b : Nat} (hb : 0 < b) :
    2 * (b : Int) * rounded a b ≤ 2 * a + b ∧ (2 * a + b : Int) < 2 * b * (rounded a b + 1) := by
  rw [rounded_natCast]
  exact_mod_cast And.intro (Nat.mul_div_le (2 * a + b) (2 * b)) (Nat.lt_mul_div_succ (2 * a + b) (by omega : 0 < 2 * b))

/-- A quotient of a dividend that is not negative, on magnitudes: twice the dividend and the divisor stand between two multiples. -/
theorem rounded_within {a : Int} (ha : 0 ≤ a) {b : Nat} (hb : 0 < b) :
    2 * (b : Int) * rounded a b ≤ 2 * a + b ∧ 2 * a + b < 2 * b * (rounded a b + 1) := by
  lift a to Nat using ha
  exact rounded_natCast_within a hb

theorem rounded_within_of_neg {a : Int} (ha : a < 0) {b : Nat} (hb : 0 < b) :
    2 * (b : Int) * -rounded a b ≤ -2 * a + b ∧ -2 * a + b < 2 * b * (-rounded a b + 1) := by
  rw [← rounded_neg a hb, neg_mul_comm]
  exact rounded_within (by omega) hb

/-! ### Means (R92) -/

theorem Accum.meanVoltage_within (a : Accum) {n : Nat} (hn : 0 < n) :
    (0 ≤ a.sv → 2 * (n : Int) * a.meanVoltage n ≤ 20 * a.sv + n ∧ 20 * a.sv + n < 2 * n * (a.meanVoltage n + 1))
    ∧ (a.sv < 0 → 2 * (n : Int) * -a.meanVoltage n ≤ -20 * a.sv + n ∧ -20 * a.sv + n < 2 * n * (-a.meanVoltage n + 1)) := by
  have hup : 20 * a.sv = 2 * (a.sv * 10) := by ring
  have hdown : -20 * a.sv = -2 * (a.sv * 10) := by ring
  rw [hup, hdown]
  exact ⟨fun h => rounded_within (by omega) hn, fun h => rounded_within_of_neg (by omega) hn⟩

theorem CurrentRange.lsb_pos (range : CurrentRange) : (0 : Int) < range.lsb := by
  cases range <;> decide

theorem Accum.meanCurrent_within (a : Accum) {n : Nat} (hn : 0 < n) :
    (0 ≤ a.si → 2 * (n : Int) * a.meanCurrent n ≤ 2 * a.si * a.range.lsb + n
      ∧ 2 * a.si * a.range.lsb + n < 2 * n * (a.meanCurrent n + 1))
    ∧ (a.si < 0 → 2 * (n : Int) * -a.meanCurrent n ≤ -2 * a.si * a.range.lsb + n
      ∧ -2 * a.si * a.range.lsb + n < 2 * n * (-a.meanCurrent n + 1)) := by
  have hlsb := a.range.lsb_pos
  rw [mul_assoc 2 a.si, mul_assoc (-2) a.si]
  exact ⟨fun h => rounded_within (mul_nonneg h hlsb.le) hn, fun h => rounded_within_of_neg (mul_neg_of_neg_of_pos h hlsb) hn⟩

end Sys2Proof.Machine

open Sys2Proof Sys2Proof.Machine in
/-- Settles O57: the root by its bits, the quotient by its natural-number division, and the means as such quotients. -/
theorem meansAndRootsAreExact : Obligations.MeansAndRootsAreExact := by
  refine ⟨isqrt_floor, fun a b hb => rounded_neg a hb, fun a b hb => ⟨?_, rounded_natCast_within a hb⟩, fun a n hn => ?_⟩
  · rw [rounded_natCast]
    exact Int.natCast_nonneg _
  · intro lsb
    have hlsb : lsb = a.range.lsb := by
      unfold lsb
      cases a.range <;> rfl
    rw [hlsb]
    obtain ⟨hvup, hvdown⟩ := a.meanVoltage_within hn
    obtain ⟨hiup, hidown⟩ := a.meanCurrent_within hn
    exact ⟨hvup, hvdown, hiup, hidown⟩
end

section
/-! PROOF of O58: the value of a step, its channel and its verdict (R93–R104). -/

namespace Sys2Proof.Machine

/-! ### Resistance and capacitance (R96, R97, R99) -/

/-- The current floor is two steps of the current code (R96). -/
theorem resistance_open {i : Int} {lsb : Nat} (h : i.natAbs < 2 * lsb) (vnet : Int) :
    resistance vnet i lsb = { value := 999999999, quals := { openCircuit := true } } := if_pos h

theorem resistance_measured {i : Int} {lsb : Nat} (h : 2 * lsb ≤ i.natAbs) (vnet : Int) :
    resistance vnet i lsb =
      { value := (min 999999999 ((2 * vnet.natAbs * 1000000 + i.natAbs) / (2 * i.natAbs)) : Nat),
        quals := { reverse := decide ((vnet < 0 ∧ 0 < i) ∨ (0 < vnet ∧ i < 0)) } } := by
  unfold resistance greatestOhm
  rw [if_neg (not_lt.mpr h), Bool.decide_or]

theorem capacitance_reverse {iUp iDown : Int} (h : iUp ≤ iDown) (slope : Nat) :
    capacitance iUp iDown slope = { value := 0, quals := { reverse := true } } := if_pos (sub_nonpos.mpr h)

theorem capacitance_measured {iUp iDown : Int} (h : iDown < iUp) (slope : Nat) :
    capacitance iUp iDown slope = { value := min 65535 (((iUp - iDown) * 10 + slope) / (2 * slope)) } := by
  have hd : ((iUp - iDown).toNat : Int) = iUp - iDown := Int.toNat_of_nonneg (by omega)
  unfold capacitance
  rw [if_neg (by omega)]
  push_cast
  rw [hd]

/-! ### Overload (R100) -/

theorem figureOf_dcv {st : Step} (hk : st.kind = .dcv) (working held : Accum) (vf : Int) :
    (working.overI = false → ∀ positive, working.overV = some positive →
      figureOf st working held vf = overranged (if positive then 327670 else -327670))
    ∧ (working.overI = true ∨ working.overV = none → figureOf st working held vf = { value := working.meanVoltage st.samples }) := by
  unfold figureOf
  rw [hk]
  constructor
  · intro hi positive hv
    simp only [hi, hv, overVoltage]
  · rintro (hi | hv)
    · simp only [hi]
    · rw [hv]
      cases working.overI <;> rfl

theorem figureOf_acv {st : Step} (hk : st.kind = .acv) (working held : Accum) (vf : Int) :
    (working.overI = false → working.overV.isSome = true → figureOf st working held vf = overranged 327670)
    ∧ (working.overI = true ∨ working.overV = none → figureOf st working held vf = { value := working.acVoltage st.samples }) := by
  unfold figureOf
  rw [hk]
  refine ⟨fun hi hv => if_pos ⟨hi, hv⟩, fun h => if_neg fun ⟨hi, hv⟩ => ?_⟩
  rcases h with h | h
  · exact absurd (hi.symm.trans h) nofun
  · exact absurd (h ▸ hv) nofun

theorem figureOf_resistance {st : Step} (hk : st.kind = .resIns ∨ st.kind = .resLoop) (working held : Accum) (vf : Int) :
    figureOf st working held vf =
      if working.overI = true then overranged 0 else if working.overV.isSome = true then overranged 999999999
      else resistance (working.meanVoltage st.samples - vf) (working.meanCurrent st.samples) working.range.lsb := by
  unfold figureOf
  rcases hk with hk | hk <;> rw [hk] <;> rfl

theorem figureOf_cap {st : Step} (hk : st.kind = .cap) (working held : Accum) (vf : Int) :
    figureOf st working held vf =
      if (working.overI || held.overI) = true then overranged 65535
      else capacitance (held.meanCurrent st.samples) (working.meanCurrent st.samples) st.slope := by
  unfold figureOf
  rw [hk]

/-! ### The foreign voltage (R95) -/

/-- The result is a DCV value on this lead pair that is not VOID. -/
def Ms.measuresForeign (m : Ms) (p : Programme) (pair : LeadPair) (r : StepResult) : Prop :=
  ∃ st, m.stepOf p r.step = some st ∧ st.kind = .dcv ∧ st.pair = pair ∧ r.quals.isVoid = false

theorem Ms.foreignVoltage_concat_of_measures {m : Ms} {p : Programme} {pair : LeadPair} {r : StepResult}
    (h : m.measuresForeign p pair r) (results : List StepResult) : m.foreignVoltage p (results ++ [r]) pair = r.value := by
  obtain ⟨st, hst, hserves⟩ := h
  unfold Ms.foreignVoltage
  simp only [List.foldl_concat, hst, if_pos hserves]

theorem Ms.foreignVoltage_concat_of_not_measures {m : Ms} {p : Programme} {pair : LeadPair} {r : StepResult}
    (h : ¬m.measuresForeign p pair r) (results : List StepResult) :
    m.foreignVoltage p (results ++ [r]) pair = m.foreignVoltage p results pair := by
  unfold Ms.foreignVoltage
  rw [List.foldl_concat]
  cases hst : m.stepOf p r.step with
  | none => rfl
  | some st => exact if_neg fun hserves => h ⟨st, hst, hserves⟩

/-- Results behind the last DCV value do not count. -/
theorem Ms.foreignVoltage_append_of_not_measures {m : Ms} {p : Programme} {pair : LeadPair} (results : List StepResult)
    {after : List StepResult} (h : ∀ x ∈ after, ¬m.measuresForeign p pair x) :
    m.foreignVoltage p (results ++ after) pair = m.foreignVoltage p results pair := by
  induction after using List.reverseRecOn with
  | nil => rw [List.append_nil]
  | append_singleton after x ih =>
    rw [← List.append_assoc, Ms.foreignVoltage_concat_of_not_measures (h x (by simp))]
    exact ih fun y hy => h y (List.mem_append_left _ hy)

/-! ### Verdicts (R103) -/

theorem verdictOf_none (kind : Kind) (start : Verdict) (c : Channel) (v : Int) : verdictOf kind none start c v = .unset := rfl

theorem verdictOf_of_not_serves {kind : Kind} {lim : LimitSet} (h : lim.unit ≠ kind.unit ∨ (lim.low = none ∧ lim.high = none))
    (start : Verdict) (c : Channel) (v : Int) : verdictOf kind (some lim) start c v = .unset := if_pos h

/-- The figure lies below the effective low limit or above the effective high one. -/
def LimitSet.exceeded (lim : LimitSet) (start : Verdict) (figure : Int) : Prop :=
  (∃ low : Nat, lim.effectiveLow start = some low ∧ figure < low)
    ∨ ∃ high : Nat, lim.effectiveHigh start = some high ∧ high < figure

theorem LimitSet.not_exceeded (lim : LimitSet) (start : Verdict) (figure : Int) : ¬lim.exceeded start figure ↔
    (∀ low : Nat, lim.effectiveLow start = some low → low ≤ figure)
      ∧ ∀ high : Nat, lim.effectiveHigh start = some high → figure ≤ high := by
  unfold LimitSet.exceeded
  push Not
  rfl

theorem verdictOf_of_serves {kind : Kind} {lim : LimitSet} (hunit : lim.unit = kind.unit) (hlimit : lim.low ≠ none ∨ lim.high ≠ none)
    (start : Verdict) (c : Channel) (v : Int) [Decidable (lim.exceeded start (judgedFigure c v))] :
    verdictOf kind (some lim) start c v = if lim.exceeded start (judgedFigure c v) then .fail else .good := by
  have hserves : ¬(lim.unit ≠ kind.unit ∨ (lim.low = none ∧ lim.high = none)) := by tauto
  refine (if_neg hserves).trans (if_congr ?_ rfl rfl)
  unfold LimitSet.exceeded
  cases lim.effectiveLow start <;> cases lim.effectiveHigh start <;> simp

theorem verdictOf_fail_iff {kind : Kind} {lim : LimitSet} (hunit : lim.unit = kind.unit) (hlimit : lim.low ≠ none ∨ lim.high ≠ none)
    (start : Verdict) (c : Channel) (v : Int) :
    verdictOf kind (some lim) start c v = .fail ↔ lim.exceeded start (judgedFigure c v) := by
  classical
  rw [verdictOf_of_serves hunit hlimit]
  split <;> simp [*]

theorem verdictOf_good_iff {kind : Kind} {lim : LimitSet} (hunit : lim.unit = kind.unit) (hlimit : lim.low ≠ none ∨ lim.high ≠ none)
    (start : Verdict) (c : Channel) (v : Int) :
    verdictOf kind (some lim) start c v = .good ↔ ¬lim.exceeded start (judgedFigure c v) := by
  classical
  rw [verdictOf_of_serves hunit hlimit]
  split <;> simp [*]

end Sys2Proof.Machine

open Sys2Proof Sys2Proof.Machine in
/-- Settles O58, clause by clause: the value of each kind, the foreign voltage, CHECK, the channel, the limits and the verdict. -/
theorem valuesAreJudgedByTheLimits : Obligations.ValuesAreJudgedByTheLimits := by
  refine ⟨fun vnet i lsb => ⟨fun h => ?_, fun h _ => ?_⟩, fun iUp iDown slope _ => ⟨fun h => ?_, fun h => ?_⟩,
    fun st working held vf => ⟨fun hk => figureOf_dcv hk working held vf, fun hk => figureOf_acv hk working held vf,
      fun hk => ?_, fun hk => ?_⟩,
    fun a n => ⟨_, (isqrt_floor _).1, (isqrt_floor _).2, rfl⟩, fun m p results pair => ⟨fun h => ?_, ?_⟩, fun _ _ _ _ => rfl,
    fun pair => ⟨rfl, rfl, rfl, rfl⟩, rfl, rfl, rfl, fun _ _ _ => ⟨rfl, rfl⟩, fun _ _ => ⟨rfl, rfl⟩,
    fun kind limit start c v => ⟨?_, ?_⟩⟩
  · rw [resistance_open h]
    exact ⟨rfl, rfl⟩
  · rw [resistance_measured h]
    exact ⟨rfl, rfl⟩
  · rw [capacitance_reverse h]
    exact ⟨rfl, rfl⟩
  · rw [capacitance_measured h]
    exact ⟨rfl, rfl⟩
  · rw [figureOf_resistance hk]
    refine ⟨fun hi => if_pos hi, fun hi hv => ?_, fun hi hv => ?_⟩
    · rw [hi, hv]
      rfl
    · rw [hi, hv]
      rfl
  · rw [figureOf_cap hk]
    refine ⟨fun h => if_pos (Bool.or_eq_true_iff.mpr h), fun hi hh => ?_⟩
    rw [hi, hh]
    rfl
  · exact Ms.foreignVoltage_append_of_not_measures [] h
  · rintro before r after rfl hr hafter
    rw [List.append_cons, Ms.foreignVoltage_append_of_not_measures _ hafter]
    exact Ms.foreignVoltage_concat_of_measures hr before
  · rintro rfl
    exact verdictOf_none kind start c v
  · rintro lim rfl
    refine ⟨fun h => verdictOf_of_not_serves h start c v, fun hunit hlimit => ⟨verdictOf_fail_iff hunit hlimit start c v, ?_⟩⟩
    exact (verdictOf_good_iff hunit hlimit start c v).trans (lim.not_exceeded start _)
end

section
/-! PROOF of O31: ACK. -/

namespace Sys2Proof.Machine

variable {s : State} {n : Nat} {t : Ticket} {a : Answer}

/-- An ACK changes the core as the TC tells, and is answered. -/
theorem exec_ack (ht : s.Takes) {ref : Byte} {number : BitVec 16} {c : Core} (h : s.core.ack number.toNat = (c, a)) :
    exec (.ack ref number) s = .next (({ s with core := c } : State).withUpFrame (s.answerFrame (.ack ref number) a [])).finish := by
  have hkept : State.Kept s { s with core := c } := by
    have hcore : (s.core.ack number.toNat).1 = c := congrArg Prod.fst h
    exact hcore ▸ State.updCore_kept (f := fun c => (c.ack number.toNat).1) (.refl s) (Core.ack_kept (.refl _) _)
  refine State.orderCommand_of_worked ht rfl (u := { s with core := c }) ?_ hkept
  rw [h]

/-- An ACK that is answered and does no more. -/
theorem exec_ack_same (ht : s.Takes) {ref : Byte} {number : BitVec 16} (h : s.core.ack number.toNat = (s.core, a)) :
    exec (.ack ref number) s = .next (s.withUpFrame (s.answerFrame (.ack ref number) a [])) := by
  rw [exec_ack ht h, State.finish_of_quiet (ht.quiet.withUpFrame _)]

/-- The OPEN ticket acknowledged: it counts as before, so that the table and the group records alone are written (R124). -/
theorem Core.acknowledge_eq {c : Core} (h : c.ticket n = some t) (ho : t.state = .opened) :
    ∃ tickets gm, tickets.length = c.tc.tickets.length
      ∧ c.putTicket n (fun t => { t with state := .acknowledged }) = { c with tc := { c.tc with tickets := tickets }, gm := gm } := by
  have hcounts : ({ t with state := .acknowledged } : Ticket).counts = t.counts := by
    simp [Ticket.counts, TicketState.counted, ho]
  exact ⟨_, _, List.length_map _, Core.putTicket_same (f := fun t => { t with state := .acknowledged }) h hcounts⟩

end Sys2Proof.Machine

open Sys2Proof Sys2Proof.Machine in
/-- Settles O31: by the state of the ticket; an ACK that acknowledges leaves the moment quiet. -/
theorem ticketIsAcknowledged : Obligations.TicketIsAcknowledged := by
  intro ref number s ht i
  refine ⟨fun hnone => exec_ack_same ht (by simp [Core.ack, hnone]), fun t hticket =>
    ⟨fun hparent => exec_ack_same ht (by simp [Core.ack, hticket, hparent]),
      fun hparent hstate => exec_ack_same ht (by simp [Core.ack, hticket, hparent, hstate]), fun hparent hstate => ?_,
      fun hparent hstate => ?_⟩⟩
  · rcases hstate with hstate | hstate | hstate <;> exact exec_ack_same ht (by simp [Core.ack, hticket, hparent, hstate])
  · have hread := fun j => s.core.ticket_putTicket_any number.toNat j (f := fun t => { t with state := .acknowledged }) fun _ => rfl
    have hexec := exec_ack ht (ref := ref) (number := number) (c := s.core.putTicket number.toNat fun t => { t with state := .acknowledged })
      (a := .accepted) (by simp [Core.ack, hticket, hparent, hstate])
    obtain ⟨tickets, gm, hlength, hput⟩ := Core.acknowledge_eq hticket hstate
    rw [hput] at hexec hread
    have hquiet : ({ s with core := { s.core with tc := { s.core.tc with tickets := tickets }, gm := gm } } : State).Quiet :=
      ht.quiet.of_same rfl ht.quiet.settled rfl rfl rfl rfl rfl hlength
    rw [State.finish_of_quiet (hquiet.withUpFrame _)] at hexec
    exact ⟨_, hexec, (hread _).trans (by rw [if_pos rfl, hticket]; rfl), rfl, fun m hm => (hread m).trans (if_neg hm), hlength,
      rfl, rfl, rfl, rfl, rfl, rfl, rfl, rfl, rfl, rfl, rfl⟩
end

section
/-! SUPPORT. The list of tickets after a change of one, and the records of the subjects after a reference is cleared (R111). -/

namespace Sys2Proof.Machine

variable {c : Core} {n : Nat} {t : Ticket}

/-- The table after a change of ticket n. -/
theorem Core.putTicket_tickets (c : Core) (n : Nat) (f : Ticket → Ticket) :
    (c.putTicket n f).tc.tickets = c.tc.tickets.map fun u => if u.number = n then f u else u := by
  unfold Core.putTicket
  split
  · next h =>
    refine ((List.map_congr_left fun u hu => ?_).trans (List.map_id _)).symm
    have hne : u.number ≠ n := by simpa using List.find?_eq_none.mp h u hu
    exact if_neg hne
  · rfl

/-- The tickets of other numbers, after a change of ticket n. -/
theorem Core.filter_putTicket (c : Core) (n : Nat) {f : Ticket → Ticket} (hf : ∀ u, (f u).number = u.number) :
    (c.putTicket n f).tc.tickets.filter (fun u => decide (u.number ≠ n)) = c.tc.tickets.filter fun u => decide (u.number ≠ n) := by
  rw [Core.putTicket_tickets]
  induction c.tc.tickets with
  | nil => rfl
  | cons u l ih =>
    rw [List.map_cons, List.filter_cons, List.filter_cons, ih]
    by_cases hu : u.number = n <;> simp [hu, hf]

/-- What every number reads in a table that ticket n has left. -/
theorem find?_number_ne (l : List Ticket) (n m : Nat) :
    (l.filter fun u => decide (u.number ≠ n)).find? (fun u => decide (u.number = m)) =
      if m = n then none else l.find? fun u => decide (u.number = m) := by
  rw [List.find?_filter]
  split
  · next h =>
    refine List.find?_eq_none.mpr fun u _ => ?_
    simp [h]
  · next h =>
    congr 1
    funext u
    by_cases hu : u.number = m <;> simp [hu, h]

/-- The line's record after the reference to a ticket is cleared (R111). -/
theorem Core.clearReference_line (c : Core) (t : Ticket) (l : Nat) :
    (c.clearReference t).line l =
      if t.kind = .line ∧ l = t.subject ∧ (c.line l).ticket = some t.number then { c.line l with ticket := none } else c.line l := by
  unfold Core.clearReference
  split
  · next h =>
    rw [Core.line_updLine]
    by_cases hl : l = t.subject <;> simp [h, hl]
  all_goals next h => exact (if_neg (by simp [h])).symm

theorem Core.clearReference_shelf (c : Core) (t : Ticket) (k : Nat) :
    (c.clearReference t).shelf k =
      if t.kind = .shelf ∧ k = t.subject ∧ (c.shelf k).ticket = some t.number then { c.shelf k with ticket := none } else c.shelf k := by
  unfold Core.clearReference
  split
  case h_2 h =>
    rw [Core.shelf_updShelf]
    by_cases hk : k = t.subject <;> simp [h, hk]
  all_goals next h => exact (if_neg (by simp [h])).symm

theorem Core.clearReference_testSet (c : Core) (t : Ticket) (k : Nat) :
    (c.clearReference t).testSet k =
      if t.kind = .testSet ∧ k = t.subject ∧ (c.testSet k).ticket = some t.number then { c.testSet k with ticket := none }
      else c.testSet k := by
  unfold Core.clearReference
  split
  case h_3 h =>
    rw [Core.testSet_updTestSet]
    by_cases hk : k = t.subject <;> simp [h, hk]
  all_goals next h => exact (if_neg (by simp [h])).symm

/-- What clearing a reference leaves alone. -/
theorem Core.clearReference_rest (c : Core) (t : Ticket) :
    (c.clearReference t).tc = c.tc ∧ (c.clearReference t).timeMs = c.timeMs ∧ (c.clearReference t).oh = c.oh := by
  unfold Core.clearReference
  split <;> exact ⟨rfl, rfl, rfl⟩

end Sys2Proof.Machine
end

section
/-! SUPPORT. What the numbers of the table and the notice list read after work on tickets that stand, one lemma an operation (`Shows.put`,
`Shows.notice`, …), and what the records of the groups tell of it. -/

namespace Sys2Proof.Machine

open Function (update)

variable {c d : Core} {n : Nat} {t : Ticket} {p : Nat → Option Ticket} {ns : List Nat}

/-- What work on tickets that stand leaves alone. -/
structure Core.TableWork (c d : Core) : Prop where
  lines : d.lines = c.lines
  shelves : d.shelves = c.shelves
  sets : d.sets = c.sets
  time : d.timeMs = c.timeMs
  params : d.oh.params = c.oh.params
  counter : d.tc.counter = c.tc.counter
  numbers : d.tc.tickets.map (·.number) = c.tc.tickets.map (·.number)

theorem Core.TableWork.refl (c : Core) : Core.TableWork c c := ⟨rfl, rfl, rfl, rfl, rfl, rfl, rfl⟩

theorem Core.TableWork.trans {e : Core} (h : Core.TableWork c d) (k : Core.TableWork d e) : Core.TableWork c e :=
  ⟨k.lines.trans h.lines, k.shelves.trans h.shelves, k.sets.trans h.sets, k.time.trans h.time, k.params.trans h.params,
    k.counter.trans h.counter, k.numbers.trans h.numbers⟩

theorem Core.TableWork.now (h : Core.TableWork c d) : d.now = c.now := by simp only [Core.now, h.time]

theorem Core.TableWork.line (h : Core.TableWork c d) (l : Nat) : d.line l = c.line l := by simp only [Core.line, h.lines]

theorem Core.TableWork.shelf (h : Core.TableWork c d) (k : Nat) : d.shelf k = c.shelf k := by simp only [Core.shelf, h.shelves]

theorem Core.TableWork.testSet (h : Core.TableWork c d) (k : Nat) : d.testSet k = c.testSet k := by simp only [Core.testSet, h.sets]

theorem Core.TableWork.groupKey (h : Core.TableWork c d) (t : Ticket) : d.groupKey t = c.groupKey t := by
  simp only [Core.groupKey, h.line]

theorem Core.TableWork.standsIn (h : Core.TableWork c d) (t : Ticket) : d.standsIn t = c.standsIn t := by
  simp only [Core.standsIn, h.groupKey]

theorem Core.TableWork.length (h : Core.TableWork c d) : d.tc.tickets.length = c.tc.tickets.length := by
  simpa using congrArg List.length h.numbers

theorem Core.TableWork.nodup (h : Core.TableWork c d) (hn : (c.tc.tickets.map (·.number)).Nodup) : (d.tc.tickets.map (·.number)).Nodup :=
  h.numbers.symm ▸ hn

theorem Core.putTicket_tableWork (c : Core) (n : Nat) {f : Ticket → Ticket} (hf : ∀ u, (f u).number = u.number) :
    Core.TableWork c (c.putTicket n f) := by
  obtain ⟨_, _, _, h⟩ := c.putTicket_eq n f
  refine ⟨by rw [h], by rw [h], by rw [h], by rw [h], (c.putTicket_frame n f).2.params, by rw [h], ?_⟩
  rw [Core.putTicket_tickets, List.map_map]
  refine List.map_congr_left fun u _ => ?_
  rw [Function.comp_apply]
  split
  · exact hf u
  · rfl

/-- After work on tickets that stand in c, the numbers of d read as p tells, and the notice list is ns. -/
structure Core.Shows (c d : Core) (p : Nat → Option Ticket) (ns : List Nat) : Prop where
  work : Core.TableWork c d
  ticket : d.ticket = p
  notices : d.tc.notices = ns

theorem Core.Shows.refl (c : Core) : Core.Shows c c c.ticket c.tc.notices := ⟨.refl c, rfl, rfl⟩

/-- A ticket is changed. -/
theorem Core.Shows.put (h : Core.Shows c d p ns) (hp : p n = some t) {f : Ticket → Ticket} (hf : ∀ u, (f u).number = u.number) :
    Core.Shows c (d.putTicket n f) (update p n (some (f t))) ns where
  work := h.work.trans (d.putTicket_tableWork n hf)
  ticket := by
    funext m
    rw [Core.ticket_putTicket_any d n m hf, Function.update_apply, h.ticket, hp]
    rfl
  notices := by
    obtain ⟨_, _, _, he⟩ := d.putTicket_eq n f
    rw [he]
    exact h.notices

/-- The notice list is written. -/
theorem Core.Shows.setNotices (h : Core.Shows c d p ns) (f : List Nat → List Nat) :
    Core.Shows c (d.updTc fun tc => { tc with notices := f tc.notices }) p (f ns) where
  work := h.work.trans ⟨rfl, rfl, rfl, rfl, rfl, rfl, rfl⟩
  ticket := h.ticket
  notices := congrArg f h.notices

/-- A notice falls due on a ticket without a parent (R129). -/
theorem Core.Shows.notice (h : Core.Shows c d p ns) (hp : p n = some t) (hparent : t.parent = none) :
    Core.Shows c (d.noticeDue n) (update p n (some { t with noticePending := true })) (ns ++ if t.noticePending then [] else [n]) := by
  have hticket : d.ticket n = some t := by rw [h.ticket, hp]
  have hchild : d.childOfLiveGroup t = false := by simp only [Core.childOfLiveGroup, hparent, Option.bind_none]
  unfold Core.noticeDue
  rw [hticket]
  dsimp only
  rw [hchild, Bool.or_false]
  split
  · next hpending =>
    have hsame : ({ t with noticePending := true } : Ticket) = t := by rw [← hpending]
    rw [hsame, Function.update_eq_self_iff.mpr hp.symm, List.append_nil]
    exact h
  · exact (h.put (f := fun t => { t with noticePending := true }) hp fun _ => rfl).setNotices (· ++ [n])

/-- The record of a group is written. -/
theorem Core.Shows.setGroups (h : Core.Shows c d p ns) (gm : Gm) : Core.Shows c { d with gm := gm } p ns :=
  ⟨h.work.trans ⟨rfl, rfl, rfl, rfl, rfl, rfl, rfl⟩, h.ticket, h.notices⟩

/-! ### A ticket leaves the table (R111) -/

/-- Ticket t has left the table after such work, and the record of its subject does not name it. -/
structure Core.Drops (c d : Core) (t : Ticket) (p : Nat → Option Ticket) (ns : List Nat) : Prop where
  ticket : d.ticket = update p t.number none
  notices : d.tc.notices = ns.filter fun m => decide (m ≠ t.number)
  numbers : d.tc.tickets.map (·.number) = (c.tc.tickets.map (·.number)).filter fun m => decide (m ≠ t.number)
  counter : d.tc.counter = c.tc.counter
  time : d.timeMs = c.timeMs
  params : d.oh.params = c.oh.params
  line : ∀ l, d.line l =
    if t.kind = .line ∧ l = t.subject ∧ (c.line l).ticket = some t.number then { c.line l with ticket := none } else c.line l
  shelf : ∀ k, d.shelf k =
    if t.kind = .shelf ∧ k = t.subject ∧ (c.shelf k).ticket = some t.number then { c.shelf k with ticket := none } else c.shelf k
  testSet : ∀ k, d.testSet k =
    if t.kind = .testSet ∧ k = t.subject ∧ (c.testSet k).ticket = some t.number then { c.testSet k with ticket := none } else c.testSet k

theorem Core.Shows.drop (h : Core.Shows c d p ns) (hp : p n = some t) : Core.Drops c (d.dropTicket n) t p ns := by
  have hticket : d.ticket n = some t := by rw [h.ticket, hp]
  obtain ⟨-, rfl⟩ := Tc.find_some hticket
  have htickets := Core.dropTicket_tickets hticket
  have hparams := (Core.dropTicket_kept (.refl d) t.number).oh.params
  have hread : (d.dropTicket t.number).ticket = update p t.number none := by
    funext m
    unfold Core.ticket Tc.find
    rw [htickets, find?_number_ne, Function.update_apply, ← h.ticket]
    rfl
  have hnumbers : (d.dropTicket t.number).tc.tickets.map (·.number) =
      (c.tc.tickets.map (·.number)).filter fun m => decide (m ≠ t.number) := by
    rw [htickets, ← h.work.numbers, List.filter_map]
    rfl
  unfold Core.dropTicket at hread hnumbers hparams ⊢
  rw [hticket] at hread hnumbers hparams ⊢
  dsimp only at hread hnumbers hparams ⊢
  generalize hw : ((d.updTc fun tc => { tc with
    tickets := tc.tickets.filter fun u => decide (u.number ≠ t.number)
    notices := tc.notices.filter fun m => decide (m ≠ t.number) }).updOh fun o => o.recount t.counts none) = w at hread hnumbers hparams ⊢
  obtain ⟨htc, htime, -⟩ := w.clearReference_rest t
  have hline (l : Nat) : w.line l = c.line l := by rw [← hw, ← h.work.line]; rfl
  have hshelf (k : Nat) : w.shelf k = c.shelf k := by rw [← hw, ← h.work.shelf]; rfl
  have hset (k : Nat) : w.testSet k = c.testSet k := by rw [← hw, ← h.work.testSet]; rfl
  refine ⟨hread, (congrArg Tc.notices htc).trans ?_, hnumbers, (congrArg Tc.counter htc).trans ?_, htime.trans ?_,
    hparams.trans h.work.params, fun l => (w.clearReference_line t l).trans (by rw [hline]),
    fun k => (w.clearReference_shelf t k).trans (by rw [hshelf]), fun k => (w.clearReference_testSet t k).trans (by rw [hset])⟩
  · rw [← hw, ← h.notices]
    rfl
  · rw [← hw, ← h.work.counter]
    rfl
  · rw [← hw, ← h.work.time]
    rfl

end Sys2Proof.Machine
end

section
/-! PROOF of O38: the first notice is placed. -/

namespace Sys2Proof.Machine

variable {s : State} {n : Nat} {rest : List Nat} {t : Ticket}

/-- The notice sent: the ticket is pending no longer and leaves the list, and the table if it is CLOSING (R130). -/
def Core.noticeSent (c : Core) (n : Nat) (rest : List Nat) (closing : Bool) : Core :=
  let c := (c.putTicket n fun t => { t with noticePending := false }).updTc fun tc => { tc with notices := rest }
  if closing then c.dropTicket n else c

/-- The step of a TICKET_NOTICE_PLACE with a notice and a place for it. -/
theorem exec_ticketNoticePlace (hq : s.Quiet) (hn : s.core.tc.notices = n :: rest) (ht : s.core.ticket n = some t)
    (hroom : s.htp.up.insertion.length < 14) :
    exec .ticketNoticePlace s = .next
      (({ s with core := s.core.noticeSent n rest (decide (t.state = .closing)) } : State).withUpFrame
        { octets := highwayFrame 0 s.core.oh.station kindTicket (ticketPayload t ((s.core.children n).map (·.number))) }).refreshConditions := by
  have hplace : s.placeNotice = ({ s with core := s.core.noticeSent n rest (decide (t.state = .closing)) } : State).withUpFrame
      { octets := highwayFrame 0 s.core.oh.station kindTicket (ticketPayload t ((s.core.children n).map (·.number))) } := by
    unfold State.placeNotice Core.noticeSent
    simp only [hn, ht, State.upFree_iff.mpr hroom, if_true, decide_eq_true_eq]
    rfl
  have hready : (s.core.noticeSent n rest (decide (t.state = .closing))).oh.ready = s.core.oh.ready := by
    have hsent := (s.core.putTicket_frame n fun t => { t with noticePending := false }).2.ready
    unfold Core.noticeSent
    dsimp only
    split
    · exact (Core.dropTicket_kept (.refl _) n).oh.ready.trans hsent
    · exact hsent
  refine (State.command_of_live hq.live _).trans (congrArg _ ?_)
  rw [hplace]
  exact State.finish_of_settled (hready.trans hq.ready) hq.settled hq.latch

end Sys2Proof.Machine

open Sys2Proof Sys2Proof.Machine in
/-- Settles O38: the notice is sent, a CLOSING ticket is dropped, and the end of the command writes the OH's record alone. -/
theorem ticketNoticeIsPlaced : Obligations.TicketNoticeIsPlaced := by
  intro n rest t s hq hn ht hroom
  have hsent := ((Core.Shows.refl s.core).put (f := fun t => { t with noticePending := false }) ht fun _ => rfl).setNotices fun _ => rest
  have hread := congrFun hsent.ticket n
  rw [Function.update_self] at hread
  refine ⟨_, exec_ticketNoticePlace hq hn ht hroom, rfl, ?_⟩
  by_cases hc : t.state = .closing
  · have hdrop := hsent.drop (Function.update_self ..)
    obtain ⟨-, rfl⟩ := Tc.find_some ht
    rw [decide_eq_true hc]
    refine ⟨fun h => absurd hc h, fun _ => ⟨(congrFun hdrop.ticket _).trans (Function.update_self ..), hdrop.notices,
        (Core.dropTicket_tickets hread).trans ?_, fun hk hr => (hdrop.line t.subject).trans (if_pos ⟨hk, rfl, hr⟩),
        fun hk hr => (hdrop.shelf t.subject).trans (if_pos ⟨hk, rfl, hr⟩),
        fun hk hr => (hdrop.testSet t.subject).trans (if_pos ⟨hk, rfl, hr⟩)⟩,
      fun l hl => (hdrop.line l).trans (if_neg fun h => hl h.2.2), fun k hk => (hdrop.shelf k).trans (if_neg fun h => hk h.2.2),
      fun k hk => (hdrop.testSet k).trans (if_neg fun h => hk h.2.2), rfl, rfl, rfl, rfl, rfl⟩
    exact s.core.filter_putTicket t.number fun _ => rfl
  · rw [decide_eq_false hc]
    exact ⟨fun _ => ⟨rfl, hread, hsent.work.length⟩, fun h => absurd h hc, fun l _ => hsent.work.line l,
      fun k _ => hsent.work.shelf k, fun k _ => hsent.work.testSet k, rfl, rfl, rfl, rfl, rfl⟩
end

section
/-! SUPPORT. The group records: which tickets qualify (R134), when an examination does no more than bring the record up to date (R136), and
the GROUP ticket of a record (R133). -/

namespace Sys2Proof.Machine

variable {c d b : Core} {n key l : Nat} {t g : Ticket} {f : Family} {p : Nat → Option Ticket} {ns : List Nat}

/-! ### The record of a ticket (R133, R134) -/

theorem Family.key_iff {x : Nat} : 2 * x + f.index = key ↔ x = key / 2 ∧ f = if key % 2 = 0 then .wet else .brk := by
  cases f <;> simp only [Family.index] <;> split <;> simp <;> omega

theorem Core.groupKey_eq_some : c.groupKey t = some key ↔
    t.kind = .line ∧ (c.line t.subject).group ≤ 126 ∧ (c.line t.subject).group = key / 2
      ∧ t.cls.familyOf = some (if key % 2 = 0 then .wet else .brk) := by
  unfold Core.groupKey
  split
  · next f hk hf =>
    rw [hk, hf, Option.ite_none_right_eq_some, Option.some.injEq, Option.some.injEq, Family.key_iff]
    constructor
    · rintro ⟨hlt, hg, hfam⟩
      exact ⟨rfl, by omega, hg, hfam⟩
    · rintro ⟨-, hle, hg, hfam⟩
      exact ⟨by omega, hg, hfam⟩
  · next hno =>
    exact ⟨nofun, fun ⟨hk, _, _, hf⟩ => (hno _ hk hf).elim⟩

theorem TicketState.standing_iff {x : TicketState} : x.standing = true ↔ x = .opened ∨ x = .acknowledged := by
  cases x <;> simp [TicketState.standing]

theorem Core.standsIn_eq_some : c.standsIn t = some key ↔
    (t.state = .opened ∨ t.state = .acknowledged) ∧ t.parent = none ∧ c.groupKey t = some key := by
  unfold Core.standsIn
  rw [Option.ite_none_right_eq_some, Bool.and_eq_true, TicketState.standing_iff, Option.isNone_iff_eq_none, and_assoc]

/-! ### The qualifying tickets (R134) -/

theorem Core.mem_qualifying : t ∈ c.qualifying key ↔
    t ∈ c.tc.tickets ∧ c.standsIn t = some key ∧ c.now - t.firstSeen ≤ c.oh.params.groupWindow := by
  unfold Core.qualifying
  rw [(sortBy_perm _ _).mem_iff, List.mem_filter, Bool.and_eq_true, decide_eq_true_eq, decide_eq_true_eq]

theorem Core.qualifying_nodup (h : (c.tc.tickets.map (·.number)).Nodup) (key : Nat) : ((c.qualifying key).map (·.number)).Nodup := by
  refine ((sortBy_perm _ _).map _).nodup_iff.mpr ?_
  exact h.sublist (List.filter_sublist.map _)

/-- Of the LINE tickets the numbers read ticket n alone otherwise than in c. -/
def Core.Leaves (c : Core) (p : Nat → Option Ticket) (n : Nat) : Prop := ∀ m u, m ≠ n → p m = some u → u.kind = .line → c.ticket m = some u

theorem Core.Leaves.refl (c : Core) (n : Nat) : c.Leaves c.ticket n := fun _ _ _ h _ => h

theorem Core.Leaves.put (h : c.Leaves p n) (x : Option Ticket) : c.Leaves (Function.update p n x) n := fun m u hne hu hk =>
  h m u hne (by rwa [Function.update_of_ne hne] at hu) hk

theorem Core.Leaves.putOther (h : c.Leaves p n) {m : Nat} (hg : g.kind ≠ .line) : c.Leaves (Function.update p m (some g)) n :=
  fun j u hne hu hk => by
    by_cases hj : j = m
    · rw [hj, Function.update_self] at hu
      exact absurd (Option.some.inj hu ▸ hk) hg
    · exact h j u hne (by rwa [Function.update_of_ne hj] at hu) hk

/-- But for ticket n, the LINE tickets of d are tickets of c, on lines of the same cables, and the two read the same clock and parameters. -/
structure Core.Beside (c d : Core) (n : Nat) : Prop where
  now : d.now = c.now
  params : d.oh.params = c.oh.params
  numbers : (d.tc.tickets.map (·.number)).Nodup
  others : ∀ u ∈ d.tc.tickets, u.number ≠ n → u.kind = .line → u ∈ c.tc.tickets ∧ (d.line u.subject).group = (c.line u.subject).group

theorem Core.Beside.refl (hn : (c.tc.tickets.map (·.number)).Nodup) (n : Nat) : Core.Beside c c n :=
  ⟨rfl, rfl, hn, fun _ hu _ _ => ⟨hu, rfl⟩⟩

/-- Work on tickets that stand, which leaves the LINE tickets but ticket n. -/
theorem Core.Beside.shows (hb : Core.Beside c b n) (h : Core.Shows b d p ns)
    (hp : b.Leaves p n) : Core.Beside c d n where
  now := h.work.now.trans hb.now
  params := h.work.params.trans hb.params
  numbers := h.work.nodup hb.numbers
  others u hu hne hk := by
    have hread : p u.number = some u := by rw [← h.ticket]; exact Core.ticket_of_mem (h.work.nodup hb.numbers) hu
    rw [h.work.line]
    exact hb.others u (Tc.find_some (hp _ u hne hread hk)).1 hne hk

/-- A record of d lists at most one ticket more than in c. -/
theorem Core.Beside.qualifying_le (h : Core.Beside c d n) (key : Nat) : (d.qualifying key).length ≤ (c.qualifying key).length + 1 := by
  have hsub : (d.qualifying key).map (·.number) ⊆ n :: (c.qualifying key).map (·.number) := by
    intro m hm
    obtain ⟨u, hu, rfl⟩ := List.mem_map.mp hm
    obtain ⟨hmem, hstands, hwindow⟩ := Core.mem_qualifying.mp hu
    obtain ⟨hstate, hparent, hkey⟩ := Core.standsIn_eq_some.mp hstands
    by_cases hne : u.number = n
    · exact hne ▸ List.mem_cons_self
    · obtain ⟨hk, hle, hg, hf⟩ := Core.groupKey_eq_some.mp hkey
      obtain ⟨hc, hgroup⟩ := h.others u hmem hne hk
      rw [hgroup] at hle hg
      rw [h.now, h.params] at hwindow
      refine List.mem_cons_of_mem _ (List.mem_map_of_mem (Core.mem_qualifying.mpr ⟨hc, ?_, hwindow⟩))
      exact Core.standsIn_eq_some.mpr ⟨hstate, hparent, Core.groupKey_eq_some.mpr ⟨hk, hle, hg, hf⟩⟩
  simpa using ((Core.qualifying_nodup h.numbers key).subperm hsub).length_le

/-! ### Examinations that form no group (R136) -/

/-- Every record of the line's cable is below the group threshold. -/
def Core.Calm (c : Core) (l : Nat) : Prop := ∀ key, key / 2 = (c.line l).group → (c.qualifying key).length < c.oh.params.groupThreshold

theorem Core.Beside.calm (h : Core.Beside c d n)
    (hfar : ∀ key, key / 2 = (d.line l).group → (c.qualifying key).length + 1 < c.oh.params.groupThreshold) : d.Calm l := fun key hk => by
  have hle := h.qualifying_le key
  have hlt := hfar key hk
  rw [h.params]
  omega

/-- But for ticket n, the tickets are those of a core in which no record of the line's cable is even one ticket short of the threshold. -/
def Core.Remote (d : Core) (n l : Nat) : Prop :=
  ∃ c, Core.Beside c d n ∧ ∀ key, key / 2 = (d.line l).group → (c.qualifying key).length + 1 < c.oh.params.groupThreshold

theorem Core.remote_of (hn : (c.tc.tickets.map (·.number)).Nodup)
    (hfar : ∀ key, key / 2 = (c.line l).group → (c.qualifying key).length + 1 < c.oh.params.groupThreshold) (n : Nat) : c.Remote n l :=
  ⟨c, .refl hn n, hfar⟩

theorem Core.Remote.nodup (h : c.Remote n l) : (c.tc.tickets.map (·.number)).Nodup := by
  obtain ⟨_, hb, -⟩ := h
  exact hb.numbers

/-- Work on ticket n far from a group leaves the cable below the threshold. -/
theorem Core.Shows.calm (h : Core.Shows c d p ns) (hfar : c.Remote n l) (hl : c.Leaves p n) : d.Calm l := by
  obtain ⟨b, hb, hkeys⟩ := hfar
  exact (hb.shows h hl).calm fun key hk => hkeys key (by rwa [h.work.line] at hk)

/-- Below the threshold an examination writes the record alone. -/
theorem Core.examineGroup_below (h : (c.qualifying key).length < c.oh.params.groupThreshold) :
    c.examineGroup key =
      { c with gm := { c.gm with members := Table.set [] c.gm.members key ((c.qualifying key).map (·.number)) } } := by
  unfold Core.examineGroup
  exact if_pos h

theorem Core.examineHome_calm (ht : d.ticket n = some t) (h : d.Calm t.subject) : ∃ gm, d.examineHome n = { d with gm := gm } := by
  unfold Core.examineHome
  rw [ht, Option.bind_some]
  split
  · exact ⟨_, rfl⟩
  · next key hkey =>
    obtain ⟨-, -, hg, -⟩ := Core.groupKey_eq_some.mp hkey
    exact ⟨_, Core.examineGroup_below (h key hg.symm)⟩

theorem Core.examineOf_calm (ht : d.ticket n = some t) (h : d.Calm t.subject) : ∃ gm, d.examineOf n = { d with gm := gm } := by
  unfold Core.examineOf
  rw [ht, Option.bind_some]
  split
  · exact ⟨_, rfl⟩
  · next key hkey =>
    obtain ⟨-, -, hg, -⟩ := Core.groupKey_eq_some.mp (Core.standsIn_eq_some.mp hkey).2.2
    exact ⟨_, Core.examineGroup_below (h key hg.symm)⟩

theorem Core.Shows.examineHome (h : Core.Shows c d p ns) (hp : p n = some t) (hcalm : d.Calm t.subject) :
    Core.Shows c (d.examineHome n) p ns := by
  obtain ⟨gm, he⟩ := Core.examineHome_calm (by rw [h.ticket, hp]) hcalm
  rw [he]
  exact h.setGroups gm

theorem Core.Shows.examineOf (h : Core.Shows c d p ns) (hp : p n = some t) (hcalm : d.Calm t.subject) :
    Core.Shows c (d.examineOf n) p ns := by
  obtain ⟨gm, he⟩ := Core.examineOf_calm (by rw [h.ticket, hp]) hcalm
  rw [he]
  exact h.setGroups gm

/-! ### The GROUP ticket of a record (R133) -/

/-- A ticket is the GROUP ticket of a record. -/
def Ticket.heads (g : Ticket) (key : Nat) : Prop :=
  g.kind = .group ∧ g.subject = key / 2 ∧ g.cls = .family (if key % 2 = 0 then .wet else .brk)

theorem Core.groupTicket_some (h : c.groupTicket key = some g) : g ∈ c.tc.tickets ∧ g.heads key := by
  refine ⟨List.mem_of_find?_eq_some h, ?_⟩
  simpa [Ticket.heads, and_assoc] using List.find?_some h

theorem Core.groupTicket_eq_none : c.groupTicket key = none ↔ ∀ g ∈ c.tc.tickets, ¬g.heads key := by
  simp [Core.groupTicket, Ticket.heads, and_assoc]

theorem Core.liveGroup_none (h : c.groupTicket key = none) : c.liveGroup key = none := by simp only [Core.liveGroup, h]

theorem Core.liveGroup_some (h : c.groupTicket key = some g) (hg : g.state ≠ .closing) : c.liveGroup key = some g := by
  simp only [Core.liveGroup, h, if_neg hg]

/-- The first element of a kind, in a list whose elements of that kind a change leaves alone. -/
theorem find?_map_of_same {α : Type} {P : α → Bool} {F : α → α} {l : List α} (hP : ∀ u ∈ l, P (F u) = P u)
    (hF : ∀ u ∈ l, P u = true → F u = u) : (l.map F).find? P = l.find? P := by
  induction l with
  | nil => rfl
  | cons u l ih =>
    have hrest := ih (fun v hv => hP v (List.mem_cons_of_mem _ hv)) fun v hv => hF v (List.mem_cons_of_mem _ hv)
    have hu := hP u List.mem_cons_self
    rw [List.map_cons, List.find?_cons, List.find?_cons, hrest, hu]
    cases h : P u with
    | true => exact congrArg some (hF u List.mem_cons_self h)
    | false => rfl

/-- A change of a ticket of another kind leaves the GROUP tickets of the records. -/
theorem Core.groupTicket_put (hn : (c.tc.tickets.map (·.number)).Nodup) (ht : c.ticket n = some t) (hk : t.kind ≠ .group)
    {f : Ticket → Ticket} (hf : (f t).kind ≠ .group) (key : Nat) : (c.putTicket n f).groupTicket key = c.groupTicket key := by
  have hthe : ∀ u ∈ c.tc.tickets, u.number = n → u = t := by
    rintro u hu rfl
    exact Option.some.inj ((Core.ticket_of_mem hn hu).symm.trans ht)
  unfold Core.groupTicket
  rw [Core.putTicket_tickets]
  refine find?_map_of_same (fun u hu => ?_) fun u hu hP => ?_
  · split
    · next hnum =>
      rw [hthe u hu hnum]
      simp [hk, hf]
    · rfl
  · refine if_neg fun hnum => ?_
    rw [hthe u hu hnum] at hP
    simp [hk] at hP

end Sys2Proof.Machine
end

section
/-! SUPPORT. What notices, openings, adoptions and releases make of the tickets, one lemma an operation (R120, R129, R139–R141). -/

namespace Sys2Proof.Machine

open Function (update)

variable {c d : Core} {n l : Nat} {t u g : Ticket} {p : Nat → Option Ticket} {ns : List Nat}

theorem satSucc_eq (greatest n : Nat) : satSucc greatest n = min greatest (n + 1) := by
  unfold satSucc
  split <;> omega

/-! ### Tickets that stand alone -/

/-- A notice that falls due where `due` tells. -/
theorem Core.Shows.noticeIf (h : Core.Shows c d p ns) (hp : p n = some t) (hparent : t.parent = none) (due : Bool) :
    Core.Shows c (if due then d.noticeDue n else d) (update p n (some { t with noticePending := t.noticePending || due }))
      (ns ++ if due && !t.noticePending then [n] else []) := by
  cases due with
  | true => cases hq : t.noticePending <;> simpa [hq] using h.notice hp hparent
  | false =>
    have hsame : ({ t with noticePending := t.noticePending || false } : Ticket) = t := by rw [Bool.or_false]
    rw [hsame, Function.update_eq_self_iff.mpr hp.symm]
    simpa using h

/-- One ticket changed, with a notice. -/
theorem Core.Shows.becomes {due : Bool} (h : Core.Shows c d (update c.ticket n (some { t with noticePending := t.noticePending || due }))
    (c.tc.notices ++ if due && !t.noticePending then [n] else [])) : c.ticketBecomes d n t due := by
  refine ⟨by rw [h.ticket, Function.update_self], ?_, fun m hm => by rw [h.ticket, Function.update_of_ne hm]⟩
  rw [h.notices]
  split <;> simp

/-- One ticket changed, and nothing to tell. -/
theorem Core.Shows.becomesQuietly (h : Core.Shows c d (update c.ticket n (some t)) c.tc.notices) : c.ticketBecomes d n t false := by
  have hsame : ({ t with noticePending := t.noticePending || false } : Ticket) = t := by rw [Bool.or_false]
  exact Core.Shows.becomes (by simpa [hsame] using h)

/-- A ticket stands alone in a cable far from a group: its notice falls due. -/
theorem Core.Shows.standAlone (h : Core.Shows c d p ns) (hp : p n = some t) (hparent : t.parent = none) (hfar : c.Remote n t.subject)
    (hl : c.Leaves p n) : Core.Shows c (d.standAlone n) (update p n (some { t with noticePending := t.noticePending || true }))
      (ns ++ if true && !t.noticePending then [n] else []) := by
  have hnotice := h.noticeIf hp hparent true
  exact hnotice.examineOf (Function.update_self ..) (hnotice.calm hfar (hl.put _))

/-- What a PROVISIONAL ticket is that becomes OPEN. -/
def Ticket.opening (t : Ticket) : Ticket := { t with state := .opened, retest := none }

theorem Core.openProvisional_eq (d : Core) (n : Nat) : d.openProvisional n =
    match (((d.putTicket n Ticket.opening).ticket n).bind (d.putTicket n Ticket.opening).groupKey).bind
      (d.putTicket n Ticket.opening).liveGroup with
    | some g => (d.putTicket n Ticket.opening).adopt n g
    | none => (d.putTicket n Ticket.opening).standAlone n := rfl

/-- A PROVISIONAL ticket becomes OPEN where no group of its cable stands (R120, R121, R123). -/
theorem Core.Shows.openAlone (h : Core.Shows c d p ns) (hp : p n = some t) (hparent : t.parent = none) (hkind : t.kind = .line)
    (hfar : c.Remote n t.subject) (hl : c.Leaves p n) (hlone : ∀ key, key / 2 = (c.line t.subject).group → d.groupTicket key = none) :
    Core.Shows c (d.openProvisional n) (update p n (some { t.opening with noticePending := t.noticePending || true }))
      (ns ++ if true && !t.noticePending then [n] else []) := by
  have hput := h.put (f := Ticket.opening) hp fun _ => rfl
  have hread : (d.putTicket n Ticket.opening).ticket n = some t.opening := by rw [hput.ticket, Function.update_self]
  have hnone : (((d.putTicket n Ticket.opening).ticket n).bind (d.putTicket n Ticket.opening).groupKey).bind
      (d.putTicket n Ticket.opening).liveGroup = none := by
    rw [hread, Option.bind_some]
    refine Option.bind_eq_none_iff.mpr fun key hkey => Core.liveGroup_none ?_
    obtain ⟨-, -, hg, -⟩ := Core.groupKey_eq_some.mp hkey
    rw [hput.work.line] at hg
    have hticket : d.ticket n = some t := by rw [h.ticket, hp]
    rw [Core.groupTicket_put (h.work.nodup hfar.nodup) hticket (by rw [hkind]; exact nofun) (by rw [Ticket.opening, hkind]; exact nofun)]
    exact hlone key hg.symm
  have halone := hput.standAlone (Function.update_self ..) hparent hfar (hl.put _)
  rw [Function.update_idem] at halone
  rw [Core.openProvisional_eq, hnone]
  exact halone

/-! ### Adoptions (R139) -/

/-- What a ticket is that joins group ticket g, at this time: it joins a verification under way. -/
def Ticket.joining (t g : Ticket) (now : Nat) : Ticket :=
  { t with
    parent := some g.number
    state := if g.state = .verifying then .verifying else t.state
    retest := if g.state = .verifying then some { reason := .verify, due := .dueAt now } else t.retest }

/-- What a group ticket is that a child of this severity joins, at this time, but for its notice. -/
def Ticket.gaining (g : Ticket) (severity now : Nat) : Ticket :=
  { g with
    childCount := g.childCount + 1
    occurrences := min 255 (g.occurrences + 1)
    lastSeen := now
    severity := max g.severity severity }

theorem Core.adopt_eq (h : c.ticket n = some t) (g : Ticket) : c.adopt n g =
    let e := (c.putTicket n fun x => x.joining g c.now).putTicket g.number fun x => x.gaining t.severity c.now
    if g.severity < t.severity then e.noticeDue g.number else e := by
  have hjoin : (fun x : Ticket =>
      if g.state = .verifying then
        { x with parent := some g.number, state := .verifying, retest := some { reason := .verify, due := .dueAt c.now } }
      else { x with parent := some g.number }) = fun x => x.joining g c.now := by
    funext x
    unfold Ticket.joining
    split <;> rfl
  have hnow : (c.putTicket n fun x => x.joining g c.now).now = c.now :=
    (c.putTicket_tableWork n (f := fun x => x.joining g c.now) fun _ => rfl).now
  unfold Core.adopt
  rw [h]
  dsimp only
  rw [hjoin, hnow]
  simp only [satSucc_eq]
  rfl

/-- Ticket n, which is t, is adopted by group ticket g. -/
theorem Core.Shows.adopt (h : Core.Shows c d p ns) (hp : p n = some t) (hg : p g.number = some g) (hne : g.number ≠ n)
    (hparent : g.parent = none) :
    Core.Shows c (d.adopt n g)
      (update (update p n (some (t.joining g c.now))) g.number
        (some { g.gaining t.severity c.now with noticePending := g.noticePending || decide (g.severity < t.severity) }))
      (ns ++ if decide (g.severity < t.severity) && !g.noticePending then [g.number] else []) := by
  have hchild := h.put (f := fun x => x.joining g c.now) hp fun _ => rfl
  have hgroup := hchild.put (f := fun x => x.gaining t.severity c.now) (by rw [Function.update_of_ne hne, hg]) fun _ => rfl
  have hnotice := hgroup.noticeIf (Function.update_self ..) hparent (decide (g.severity < t.severity))
  rw [Function.update_idem] at hnotice
  simp only [decide_eq_true_eq] at hnotice
  rw [Core.adopt_eq (by rw [h.ticket, hp]), h.work.now]
  exact hnotice

/-- A ticket that is made OPEN, or was just created so, is adopted (R139). -/
theorem Core.Shows.adopted (h : Core.Shows d d (update c.ticket u.number (some u.opening)) c.tc.notices) (hnow : d.now = c.now)
    (hg : c.ticket g.number = some g) (hne : g.number ≠ u.number) (hparent : g.parent = none) : c.adopted (d.adopt u.number g) u g := by
  have hadopt := h.adopt (Function.update_self ..) (g := g) (by rw [Function.update_of_ne hne, hg]) hne hparent
  rw [Function.update_idem, hnow] at hadopt
  refine ⟨?_, ?_, ?_, fun m hm hmg => ?_⟩
  · rw [hadopt.ticket, Function.update_of_ne hne.symm, Function.update_self]
    rfl
  · rw [hadopt.ticket, Function.update_self]
    rfl
  · rw [hadopt.notices]
    show _ ++ (if (decide (g.severity < u.severity) && !g.noticePending) = true then _ else _) = _
    split <;> simp
  · rw [hadopt.ticket, Function.update_of_ne hmg, Function.update_of_ne hm]

/-- A PROVISIONAL ticket of a line becomes OPEN while a group ticket of its cable stands. -/
theorem Core.Shows.openAdopted (h : Core.Shows c d (update c.ticket u.number (some u)) c.tc.notices)
    (hn : (c.tc.tickets.map (·.number)).Nodup) (hkind : u.kind = .line) {key : Nat} (hkey : c.groupKey u = some key)
    (hg : d.groupTicket key = some g) (hstate : g.state ≠ .closing) (hparent : g.parent = none) : c.adopted (d.openProvisional u.number) u g := by
  have hu : d.ticket u.number = some u := by rw [h.ticket, Function.update_self]
  obtain ⟨hmem, hgroup, -⟩ := Core.groupTicket_some hg
  have hread : update c.ticket u.number (some u) g.number = some g := by
    rw [← h.ticket]
    exact Core.ticket_of_mem (h.work.nodup hn) hmem
  have hne : g.number ≠ u.number := by
    intro he
    rw [he, Function.update_self] at hread
    rw [← Option.some.inj hread, hkind] at hgroup
    cases hgroup
  rw [Function.update_of_ne hne] at hread
  have hput := h.put (f := Ticket.opening) (Function.update_self ..) fun _ => rfl
  rw [Function.update_idem] at hput
  have hlive : (((d.putTicket u.number Ticket.opening).ticket u.number).bind (d.putTicket u.number Ticket.opening).groupKey).bind
      (d.putTicket u.number Ticket.opening).liveGroup = some g := by
    have hbelongs : (d.putTicket u.number Ticket.opening).groupKey u.opening = some key := by
      rw [hput.work.groupKey]
      exact hkey
    have hgt := Core.groupTicket_put (f := Ticket.opening) (h.work.nodup hn) hu (by rw [hkind]; exact nofun)
      (by rw [Ticket.opening, hkind]; exact nofun) key
    rw [hput.ticket, Function.update_self, Option.bind_some, hbelongs, Option.bind_some, Core.liveGroup_some (hgt.trans hg) hstate]
  rw [Core.openProvisional_eq, hlive]
  exact Core.Shows.adopted ⟨.refl _, hput.ticket, hput.notices⟩ hput.work.now hread hne hparent

/-! ### Children that go (R141, R143) -/

/-- A group ticket with one child less, and its notice. -/
theorem Core.Shows.childGone (h : Core.Shows c d p ns) (hg : p g.number = some g) (hparent : g.parent = none) :
    Core.Shows c (d.childGone g.number)
      (update p g.number (some { g.childLess with noticePending := g.noticePending || decide (g.childCount ≤ 1) }))
      (ns ++ if decide (g.childCount ≤ 1) && !g.noticePending then [g.number] else []) := by
  have hput := h.put (f := Ticket.childLess) hg fun u => by unfold Ticket.childLess; split <;> rfl
  have hrest : g.childLess.parent = none ∧ g.childLess.noticePending = g.noticePending ∧ (g.childLess.childCount = 0 ↔ g.childCount ≤ 1) := by
    unfold Ticket.childLess
    split
    · next hle => exact ⟨hparent, rfl, iff_of_true rfl hle⟩
    · next hgt => exact ⟨hparent, rfl, by simp only; omega⟩
  obtain ⟨hp, hpending, hlast⟩ := hrest
  have hnotice := hput.noticeIf (Function.update_self ..) hp (decide (g.childCount ≤ 1))
  rw [Function.update_idem, hpending] at hnotice
  have hgone : d.childGone g.number =
      if g.childCount ≤ 1 then (d.putTicket g.number Ticket.childLess).noticeDue g.number else d.putTicket g.number Ticket.childLess := by
    have hticket : (d.putTicket g.number Ticket.childLess).ticket g.number = some g.childLess := by rw [hput.ticket, Function.update_self]
    have hunfold : d.childGone g.number =
        match (d.putTicket g.number Ticket.childLess).ticket g.number with
        | some g' => if g'.childCount = 0 then (d.putTicket g.number Ticket.childLess).noticeDue g.number
            else d.putTicket g.number Ticket.childLess
        | none => d.putTicket g.number Ticket.childLess := rfl
    rw [hunfold, hticket]
    simp only [hlast]
  rw [hgone]
  simpa only [decide_eq_true_eq] using hnotice

/-- A group ticket that has been shown a child's severity (R140). -/
def Ticket.shown (g : Ticket) (severity : Nat) : Ticket :=
  { g with severity := max g.severity severity, noticePending := g.noticePending || decide (g.severity < severity) }

theorem Ticket.shown_fields (g : Ticket) (severity : Nat) : (g.shown severity).number = g.number ∧ (g.shown severity).kind = g.kind
    ∧ (g.shown severity).childCount = g.childCount
    ∧ (g.shown severity).noticePending = (g.noticePending || decide (g.severity < severity)) := ⟨rfl, rfl, rfl, rfl⟩

/-- A child's class is shown to its group ticket (R140). -/
theorem Core.Shows.raiseParent (h : Core.Shows c d p ns) (hg : p g.number = some g) (hparent : g.parent = none) (shown : Nat) :
    Core.Shows c (d.raiseParent g.number shown)
      (update p g.number (some (g.shown shown)))
      (ns ++ if decide (g.severity < shown) && !g.noticePending then [g.number] else []) := by
  unfold Core.raiseParent
  rw [h.ticket, hg]
  dsimp only
  split
  · next hlt =>
    have hput := h.put (f := fun g => { g with severity := shown }) hg fun _ => rfl
    have hnotice := hput.noticeIf (Function.update_self ..) hparent true
    rw [Function.update_idem] at hnotice
    rw [Ticket.shown, Nat.max_eq_right hlt.le, decide_eq_true hlt]
    exact hnotice
  · next hge =>
    have hsame : g.shown shown = g := by
      rw [Ticket.shown, Nat.max_eq_left (Nat.le_of_not_lt hge), decide_eq_false hge, Bool.or_false]
    rw [hsame, Function.update_eq_self_iff.mpr hg.symm, decide_eq_false hge, Bool.false_and, if_neg Bool.false_ne_true, List.append_nil]
    exact h

/-- The child n of group ticket g, which is t, is released far from a group (R141). -/
theorem Core.Shows.releaseChild (h : Core.Shows c d p ns) (hp : p n = some t) (hchild : t.parent = some g.number)
    (hg : p g.number = some g) (hne : g.number ≠ n) (hkind : g.kind = .group) (hparent : g.parent = none) (hfar : c.Remote n t.subject)
    (hl : c.Leaves p n) :
    Core.Shows c (d.releaseChild n)
      (update (update p g.number (some { g.childLess with noticePending := g.noticePending || decide (g.childCount ≤ 1) })) n
        (some { t with parent := none, noticePending := t.noticePending || t.state.standing }))
      (ns ++ (if decide (g.childCount ≤ 1) && !g.noticePending then [g.number] else [])
        ++ if t.state.standing && !t.noticePending then [n] else []) := by
  have hput := h.put (f := fun t => { t with parent := none }) hp fun _ => rfl
  have hgone := hput.childGone (g := g) (by rw [Function.update_of_ne hne, hg]) hparent
  have hnotice := hgone.noticeIf (n := n) (t := { t with parent := none }) (by rw [Function.update_of_ne hne.symm, Function.update_self])
    rfl t.state.standing
  have hless : g.childLess.kind ≠ .line := by
    unfold Ticket.childLess
    split <;> rw [hkind] <;> exact nofun
  have hcalm := hnotice.calm hfar (((hl.put _).putOther (by exact hless)).put _)
  have hhome := hnotice.examineHome (Function.update_self ..) hcalm
  rw [Function.update_comm hne.symm, Function.update_idem] at hhome
  unfold Core.releaseChild
  rw [h.ticket, hp]
  dsimp only
  rw [hchild]
  exact hhome

/-- A released child, whose group ticket has first been shown a severity (R140, R141). -/
theorem Core.Shows.released (h : Core.Shows c d (update c.ticket u.number (some u)) c.tc.notices) (hg : c.ticket g.number = some g)
    (hne : g.number ≠ u.number) (hchild : u.parent = some g.number) (hkind : g.kind = .group) (hparent : g.parent = none)
    (hfar : c.Remote u.number u.subject) (shown : Nat) : c.released ((d.raiseParent g.number shown).releaseChild u.number) u g shown := by
  have hraise := h.raiseParent (g := g) (by rw [Function.update_of_ne hne, hg]) hparent shown
  have hl : c.Leaves (update c.ticket u.number (some u)) u.number := (Core.Leaves.refl c u.number).put _
  have hless : (g.shown shown).childLess =
      { g.childLess with severity := max g.severity shown, noticePending := g.noticePending || decide (g.severity < shown) } := by
    unfold Ticket.childLess Ticket.shown
    split <;> rfl
  obtain ⟨gnumber, gkind, gcount, gpending⟩ := g.shown_fields shown
  have hrelease := hraise.releaseChild (g := g.shown shown) (by rw [Function.update_of_ne hne.symm, Function.update_self]) hchild
    (Function.update_self ..) hne hkind hparent hfar (hl.putOther (by rw [gkind, hkind]; exact nofun))
  rw [gnumber, Function.update_idem, hless, gcount, gpending] at hrelease
  have hstands : decide (u.state = .opened ∨ u.state = .acknowledged) = u.state.standing :=
    Bool.eq_iff_iff.mpr (decide_eq_true_iff.trans TicketState.standing_iff.symm)
  refine ⟨?_, ?_, ?_, fun m hm hmg => ?_⟩
  · rw [hrelease.ticket, Function.update_self, hstands]
  · rw [hrelease.ticket, Function.update_of_ne hne, Function.update_self, Bool.decide_or, Bool.or_assoc, Bool.or_comm (decide (_ < _))]
  · rw [hrelease.notices, hstands, Bool.decide_or]
    congr 1
    cases g.noticePending <;> cases decide (g.severity < shown) <;> cases decide (g.childCount ≤ 1) <;> simp
  · rw [hrelease.ticket, Function.update_of_ne hm, Function.update_of_ne hmg, Function.update_of_ne hm]

/-- A released child, whose group ticket has been shown nothing. -/
theorem Core.Shows.released_unshown (h : Core.Shows c d (update c.ticket u.number (some u)) c.tc.notices) (hg : c.ticket g.number = some g)
    (hne : g.number ≠ u.number) (hchild : u.parent = some g.number) (hkind : g.kind = .group) (hparent : g.parent = none)
    (hfar : c.Remote u.number u.subject) : c.released (d.releaseChild u.number) u g 0 := by
  have hsame : d.raiseParent g.number 0 = d := by
    unfold Core.raiseParent
    split
    · exact if_neg (Nat.not_lt_zero _)
    · rfl
  simpa only [hsame] using h.released hg hne hchild hkind hparent hfar 0

end Sys2Proof.Machine
end

section
/-! SUPPORT. What a failure and the end of a retest make of a ticket that stands alone or is a group's child (R116–R126, R140, R143). -/

namespace Sys2Proof.Machine

open Function (update)

variable {c d : Core} {n l : Nat} {t u g : Ticket} {cls : FaultClass} {values : Option (List LastValue)} {direct : Bool}

/-! ### The update of R120 -/

theorem Ticket.update_eq (t : Ticket) (now : Nat) (cls : FaultClass) (values : Option (List LastValue)) :
    t.update now cls values =
      { t with
        lastSeen := now
        occurrences := min 255 (t.occurrences + 1)
        unconfirmed := false
        lastValues := values.getD t.lastValues
        cls := if t.severity < cls.severity then .fault cls else t.cls
        severity := if t.severity < cls.severity then cls.severity else t.severity } := by
  unfold Ticket.update
  dsimp only
  rw [satSucc_eq]
  split <;> rfl

/-- The update by a run, whose values a DEGRADING report beside it does not bring (R109). -/
theorem Ticket.update_handed (t : Ticket) (now : Nat) (cls : FaultClass) (v : List LastValue) (degrading : Bool) :
    t.update now cls (if degrading then none else some v) =
      { t with
        lastSeen := now
        occurrences := min 255 (t.occurrences + 1)
        unconfirmed := false
        lastValues := if degrading then t.lastValues else v
        cls := if t.severity < cls.severity then .fault cls else t.cls
        severity := if t.severity < cls.severity then cls.severity else t.severity } := by
  rw [Ticket.update_eq]
  cases degrading <;> rfl

theorem Ticket.reopen_eq (t : Ticket) : t.reopen = { t with state := .opened, reopened := min 15 (t.reopened + 1), retest := none } := by
  unfold Ticket.reopen
  rw [satSucc_eq]

/-- The core with ticket n updated by a failure. -/
def Core.updated (c : Core) (n : Nat) (cls : FaultClass) (values : Option (List LastValue)) : Core :=
  c.putTicket n fun t => t.update c.now cls values

theorem Core.updated_shows (h : c.ticket n = some t) (cls : FaultClass) (values : Option (List LastValue)) :
    Core.Shows c (c.updated n cls values) (update c.ticket n (some (t.update c.now cls values))) c.tc.notices :=
  (Core.Shows.refl c).put (f := fun t => t.update c.now cls values) h fun u => by rw [Ticket.update_eq]

/-! ### What a failure does, by the ticket's state and parent (R120, R140, R143) -/

theorem Core.failure_provisional (h : c.ticket n = some t) (hs : t.state = .provisional) :
    c.failure n cls values direct = if direct then (c.updated n cls values).openProvisional n else c.updated n cls values := by
  unfold Core.failure
  rw [h]
  dsimp only
  rw [hs]
  rfl

theorem Core.failure_alone (h : c.ticket n = some t) (hs : t.state = .opened ∨ t.state = .acknowledged) (hp : t.parent = none) :
    c.failure n cls values direct =
      let e := if decide (t.severity < cls.severity) then (c.updated n cls values).noticeDue n else c.updated n cls values
      if ((c.updated n cls values).ticket n).bind (c.updated n cls values).groupKey ≠ c.groupKey t then e.examineOf n else e := by
  unfold Core.failure
  rw [h]
  dsimp only
  rw [hp]
  rcases hs with hs | hs <;> rw [hs] <;> simp only [decide_eq_true_eq] <;> rfl

theorem Core.failure_child (h : c.ticket n = some t) (hs : t.state = .opened ∨ t.state = .acknowledged) {parent : Nat}
    (hp : t.parent = some parent) :
    c.failure n cls values direct =
      let e := (c.updated n cls values).raiseParent parent (if t.severity < cls.severity then cls.severity else 0)
      if ((c.updated n cls values).ticket n).bind (c.updated n cls values).groupKey ≠ c.groupKey t then e.releaseChild n else e := by
  unfold Core.failure
  rw [h]
  dsimp only
  rw [hp]
  rcases hs with hs | hs <;> rw [hs] <;> simp only [decide_eq_true_eq] <;> rfl

theorem Core.failure_reopens (h : c.ticket n = some t) (hs : t.state = .verifying ∨ t.state = .closing) (hp : t.parent = none) :
    c.failure n cls values direct = ((c.updated n cls values).putTicket n Ticket.reopen).standAlone n := by
  unfold Core.failure
  rw [h]
  dsimp only
  rw [hp]
  rcases hs with hs | hs <;> rw [hs] <;> rfl

theorem Core.failure_reopens_child (h : c.ticket n = some t) (hs : t.state = .verifying ∨ t.state = .closing) {parent : Nat}
    (hp : t.parent = some parent) :
    c.failure n cls values direct = ((c.updated n cls values).putTicket n Ticket.reopen).releaseChild n := by
  unfold Core.failure
  rw [h]
  dsimp only
  rw [hp]
  rcases hs with hs | hs <;> rw [hs] <;> rfl

/-! ### A PROVISIONAL ticket (R120, R121, R123) -/

/-- A PROVISIONAL ticket without a parent opens, far from a group. -/
theorem Core.Shows.openBecomes (h : Core.Shows c d (update c.ticket n (some u)) c.tc.notices) (hp : u.parent = none) (hk : u.kind = .line)
    (hfar : c.Remote n u.subject) (hlone : ∀ key, key / 2 = (c.line u.subject).group → d.groupTicket key = none) :
    c.ticketBecomes (d.openProvisional n) n u.opening true := by
  have hopen := h.openAlone (Function.update_self ..) hp hk hfar ((Core.Leaves.refl c n).put _) hlone
  rw [Function.update_idem] at hopen
  exact Core.Shows.becomes hopen

theorem Core.updated_groupTicket (hn : (c.tc.tickets.map (·.number)).Nodup) (h : c.ticket n = some t) (hk : t.kind = .line)
    (cls : FaultClass) (values : Option (List LastValue)) (key : Nat) : (c.updated n cls values).groupTicket key = c.groupTicket key :=
  Core.groupTicket_put hn h (by rw [hk]; exact nofun) (by rw [Ticket.update_eq, hk]; exact nofun) key

/-- A failure that is not direct leaves a PROVISIONAL ticket so. -/
theorem Core.failure_provisional_becomes (h : c.ticket n = some t) (hs : t.state = .provisional) :
    c.ticketBecomes (c.failure n cls values false) n (t.update c.now cls values) false := by
  rw [Core.failure_provisional h hs]
  exact (Core.updated_shows h cls values).becomesQuietly

/-! ### A failure of a ticket that stands alone, far from a group -/

section

variable (h : c.ticket n = some t) (hp : t.parent = none) (hfar : c.Remote n t.subject)
include h hp hfar

theorem Core.failure_alone_becomes (hs : t.state = .opened ∨ t.state = .acknowledged) :
    c.ticketBecomes (c.failure n cls values direct) n (t.update c.now cls values) (decide (t.severity < cls.severity)) := by
  have hupdated := Core.updated_shows h cls values
  have hfields : (t.update c.now cls values).parent = none ∧ (t.update c.now cls values).subject = t.subject := by
    rw [Ticket.update_eq]
    exact ⟨hp, rfl⟩
  obtain ⟨hparent, hsubject⟩ := hfields
  have hnotice := hupdated.noticeIf (Function.update_self ..) hparent (decide (t.severity < cls.severity))
  rw [Function.update_idem] at hnotice
  refine Core.Shows.becomes ?_
  rw [Core.failure_alone h hs hp]
  dsimp only
  split
  · exact hnotice.examineOf (Function.update_self ..)
      (hnotice.calm (by exact hsubject.symm ▸ hfar) ((Core.Leaves.refl c n).put _))
  · exact hnotice

/-- A direct one opens it, where no group of the cable stands. -/
theorem Core.failure_opens_becomes (hs : t.state = .provisional) (hk : t.kind = .line)
    (hlone : ∀ key, key / 2 = (c.line t.subject).group → c.groupTicket key = none) :
    c.ticketBecomes (c.failure n cls values true) n (t.update c.now cls values).opening true := by
  rw [Core.failure_provisional h hs, if_pos rfl]
  have hshows := Core.updated_shows h cls values
  have hlone' := fun key hkey => (Core.updated_groupTicket hfar.nodup h hk cls values key).trans (hlone key hkey)
  have hu := Ticket.update_eq t c.now cls values
  generalize t.update c.now cls values = u at *
  obtain ⟨hparent, hkind, hsubject⟩ : u.parent = none ∧ u.kind = .line ∧ u.subject = t.subject := by
    rw [hu]
    exact ⟨hp, hk, rfl⟩
  exact hshows.openBecomes hparent hkind (hsubject ▸ hfar) (hsubject ▸ hlone')

theorem Core.failure_reopens_becomes (hs : t.state = .verifying ∨ t.state = .closing) :
    c.ticketBecomes (c.failure n cls values direct) n (t.update c.now cls values).reopen true := by
  have hreopen := (Core.updated_shows h cls values).put (f := Ticket.reopen) (Function.update_self ..) fun _ => rfl
  rw [Function.update_idem] at hreopen
  have hfields : (t.update c.now cls values).reopen.parent = none ∧ (t.update c.now cls values).reopen.subject = t.subject := by
    rw [Ticket.update_eq]
    exact ⟨hp, rfl⟩
  obtain ⟨hparent, hsubject⟩ := hfields
  have halone := hreopen.standAlone (Function.update_self ..) hparent (hsubject.symm ▸ hfar) ((Core.Leaves.refl c n).put _)
  rw [Function.update_idem] at halone
  rw [Core.failure_reopens h hs hp]
  exact halone.becomes

end

/-! ### A failure of a child, far from a group (R140, R141, R143) -/

theorem Core.groupKey_congr {a b : Ticket} (hk : a.kind = b.kind) (hs : a.subject = b.subject) (hf : a.cls.familyOf = b.cls.familyOf) :
    c.groupKey a = c.groupKey b := by
  unfold Core.groupKey
  rw [hk, hs, hf]

/-- Tickets of one line and of two families belong to different records. -/
theorem Core.groupKey_ne {a b : Ticket} (ha : a.kind = .line) (hs : a.subject = b.subject) (hg : (c.line a.subject).group ≤ 126)
    (hf : a.cls.familyOf ≠ b.cls.familyOf) (hb : b.kind = .line) : c.groupKey a ≠ c.groupKey b := by
  intro he
  cases hkey : c.groupKey b with
  | some key =>
    rw [hkey] at he
    exact hf ((Core.groupKey_eq_some.mp he).2.2.2.trans (Core.groupKey_eq_some.mp hkey).2.2.2.symm)
  | none =>
    rw [hkey] at he
    have hno {x : Ticket} (hx : x.kind = .line) (hsub : x.subject = a.subject) (hnone : c.groupKey x = none) : x.cls.familyOf = none := by
      cases hfam : x.cls.familyOf with
      | none => rfl
      | some f =>
        unfold Core.groupKey at hnone
        rw [hx, hfam, hsub] at hnone
        simp only [if_pos (Nat.lt_succ_of_le hg), reduceCtorEq] at hnone
    exact hf ((hno ha rfl he).trans (hno hb hs.symm hkey).symm)

section

variable (h : c.ticket t.number = some t) (hp : t.parent = some g.number) (hg : c.ticket g.number = some g) (hkind : g.kind = .group)
  (hparent : g.parent = none) (hline : t.kind = .line) (hfar : c.Remote t.number t.subject)
include h hg hkind hline

theorem Core.parent_number_ne : g.number ≠ t.number := by
  intro he
  rw [he, h] at hg
  rw [← Option.some.inj hg, hline] at hkind
  cases hkind

include hp hparent

/-- A failure leaves an OPEN or ACKNOWLEDGED child in its record: its group is shown the severity (R140). -/
theorem Core.failure_child_stays (hs : t.state = .opened ∨ t.state = .acknowledged)
    (hstays : c.groupKey (t.update c.now cls values) = c.groupKey t) :
    let shown := if t.severity < cls.severity then cls.severity else 0
    Core.Shows c (c.failure t.number cls values direct)
      (update (update c.ticket t.number (some (t.update c.now cls values))) g.number (some (g.shown shown)))
      (c.tc.notices ++ if decide (g.severity < shown) && !g.noticePending then [g.number] else []) := by
  have hne := Core.parent_number_ne h hg hkind hline
  have hupdated := Core.updated_shows h cls values
  have hmoves : ((c.updated t.number cls values).ticket t.number).bind (c.updated t.number cls values).groupKey = c.groupKey t := by
    rw [hupdated.ticket, Function.update_self, Option.bind_some, hupdated.work.groupKey]
    exact hstays
  rw [Core.failure_child h hs hp]
  dsimp only
  rw [if_neg (not_not_intro hmoves)]
  exact hupdated.raiseParent (by rw [Function.update_of_ne hne, hg]) hparent _

include hfar

/-- A failure raises an OPEN or ACKNOWLEDGED child into another record: its group is shown the severity and releases it (log 33). -/
theorem Core.failure_child_released (hs : t.state = .opened ∨ t.state = .acknowledged)
    (hmoved : c.groupKey (t.update c.now cls values) ≠ c.groupKey t) :
    c.released (c.failure t.number cls values direct) (t.update c.now cls values) g (if t.severity < cls.severity then cls.severity else 0) := by
  have hne := Core.parent_number_ne h hg hkind hline
  have hupdated := Core.updated_shows h cls values
  have hmoves : ((c.updated t.number cls values).ticket t.number).bind (c.updated t.number cls values).groupKey ≠ c.groupKey t := by
    rw [hupdated.ticket, Function.update_self, Option.bind_some, hupdated.work.groupKey]
    exact hmoved
  rw [Core.failure_child h hs hp]
  dsimp only
  rw [if_pos hmoves]
  have hu := Ticket.update_eq t c.now cls values
  generalize t.update c.now cls values = u at *
  obtain ⟨hnumber, hchild, hsubject⟩ : u.number = t.number ∧ u.parent = some g.number ∧ u.subject = t.subject := by
    rw [hu]
    exact ⟨rfl, hp, rfl⟩
  rw [← hnumber] at hupdated hne hfar ⊢
  exact hupdated.released hg hne hchild hkind hparent (hsubject ▸ hfar) _

/-- A failure reopens a VERIFYING child, and its group releases it (R143). -/
theorem Core.failure_child_reopened (hs : t.state = .verifying) :
    c.released (c.failure t.number cls values direct) (t.update c.now cls values).reopen g 0 := by
  have hne := Core.parent_number_ne h hg hkind hline
  have hreopen := (Core.updated_shows h cls values).put (f := Ticket.reopen) (Function.update_self ..) fun _ => rfl
  rw [Function.update_idem] at hreopen
  rw [Core.failure_reopens_child h (.inl hs) hp]
  have hu := Ticket.update_eq t c.now cls values
  generalize (c.updated t.number cls values).putTicket t.number Ticket.reopen = d at *
  generalize t.update c.now cls values = u at *
  obtain ⟨hnumber, hchild, hsubject⟩ : u.reopen.number = t.number ∧ u.reopen.parent = some g.number ∧ u.reopen.subject = t.subject := by
    rw [hu]
    exact ⟨rfl, hp, rfl⟩
  rw [← hnumber] at hreopen hne hfar ⊢
  exact hreopen.released_unshown hg hne hchild hkind hparent (hsubject ▸ hfar)

end

/-! ### The end of a retest (R121, R123, R126, R143) -/

/-- What a ticket is that a failing CONFIRM retest updates (R121). -/
def Ticket.confirmed (t : Ticket) (now : Nat) (cls : FaultClass) (values : List LastValue) : Ticket :=
  let u := t.update now cls (some values)
  if sameFamily t.cls cls then u else { u with cls := .fault cls, severity := cls.severity }

theorem Core.confirmFail_eq (c : Core) (n : Nat) (cls : FaultClass) (values : List LastValue) :
    c.confirmFail n cls values = (c.putTicket n fun t => t.confirmed c.now cls values).openProvisional n := rfl

theorem Ticket.confirmed_fields (t : Ticket) (now : Nat) (cls : FaultClass) (values : List LastValue) :
    (t.confirmed now cls values).number = t.number ∧ (t.confirmed now cls values).kind = t.kind
      ∧ (t.confirmed now cls values).subject = t.subject ∧ (t.confirmed now cls values).parent = t.parent := by
  unfold Ticket.confirmed
  dsimp only
  rw [Ticket.update_eq]
  split <;> exact ⟨rfl, rfl, rfl, rfl⟩

/-- The class is raised within the family, and replaced across families (R121). -/
theorem Ticket.confirmed_eq (t : Ticket) (now : Nat) (cls : FaultClass) (values : List LastValue) {raised : Bool}
    (hraised : raised = true ↔ sameFamily t.cls cls = false ∨ t.severity < cls.severity) :
    t.confirmed now cls values =
      { t with
        lastSeen := now
        occurrences := min 255 (t.occurrences + 1)
        unconfirmed := false
        lastValues := values
        cls := if raised then .fault cls else t.cls
        severity := if raised then cls.severity else t.severity } := by
  unfold Ticket.confirmed
  dsimp only
  rw [Ticket.update_eq]
  cases hsame : sameFamily t.cls cls with
  | true =>
    have hiff : raised = true ↔ t.severity < cls.severity := by rw [hraised, hsame]; simp
    simp only [hiff, if_true, Option.getD_some]
  | false =>
    have htrue : raised = true := hraised.mpr (.inl hsame)
    simp only [htrue, if_true, Bool.false_eq_true, if_false, Option.getD_some]

/-- A retest that ends without a verdict falls due again (R123). -/
theorem Core.retestAttempt_again (h : c.ticket n = some t) {w : Retest} (hw : t.retest = some w)
    (hagain : ¬(w.reason = .confirm ∧ 2 ≤ w.attempts)) (idle : Bool) :
    c.retestAttempt n idle = c.putTicket n fun t => { t with
      retest := some { reason := w.reason, attempts := min 3 (w.attempts + 1),
                       due := if idle then .whenIdle else .dueAt (c.now + c.oh.params.confirmDelay) } } := by
  have hnot : ¬(w.reason = .confirm ∧ 3 ≤ satSucc 3 w.attempts) := fun ⟨hr, ha⟩ => hagain ⟨hr, by rw [satSucc_eq] at ha; omega⟩
  unfold Core.retestAttempt
  simp only [h, hw]
  rw [if_neg hnot, satSucc_eq]

/-- A CONFIRM retest is given up at its third attempt (R123). -/
theorem Core.retestAttempt_givenUp (h : c.ticket n = some t) {w : Retest} (hw : t.retest = some w) (hr : w.reason = .confirm)
    (ha : 2 ≤ w.attempts) (idle : Bool) :
    c.retestAttempt n idle = (c.putTicket n fun t => { t with unconfirmed := true }).openProvisional n := by
  have hpos : w.reason = .confirm ∧ 3 ≤ satSucc 3 w.attempts := ⟨hr, by rw [satSucc_eq]; omega⟩
  unfold Core.retestAttempt
  simp only [h, hw]
  rw [if_pos hpos]

end Sys2Proof.Machine
end

section
/-! SUPPORT. Tickets that enter and leave the table, and what the hand-over of a run comes to (R111, R114–R119, R126). -/

namespace Sys2Proof.Machine

open Function (update)

variable {c d b : Core} {n l : Nat} {t u g : Ticket} {r : Request} {reason : Reason} {outcome : RunOutcome} {fault : Option FaultClass}
  {results : List StepResult} {degrading : Bool} {cls : FaultClass}

/-! ### A ticket enters (R111, R114) -/

/-- Ticket t as it enters the table of c. -/
def Core.numbered (c : Core) (t : Ticket) : Ticket := { t with number := c.tc.freeNumber 256 c.tc.counter, creation := c.tc.created }

/-- Ticket t in the table of c, and in the record of its line l (R111, R117). -/
def Core.enterLine (c : Core) (l : Nat) (t : Ticket) : Core :=
  (c.enter t).1.updLine l fun r => { r with ticket := some (c.numbered t).number, unticketed := false }

/-- d is c with ticket t in its table, and no group of a line other than in c. -/
structure Core.Entered (c d : Core) (t : Ticket) : Prop where
  tickets : d.tc.tickets = c.tc.tickets ++ [t]
  notices : d.tc.notices = c.tc.notices
  counter : d.tc.counter = nextNumber t.number
  now : d.now = c.now
  params : d.oh.params = c.oh.params
  group : ∀ k, (d.line k).group = (c.line k).group

theorem Core.enter_entered (c : Core) (t : Ticket) : Core.Entered c (c.enter t).1 (c.numbered t) :=
  ⟨rfl, rfl, rfl, rfl, (Oh.recount_kept ..).params, fun _ => rfl⟩

theorem Core.enterLine_entered (c : Core) (l : Nat) (t : Ticket) : Core.Entered c (c.enterLine l t) (c.numbered t) := by
  refine ⟨rfl, rfl, rfl, rfl, (Oh.recount_kept ..).params, fun k => ?_⟩
  show (((c.enter t).1.updLine l _).line k).group = _
  rw [Core.line_updLine]
  split
  · next h => rw [h]; rfl
  · rfl

section

variable (h : Core.Entered c d t) (hfree : ∀ u ∈ c.tc.tickets, u.number ≠ t.number)
include h

theorem Core.Entered.length : d.tc.tickets.length = c.tc.tickets.length + 1 := by rw [h.tickets, List.length_append]; rfl

theorem Core.Entered.groupTicket (hk : t.kind ≠ .group) (key : Nat) : d.groupTicket key = c.groupTicket key := by
  unfold Core.groupTicket
  rw [h.tickets, List.find?_append, List.find?_cons_of_neg (by simp [hk]), List.find?_nil, Option.or_none]

theorem Core.Entered.groupKey (u : Ticket) : d.groupKey u = c.groupKey u := by
  unfold Core.groupKey
  simp only [h.group]

include hfree

theorem Core.Entered.ticket : d.ticket = update c.ticket t.number (some t) := by
  funext m
  unfold Core.ticket Tc.find
  rw [h.tickets, List.find?_append, Function.update_apply]
  split
  · next hm =>
    subst hm
    rw [List.find?_eq_none.mpr fun u hu => by simpa using hfree u hu, Option.none_or, List.find?_cons_of_pos (by simp)]
  · next hm =>
    rw [List.find?_cons_of_neg (by simpa using Ne.symm hm), List.find?_nil, Option.or_none]

theorem Core.Entered.nodup (hn : (c.tc.tickets.map (·.number)).Nodup) : (d.tc.tickets.map (·.number)).Nodup := by
  rw [h.tickets, List.map_append]
  refine List.nodup_append.mpr ⟨hn, List.nodup_singleton _, fun m hm k hk he => ?_⟩
  obtain ⟨u, hu, rfl⟩ := List.mem_map.mp hm
  exact hfree u hu (he.trans (List.mem_singleton.mp hk))

theorem Core.Entered.beside (hn : (c.tc.tickets.map (·.number)).Nodup) : Core.Beside c d t.number where
  now := h.now
  params := h.params
  numbers := h.nodup hfree hn
  others u hu hne _ := by
    rw [h.tickets, List.mem_append, List.mem_singleton] at hu
    refine ⟨hu.resolve_right fun he => hne (congrArg Ticket.number he), h.group u.subject⟩

theorem Core.Entered.remote (hn : (c.tc.tickets.map (·.number)).Nodup)
    (hfar : ∀ key, key / 2 = (c.line l).group → (c.qualifying key).length + 1 < c.oh.params.groupThreshold) : d.Remote t.number l :=
  ⟨c, h.beside hfree hn, fun key hk => hfar key (by rwa [h.group] at hk)⟩

end

/-- A table of different numbers is told by its numbers and what each reads. -/
theorem Core.map_some_tickets (hn : (c.tc.tickets.map (·.number)).Nodup) :
    c.tc.tickets.map some = (c.tc.tickets.map (·.number)).map c.ticket := by
  rw [List.map_map]
  exact List.map_congr_left fun u hu => (Core.ticket_of_mem hn hu).symm

/-- The table after work on the ticket that has just entered it. -/
theorem Core.Entered.tickets_of_shows (h : Core.Entered c b t) (hfree : ∀ u ∈ c.tc.tickets, u.number ≠ t.number)
    (hn : (c.tc.tickets.map (·.number)).Nodup) {ns : List Nat} (hd : Core.Shows b d (update b.ticket t.number (some u)) ns) :
    d.tc.tickets = c.tc.tickets ++ [u] := by
  have hnodup := hd.work.nodup (h.nodup hfree hn)
  refine List.map_injective_iff.mpr (Option.some_injective Ticket) ?_
  rw [Core.map_some_tickets hnodup, hd.work.numbers, hd.ticket, h.ticket hfree, Function.update_idem, h.tickets, List.map_append, List.map_append,
    List.map_append, Core.map_some_tickets hn]
  congr 1
  · refine List.map_congr_left fun m hm => Function.update_of_ne ?_ ..
    obtain ⟨v, hv, rfl⟩ := List.mem_map.mp hm
    exact hfree v hv
  · simp

/-! ### A line's ticket is created (R117–R119, R139) -/

/-- A line's ticket as it is created OPEN, but for its number. -/
def Core.newTicket (c : Core) (l : Nat) (cls : FaultClass) (values : List LastValue) : Ticket :=
  { number := 0, kind := .line, subject := l, cls := .fault cls, severity := cls.severity, state := .opened, firstSeen := c.now,
    lastSeen := c.now, lastValues := values }

theorem Core.createLine_adopts (hroom : c.tc.tickets.length < 256) {values : List LastValue}
    (hg : (c.groupKey (c.newTicket l cls values)).bind c.liveGroup = some g) (provisional : Bool) :
    c.createLine l cls provisional values =
      (c.enterLine l (c.newTicket l cls values)).adopt (c.numbered (c.newTicket l cls values)).number g := by
  unfold Core.createLine
  rw [show c.makeRoom = (c, true) from if_pos hroom]
  dsimp only
  rw [if_pos rfl]
  unfold Core.newTicket at hg
  rw [hg]
  rfl

theorem Core.createLine_alone (hroom : c.tc.tickets.length < 256) {values : List LastValue}
    (hg : (c.groupKey (c.newTicket l cls values)).bind c.liveGroup = none) :
    c.createLine l cls false values =
      (c.enterLine l (c.newTicket l cls values)).standAlone (c.numbered (c.newTicket l cls values)).number := by
  unfold Core.createLine
  rw [show c.makeRoom = (c, true) from if_pos hroom]
  dsimp only
  rw [if_pos rfl]
  unfold Core.newTicket at hg
  rw [hg]
  rfl

theorem Core.createLine_provisional (hroom : c.tc.tickets.length < 256) {values : List LastValue}
    (hg : (c.groupKey (c.newTicket l cls values)).bind c.liveGroup = none) :
    c.createLine l cls true values = c.enterLine l { c.newTicket l cls values with
      state := .provisional
      retest := some { reason := .confirm, due := .dueAt (c.now + c.oh.params.confirmDelay) } } := by
  unfold Core.createLine
  rw [show c.makeRoom = (c, true) from if_pos hroom]
  dsimp only
  rw [if_pos rfl]
  unfold Core.newTicket at hg
  rw [hg]
  rfl

/-- No group of the line's cable and of the class's family stands. -/
theorem Core.noLiveGroup {values : List LastValue}
    (h : ∀ key, key / 2 = (c.line l).group → cls.family = some (if key % 2 = 0 then .wet else .brk) → c.groupTicket key = none) :
    (c.groupKey (c.newTicket l cls values)).bind c.liveGroup = none := by
  refine Option.bind_eq_none_iff.mpr fun key hkey => Core.liveGroup_none ?_
  obtain ⟨-, -, hg, hf⟩ := Core.groupKey_eq_some.mp hkey
  exact h key hg.symm hf

/-! ### The hand-over of a run (R116, R119) -/

theorem lastValuesOf_eq (results : List StepResult) : lastValuesOf results = valuesFrom results := rfl

theorem Core.matched_of (h : c.matchedWith r reason t) : c.matched r.line reason r.ticketRef = some t := by
  obtain ⟨-, -, href, hticket, hk, hs, w, hw, hr, hdue⟩ := h
  unfold Core.matched
  rw [href, Option.bind_some, hticket]
  simp [hw, hk, hs, hr, hdue]

theorem Core.matched_none (hc : r.cls = .retest) (hr : r.reason = some reason) (h : ∀ t, ¬c.matchedWith r reason t) :
    c.matched r.line reason r.ticketRef = none := by
  cases hm : c.matched r.line reason r.ticketRef with
  | none => rfl
  | some t =>
    refine absurd ?_ (h t)
    unfold Core.matched at hm
    split at hm
    · cases hm
    · next u hu =>
      obtain ⟨m, href, hticket⟩ := Option.bind_eq_some_iff.mp hu
      split at hm
      · next w hw =>
        split at hm
        · next hall =>
          obtain rfl := Option.some.inj hm
          obtain ⟨hk, hs, hreason, hdue⟩ := hall
          obtain ⟨-, rfl⟩ := Tc.find_some hticket
          exact ⟨hc, hr, href, hticket, hk, hs, w, hw, hreason, hdue⟩
        · cases hm
      · cases hm

/-- A direct failure (R119). -/
theorem Core.handOver_direct (h : c.direct r outcome fault degrading cls) :
    c.handOver r outcome fault results degrading =
      if degrading then c.handDegrading r.line (valuesFrom results) else c.directFailure r.line cls (some (valuesFrom results)) := by
  unfold Core.handOver
  rcases h with ⟨rfl, rfl, hc, hf⟩ | ⟨rfl, rfl, hc, hr⟩ | ⟨rfl, rfl, hc, reason, hreason, hr, hno⟩ | ⟨rfl, rfl, rfl, hc, hr, rfl⟩
    | ⟨rfl, rfl, hc, rfl⟩
  · simp [hc, runVerdict, hf, lastValuesOf_eq]
  · rcases hr with hr | hr <;> simp [hc, runVerdict, hr, lastValuesOf_eq]
  · rcases hreason with rfl | rfl <;> simp [hc, runVerdict, hr, Core.judgeRetest, Core.matched_none hc hr hno, lastValuesOf_eq]
  · simp [hc, runVerdict, hr, lastValuesOf_eq]
  · by_cases ho : outcome = .complete
    all_goals
      simp only [hc, runVerdict, ho, if_true, if_false, lastValuesOf_eq]
      rfl

/-- A direct failure of a line with a ticket. -/
theorem Core.handOver_direct_ticket (h : c.direct r outcome fault degrading cls) (hl : (c.line r.line).ticket = some n) :
    c.handOver r outcome fault results degrading = c.failure n cls (if degrading then none else some (valuesFrom results)) true := by
  rw [Core.handOver_direct h]
  cases hd : degrading with
  | false =>
    simp only [Core.directFailure, hl, Bool.false_eq_true, if_false]
  | true =>
    obtain rfl : cls = .degrading := by
      subst hd
      have hall : fault = none ∧ r.cls = .routine ∧ cls = .degrading := by simpa [Core.direct] using h
      exact hall.2.2
    simp only [Core.handDegrading, hl, if_true]

/-- A direct failure of a line without one. -/
theorem Core.handOver_direct_create (h : c.direct r outcome fault degrading cls) (hl : (c.line r.line).ticket = none) :
    c.handOver r outcome fault results degrading = c.createLine r.line cls false (valuesFrom results) := by
  rw [Core.handOver_direct h]
  cases hd : degrading with
  | false => simp only [Core.directFailure, hl, Bool.false_eq_true, if_false, Option.getD_some]
  | true =>
    obtain rfl : cls = .degrading := by
      subst hd
      have hall : fault = none ∧ r.cls = .routine ∧ cls = .degrading := by simpa [Core.direct] using h
      exact hall.2.2
    simp only [Core.handDegrading, hl, if_true]

/-- A ROUTINE run judged FAIL (R118, R120). -/
theorem Core.handOver_routine_ticket (hc : r.cls = .routine) (hl : (c.line r.line).ticket = some n) :
    c.handOver r outcome (some cls) results false = c.failure n cls (some (valuesFrom results)) false := by
  simp [Core.handOver, runVerdict, hc, hl, lastValuesOf_eq]

theorem Core.handOver_routine_create (hc : r.cls = .routine) (hl : (c.line r.line).ticket = none) :
    c.handOver r outcome (some cls) results false = c.createLine r.line cls true (valuesFrom results) := by
  simp [Core.handOver, runVerdict, hc, hl, lastValuesOf_eq]

/-- A matched retest. -/
theorem Core.handOver_retest (h : c.matchedWith r reason t) (hr : reason = .confirm ∨ reason = .verify) :
    c.handOver r outcome fault results false = c.judgeRetest r reason outcome (runVerdict outcome fault) (valuesFrom results) := by
  obtain ⟨hc, hreason, -⟩ := h
  rcases hr with rfl | rfl <;> simp [Core.handOver, hc, hreason, lastValuesOf_eq]

theorem Core.handOver_confirm_fail (h : c.matchedWith r .confirm t) :
    c.handOver r outcome (some cls) results false = c.confirmFail t.number cls (valuesFrom results) := by
  rw [Core.handOver_retest h (.inl rfl)]
  simp [Core.judgeRetest, runVerdict, Core.matched_of h]

theorem Core.handOver_verify_fail (h : c.matchedWith r .verify t) :
    c.handOver r outcome (some cls) results false = c.failure t.number cls (some (valuesFrom results)) false := by
  rw [Core.handOver_retest h (.inr rfl)]
  simp [Core.judgeRetest, runVerdict, Core.matched_of h]

theorem Core.handOver_confirm_good (h : c.matchedWith r .confirm t) :
    c.handOver r .complete none results false = c.dropTicket t.number := by
  rw [Core.handOver_retest h (.inl rfl)]
  simp [Core.judgeRetest, runVerdict, Core.matched_of h]

theorem Core.handOver_verify_good (h : c.matchedWith r .verify t) :
    c.handOver r .complete none results false = c.verifyGood t.number := by
  rw [Core.handOver_retest h (.inr rfl)]
  simp [Core.judgeRetest, runVerdict, Core.matched_of h]

/-- A matched retest without a verdict (R123). -/
theorem Core.handOver_unjudged (h : c.matchedWith r reason t) (hr : reason = .confirm ∨ reason = .verify) (ho : outcome ≠ .complete) :
    c.handOver r outcome none results false = if outcome = .abortedCall then c else c.retestAttempt t.number false := by
  rw [Core.handOver_retest h hr]
  simp [Core.judgeRetest, runVerdict, ho, Core.matched_of h]

/-- A retest that comes back from the AC (R123). -/
theorem Core.retestReturned_matched (h : c.matchedWith r reason t) (preEmpted : Bool) :
    c.retestReturned r preEmpted = c.retestAttempt t.number preEmpted := by
  unfold Core.retestReturned
  rw [h.2.1]
  simp [Core.matched_of h]

/-! ### A VERIFY retest judged GOOD (R126, R143) -/

theorem Core.verifyGood_becomes (h : c.ticket n = some t) (hp : t.parent = none) :
    c.ticketBecomes (c.verifyGood n) n { t with state := .closing, retest := none } true := by
  have hput := (Core.Shows.refl c).put (f := fun t => { t with state := .closing, retest := none }) h fun _ => rfl
  have hnotice := hput.noticeIf (Function.update_self ..) hp true
  rw [Function.update_idem] at hnotice
  unfold Core.verifyGood
  rw [h]
  dsimp only
  split
  · exact hnotice.becomes
  · next parent hparent => exact absurd (hparent.symm.trans hp) nofun

end Sys2Proof.Machine
end

section
/-! PROOF of O59: what a run does to the tickets. -/

namespace Sys2Proof.Machine

open Function (update)

variable {c : Core} {n : Nat} {t k : Ticket} {r : Request} {reason : Reason} {outcome : RunOutcome} {fault : Option FaultClass}
  {results : List StepResult} {degrading : Bool} {cls : FaultClass}

theorem Core.farFromGroup.remote (h : c.farFromGroup r.line) (hn : (c.tc.tickets.map (·.number)).Nodup) (n : Nat) : c.Remote n r.line :=
  Core.remote_of hn (fun key hk => (h key hk).2) n

/-! ### A failure of a line without a ticket (R118, R119) -/

/-- A ROUTINE run judged FAIL enters a PROVISIONAL ticket, which wants a CONFIRM retest. -/
theorem Core.routine_creates (hr : r.cls = .routine) (hl : (c.line r.line).ticket = none) (hroom : c.tc.tickets.length < 256)
    (hlone : ∀ f, cls.family = some f →
      ∀ t ∈ c.tc.tickets, ¬(t.kind = .group ∧ t.subject = (c.line r.line).group ∧ t.cls = .family f)) :
    c.handOver r outcome (some cls) results false = c.enterLine r.line { c.newTicket r.line cls (valuesFrom results) with
      state := .provisional
      retest := some { reason := .confirm, due := .dueAt (c.now + c.oh.params.confirmDelay) } } := by
  rw [Core.handOver_routine_create hr hl]
  refine Core.createLine_provisional hroom (Core.noLiveGroup fun key hk hf => Core.groupTicket_eq_none.mpr ?_)
  rintro g hg ⟨hkind, hsubject, hcls⟩
  exact hlone _ hf g hg ⟨hkind, hsubject.trans hk, hcls⟩

/-- The new ticket of a direct failure, and the table with it. -/
theorem Core.direct_creates (hn : (c.tc.tickets.map (·.number)).Nodup) (hfar : c.farFromGroup r.line)
    (hd : c.direct r outcome fault degrading cls) (hl : (c.line r.line).ticket = none) (hroom : c.tc.tickets.length < 256)
    (hfree : ∀ t ∈ c.tc.tickets, t.number ≠ c.tc.freeNumber 256 c.tc.counter) :
    let t : Ticket := { c.numbered (c.newTicket r.line cls (valuesFrom results)) with noticePending := true }
    let d := c.handOver r outcome fault results degrading
    d.tc.tickets = c.tc.tickets ++ [t] ∧ d.tc.notices = c.tc.notices ++ [t.number]
      ∧ d.line r.line = { c.line r.line with ticket := some t.number, unticketed := false } := by
  have hent := c.enterLine_entered r.line (c.newTicket r.line cls (valuesFrom results))
  have hread := hent.ticket hfree
  have hline : (c.enterLine r.line (c.newTicket r.line cls (valuesFrom results))).line r.line =
      { c.line r.line with ticket := some (c.numbered (c.newTicket r.line cls (valuesFrom results))).number, unticketed := false } :=
    (Core.line_updLine ..).trans (if_pos rfl)
  have hremote := hent.remote hfree hn (l := r.line) fun key hk => (hfar key hk).2
  dsimp only
  rw [Core.handOver_direct_create hd hl,
    Core.createLine_alone hroom (Core.noLiveGroup fun key hk _ => (hfar key hk).1)]
  have halone := (Core.Shows.refl (c.enterLine r.line (c.newTicket r.line cls (valuesFrom results)))).standAlone
    (n := (c.numbered (c.newTicket r.line cls (valuesFrom results))).number) ((congrFun hread _).trans (Function.update_self ..)) rfl hremote
    (Core.Leaves.refl _ _)
  exact ⟨hent.tickets_of_shows hfree hn halone, halone.notices, (halone.work.line _).trans hline⟩

/-! ### A failure of a line with a ticket that stands alone (R119, R120) -/

/-- A direct failure, or a ROUTINE run judged FAIL, on a line with a ticket. -/
theorem Core.handOver_failure (hl : (c.line r.line).ticket = some n)
    (hd : c.direct r outcome fault degrading cls ∨ (r.cls = .routine ∧ fault = some cls ∧ degrading = false)) :
    ∃ direct, c.handOver r outcome fault results degrading =
      c.failure n cls (if degrading then none else some (valuesFrom results)) direct := by
  rcases hd with hd | ⟨hr, rfl, rfl⟩
  · exact ⟨true, Core.handOver_direct_ticket hd hl⟩
  · exact ⟨false, Core.handOver_routine_ticket hr hl⟩

/-- A direct failure is no ROUTINE run's, but for DEGRADING. -/
theorem Core.direct.not_routine (h : c.direct r outcome fault degrading cls) (hr : r.cls = .routine) : degrading = true := by
  simp [Core.direct, hr] at h
  exact h.1

/-! ### Retests (R121, R123, R126) -/

section

variable (hm : c.matchedWith r reason t) (hp : t.parent = none) (hn : (c.tc.tickets.map (·.number)).Nodup) (hfar : c.farFromGroup r.line)
include hm hp hn hfar

/-- A matched retest's ticket changed, and opened. -/
theorem Core.matched_openBecomes {f : Ticket → Ticket} (hf : ∀ u, (f u).number = u.number) (hk : (f t).kind = t.kind)
    (hs : (f t).subject = t.subject) (hparent : (f t).parent = t.parent) :
    c.ticketBecomes ((c.putTicket t.number f).openProvisional t.number) t.number (f t).opening true := by
  obtain ⟨-, -, -, hticket, hkind, hsubject, -⟩ := hm
  have hput := (Core.Shows.refl c).put hticket hf
  refine hput.openBecomes (hparent.trans hp) (hk.trans hkind) ?_ fun key hkey => ?_
  · rw [hs, hsubject]
    exact hfar.remote hn _
  · rw [Core.groupTicket_put hn hticket (by rw [hkind]; exact nofun) (by rw [hk, hkind]; exact nofun)]
    exact (hfar key (by rwa [hs, hsubject] at hkey)).1

/-- A retest without a verdict, or one that comes back, ends in an attempt: the ticket wants it again, or is OPEN and UNCONFIRMED. -/
theorem Core.retestAttempt_becomes {w : Retest} (hw : t.retest = some w) (idle : Bool) :
    let d := c.retestAttempt t.number idle
    (reason = .confirm → 2 ≤ w.attempts → c.ticketBecomes d t.number ({ t with unconfirmed := true } : Ticket).opening true)
      ∧ (reason = .verify ∨ w.attempts < 2 → c.ticketBecomes d t.number { t with
          retest := some { reason := reason, attempts := min 3 (w.attempts + 1),
                           due := if idle then .whenIdle else .dueAt (c.now + c.oh.params.confirmDelay) } } false) := by
  obtain ⟨-, -, -, ht, -, -, v, hv, hreason, -⟩ := id hm
  obtain rfl := Option.some.inj (hw.symm.trans hv)
  refine ⟨fun hconfirm hattempts => ?_, fun hagain => ?_⟩
  · rw [Core.retestAttempt_givenUp ht hw (hreason.trans hconfirm) hattempts]
    exact Core.matched_openBecomes hm hp hn hfar (f := fun t => { t with unconfirmed := true }) (fun _ => rfl) rfl rfl rfl
  · rw [Core.retestAttempt_again ht hw (by rw [hreason]; rintro ⟨rfl, hle⟩; exact hagain.elim nofun (by omega)), hreason]
    refine ((Core.Shows.refl c).put ht ?_).becomesQuietly
    exact fun _ => rfl

end

section

variable (hp : t.parent = none) (hn : (c.tc.tickets.map (·.number)).Nodup) (hfar : c.farFromGroup r.line)
include hp hn hfar

/-- A CONFIRM retest judged FAIL opens its ticket. -/
theorem Core.confirm_fail_becomes (hm : c.matchedWith r .confirm t) : c.ticketBecomes (c.handOver r outcome (some cls) results false) t.number
    (t.confirmed c.now cls (valuesFrom results)).opening true := by
  obtain ⟨-, hkind, hsubject, hparent⟩ := t.confirmed_fields c.now cls (valuesFrom results)
  rw [Core.handOver_confirm_fail hm, Core.confirmFail_eq]
  exact Core.matched_openBecomes hm hp hn hfar (f := fun t => t.confirmed c.now cls (valuesFrom results))
    (fun u => (u.confirmed_fields ..).1) hkind hsubject hparent

/-- A VERIFY retest judged FAIL reopens its ticket. -/
theorem Core.verify_fail_becomes (hm : c.matchedWith r .verify t) (hstate : t.state = .verifying) :
    c.ticketBecomes (c.handOver r outcome (some cls) results false) t.number
      (t.update c.now cls (some (valuesFrom results))).reopen true := by
  obtain ⟨-, -, -, ht, -, hs, -⟩ := id hm
  rw [Core.handOver_verify_fail hm]
  exact Core.failure_reopens_becomes ht hp (hs ▸ hfar.remote hn _) (.inl hstate)

end

/-- A CONFIRM retest judged GOOD discards its ticket. -/
theorem Core.confirm_good_drops (hm : c.matchedWith r .confirm t) :
    let d := c.handOver r .complete none results false
    d.ticket t.number = none
      ∧ d.tc.tickets = c.tc.tickets.filter (fun k => decide (k.number ≠ t.number))
      ∧ d.tc.notices = c.tc.notices.filter (fun m => decide (m ≠ t.number))
      ∧ ((c.line r.line).ticket = some t.number → d.line r.line = { c.line r.line with ticket := none }) := by
  obtain ⟨-, -, -, ht, hk, hs, -⟩ := id hm
  have hdrop := (Core.Shows.refl c).drop ht
  rw [Core.handOver_confirm_good hm]
  exact ⟨(congrFun hdrop.ticket _).trans (Function.update_self ..), Core.dropTicket_tickets ht, hdrop.notices,
    fun hl => (hdrop.line r.line).trans (if_pos ⟨hk, hs.symm, hl⟩)⟩

/-- Two classes are of one family, or the same (R121). -/
theorem sameFamily_iff {a : TicketClass} (ha : ∃ k, a = .fault k) : sameFamily a cls = true ↔
    a = .fault cls ∨ ∃ f, cls.family = some f ∧ ∃ k, a = .fault k ∧ k.family = some f := by
  obtain ⟨k, rfl⟩ := ha
  unfold sameFamily
  rw [Bool.or_eq_true, decide_eq_true_eq, Bool.and_eq_true, decide_eq_true_eq, Option.isSome_iff_exists]
  refine or_congr_right ⟨fun ⟨⟨f, hf⟩, he⟩ => ⟨f, hf, k, rfl, he.trans hf⟩, fun ⟨f, hf, j, hj, he⟩ => ⟨⟨f, hf⟩, ?_⟩⟩
  obtain rfl := TicketClass.fault.inj hj
  exact he.trans hf.symm

/-! ### Equipment tickets (R127) -/

/-- An equipment ticket that is asked for again counts the report. -/
theorem Core.askEquipment_counts {kind : TicketKind} {subject : Nat} (he : c.equipmentTicket kind subject = some k)
    (ht : c.ticket k.number = some k) (hs : k.state = .opened ∨ k.state = .acknowledged) :
    c.ticketBecomes (c.askEquipment kind subject cls) k.number { k with lastSeen := c.now, occurrences := min 255 (k.occurrences + 1) } false := by
  have hput := (Core.Shows.refl c).put (f := fun t => { t with lastSeen := c.now, occurrences := satSucc 255 t.occurrences }) ht fun _ => rfl
  have hnot : k.state ≠ .closing := by rcases hs with h | h <;> rw [h] <;> exact nofun
  unfold Core.askEquipment
  rw [he]
  dsimp only
  rw [if_neg hnot, ← satSucc_eq]
  exact hput.becomesQuietly

/-- A CLOSING one is reopened. -/
theorem Core.askEquipment_reopens {kind : TicketKind} {subject : Nat} (he : c.equipmentTicket kind subject = some k)
    (ht : c.ticket k.number = some k) (hp : k.parent = none) (hs : k.state = .closing) :
    c.ticketBecomes (c.askEquipment kind subject cls) k.number
      { k with lastSeen := c.now, occurrences := min 255 (k.occurrences + 1), state := .opened, reopened := min 15 (k.reopened + 1) } true := by
  have hput := (Core.Shows.refl c).put (f := fun t => { t with lastSeen := c.now, occurrences := satSucc 255 t.occurrences }) ht fun _ => rfl
  have hopen := hput.put (f := fun t => { t with state := .opened, reopened := satSucc 15 t.reopened }) (Function.update_self ..) fun _ => rfl
  have hnotice := hopen.noticeIf (Function.update_self ..) hp true
  rw [Function.update_idem, Function.update_idem] at hnotice
  unfold Core.askEquipment
  rw [he]
  dsimp only
  rw [if_pos hs, ← satSucc_eq, ← satSucc_eq]
  exact hnotice.becomes

end Sys2Proof.Machine

open Sys2Proof Sys2Proof.Machine in
/-- Settles O59, run by run: each hand-over comes to one operation on the tickets (`handOver_…`), and far from a group that operation changes
the one ticket (`…_becomes`). -/
theorem routineFailureMakesAProvisionalTicket : Obligations.RoutineFailureMakesAProvisionalTicket := by
  refine ⟨fun r cls results c hr hl hroom hlone => ?routine,
    fun r outcome fault results degrading cls c hn hfar => ⟨fun hd hl hroom hfree => ?creates, fun n t hl ht hk hs hp hd => ?failure⟩,
    fun r reason t w outcome fault results c hn hfar hm hw hp => ?retest, fun kind subject cls k c hn hfind hp => ?equipment⟩
  case routine =>
    rw [Core.routine_creates hr hl hroom hlone]
    exact ⟨_, _, rfl, rfl, rfl, rfl, rfl, rfl, rfl, rfl, rfl, rfl, rfl, rfl, rfl, rfl, rfl, rfl, rfl,
      congrArg LineRec.ticket ((Core.line_updLine ..).trans (if_pos rfl))⟩
  case creates =>
    obtain ⟨htickets, hnotices, hline⟩ := Core.direct_creates (results := results) hn hfar hd hl hroom hfree
    exact ⟨_, htickets, rfl, rfl, rfl, rfl, rfl, rfl, rfl, rfl, rfl, rfl, rfl, rfl, rfl, rfl, rfl, hnotices,
      congrArg LineRec.ticket hline, congrArg LineRec.unticketed hline⟩
  case failure =>
    intro raised u
    have hremote : c.Remote n t.subject := hs ▸ hfar.remote hn n
    have hlone : ∀ key, key / 2 = (c.line t.subject).group → c.groupTicket key = none := fun key hkey => (hfar key (hs ▸ hkey)).1
    have hu : u = t.update c.now cls (if degrading then none else some (valuesFrom results)) := by
      rw [Ticket.update_handed]
      simp only [u, raised, decide_eq_true_eq]
    refine ⟨fun hstate hr hdeg => ?_, fun hstate hd => ?_, fun hstate => ?_, fun hstate => ?_⟩
    · have hfault : fault = some cls := (hd.resolve_left fun h => by simp [h.not_routine hr] at hdeg).2.1
      subst hdeg hfault
      rw [Core.handOver_routine_ticket hr hl, hu]
      exact Core.failure_provisional_becomes ht hstate
    · rw [Core.handOver_direct_ticket hd hl, hu]
      exact Core.failure_opens_becomes ht hp hremote hstate hk hlone
    · obtain ⟨direct, hhand⟩ := Core.handOver_failure (results := results) hl hd
      rw [hhand, hu]
      exact Core.failure_alone_becomes ht hp hremote hstate
    · obtain ⟨direct, hhand⟩ := Core.handOver_failure (results := results) hl hd
      have hreopens := Core.failure_reopens_becomes (cls := cls) (values := if degrading then none else some (valuesFrom results))
        (direct := direct) ht hp hremote hstate
      rw [Ticket.reopen_eq, ← hu] at hreopens
      rw [hhand]
      exact hreopens
  case retest =>
    intro d updated again givenUp
    refine ⟨?_, fun cls hr hf => ?_, ?_, fun cls hr hf hstate => ?_, fun hr hf ho => ?_, fun preEmpted hr => ?_⟩
    · rintro rfl rfl rfl
      exact Core.confirm_good_drops hm
    · subst hr hf
      intro one hcls
      have hone : sameFamily t.cls cls = true ↔ one := sameFamily_iff hcls
      have hopen (raised : Bool) (hraised : raised = true ↔ sameFamily t.cls cls = false ∨ t.severity < cls.severity) :
          c.ticketBecomes d t.number (updated cls raised) true := by
        have hopens := Core.confirm_fail_becomes (outcome := outcome) (cls := cls) (results := results) hp hn hfar hm
        rwa [Ticket.confirmed_eq _ _ _ _ hraised] at hopens
      refine ⟨fun h => hopen _ ?_, fun h => hopen _ ?_⟩
      · rw [decide_eq_true_iff, hone.mpr h]
        simp
      · rw [Bool.eq_false_iff.mpr fun hsame => h (hone.mp hsame)]
        simp
    · rintro rfl rfl rfl
      obtain ⟨-, -, -, ht, -⟩ := id hm
      rw [show d = _ from Core.handOver_verify_good hm]
      exact Core.verifyGood_becomes ht hp
    · subst hr hf
      have hbecomes := Core.verify_fail_becomes (outcome := outcome) (cls := cls) (results := results) hp hn hfar hm hstate
      rw [Ticket.reopen_eq, Ticket.update_eq] at hbecomes
      simp only [updated, decide_eq_true_eq]
      exact hbecomes
    · subst hf
      rw [show d = _ from Core.handOver_unjudged hm hr (by rw [ho]; exact nofun), if_pos ho]
    · intro e hends
      have he : e = c.retestAttempt t.number preEmpted := by
        cases preEmpted with
        | true => exact Core.retestReturned_matched hm true
        | false =>
          obtain ⟨rfl, hcomplete, habort⟩ := hends rfl
          exact (Core.handOver_unjudged hm hr hcomplete).trans (if_neg habort)
      rw [he]
      exact Core.retestAttempt_becomes hm hp hn hfar hw preEmpted
  case equipment =>
    have hticket : c.ticket k.number = some k := by
      rcases hfind with ⟨-, -, h⟩ | ⟨-, -, h⟩ | ⟨-, h⟩
      · exact h
      · exact h
      · exact Core.ticket_of_mem hn (List.mem_of_find?_eq_some h)
    have hequipment : c.equipmentTicket kind subject = some k := by
      rcases hfind with ⟨rfl, href, h⟩ | ⟨rfl, href, h⟩ | ⟨rfl, h⟩
      · simp [Core.equipmentTicket, href, h]
      · simp [Core.equipmentTicket, href, h]
      · simpa [Core.equipmentTicket] using h
    exact ⟨fun hs => Core.askEquipment_counts hequipment hticket hs, fun hs => Core.askEquipment_reopens hequipment hticket hp hs⟩
end

section
/-! SUPPORT. Groups that form and that are revived: the tickets gathered under a group ticket, and its record after that (R134–R138). -/

namespace Sys2Proof.Machine

open Function (update)

variable {c d b : Core} {n key l : Nat} {t g p : Ticket} {q : Nat → Option Ticket} {ns : List Nat} {members : List Ticket}

/-! ### Sorting (R134) -/

theorem pairwise_insertBy {α : Type} {before : α → α → Bool} {le : α → α → Prop} (htrans : ∀ a b c, le a b → le b c → le a c)
    (hbefore : ∀ a b, before a b = true → le a b) (hnot : ∀ a b, before a b = false → le b a) (x : α) {s : List α} (hs : s.Pairwise le) :
    (insertBy before x s).Pairwise le := by
  induction s with
  | nil => exact List.pairwise_singleton ..
  | cons y s ih =>
    obtain ⟨hy, hrest⟩ := List.pairwise_cons.mp hs
    unfold insertBy
    split
    · next h =>
      refine List.pairwise_cons.mpr ⟨fun z hz => ?_, hs⟩
      rcases List.mem_cons.mp hz with rfl | hz
      · exact hbefore _ _ h
      · exact htrans _ _ _ (hbefore _ _ h) (hy z hz)
    · next h =>
      refine List.pairwise_cons.mpr ⟨fun z hz => ?_, ih hrest⟩
      rcases List.mem_cons.mp ((insertBy_perm before x s).mem_iff.mp hz) with rfl | hz
      · exact hnot _ _ (Bool.eq_false_iff.mpr h)
      · exact hy z hz

theorem pairwise_sortBy {α : Type} {before : α → α → Bool} {le : α → α → Prop} (htrans : ∀ a b c, le a b → le b c → le a c)
    (hbefore : ∀ a b, before a b = true → le a b) (hnot : ∀ a b, before a b = false → le b a) (s : List α) :
    (sortBy before s).Pairwise le := by
  have hfold : ∀ (s acc : List α), acc.Pairwise le → (s.foldl (fun acc x => insertBy before x acc) acc).Pairwise le := by
    intro s
    induction s with
    | nil => exact fun _ h => h
    | cons x s ih => exact fun acc h => ih _ (pairwise_insertBy htrans hbefore hnot x h)
  exact hfold s [] List.Pairwise.nil

/-- The order of R134: by first seen, then by number. -/
theorem Core.qualifying_sorted (c : Core) (key : Nat) :
    (c.qualifying key).Pairwise fun a b => a.firstSeen < b.firstSeen ∨ (a.firstSeen = b.firstSeen ∧ a.number ≤ b.number) := by
  refine pairwise_sortBy (fun _ _ _ hab hbc => ?_) (fun a b h => ?_) (fun a b h => ?_) _
  · omega
  · simp only [Bool.or_eq_true, Bool.and_eq_true, decide_eq_true_eq] at h
    omega
  · simp only [Bool.or_eq_false_iff, Bool.and_eq_false_iff, decide_eq_false_iff_not] at h
    omega

/-! ### The highest severity (R137) -/

theorem highestSeverity_concat (ts : List Ticket) (t : Ticket) : highestSeverity (ts ++ [t]) = max (highestSeverity ts) t.severity := by
  unfold highestSeverity
  rw [List.foldl_append]
  rfl

theorem le_highestSeverity {ts : List Ticket} (h : t ∈ ts) : t.severity ≤ highestSeverity ts := by
  induction ts using List.reverseRecOn with
  | nil => cases h
  | append_singleton ts u ih =>
    rw [highestSeverity_concat]
    rcases List.mem_append.mp h with h | h
    · exact (ih h).trans (Nat.le_max_left ..)
    · exact List.mem_singleton.mp h ▸ Nat.le_max_right ..

theorem exists_highestSeverity {ts : List Ticket} (h : ts ≠ []) : ∃ t ∈ ts, t.severity = highestSeverity ts := by
  induction ts using List.reverseRecOn with
  | nil => exact absurd rfl h
  | append_singleton ts u ih =>
    rw [highestSeverity_concat]
    rcases Nat.le_total (highestSeverity ts) u.severity with hle | hle
    · exact ⟨u, List.mem_append_right _ List.mem_cons_self, (Nat.max_eq_right hle).symm⟩
    · rw [Nat.max_eq_left hle]
      by_cases hts : ts = []
      · subst hts
        exact ⟨u, List.mem_singleton_self u, Nat.le_zero.mp (hle.trans (Nat.le_refl 0)) |>.trans rfl⟩
      · obtain ⟨t, ht, he⟩ := ih hts
        exact ⟨t, List.mem_append_left _ ht, he⟩

/-! ### Tickets gathered under a group ticket (R137) -/

/-- What a ticket is that a new or revived group gathers. -/
def Ticket.gatheredBy (t : Ticket) (group : Nat) : Ticket := { t with parent := some group, noticePending := false }

/-- One member gathered. -/
def Core.takeChild (c : Core) (group : Nat) (t : Ticket) : Core :=
  (c.putTicket t.number fun t => t.gatheredBy group).updTc fun tc => { tc with notices := tc.notices.filter fun m => decide (m ≠ t.number) }

theorem Core.takeChildren_cons (c : Core) (group : Nat) (t : Ticket) (members : List Ticket) :
    c.takeChildren group (t :: members) = (c.takeChild group t).takeChildren group members := rfl

/-- The tickets as the numbers read them once the members are gathered. -/
theorem Core.Shows.takeChildren (h : Core.Shows c d q ns) (group : Nat) (members : List Ticket) :
    Core.Shows c (d.takeChildren group members)
      (fun n => if n ∈ members.map (·.number) then (q n).map fun t => t.gatheredBy group else q n)
      (ns.filter fun n => decide (n ∉ members.map (·.number))) := by
  induction members generalizing d q ns with
  | nil => simpa [Core.takeChildren] using h
  | cons t members ih =>
    have hstep : Core.Shows c (d.takeChild group t) (fun n => if n = t.number then (q n).map fun t => t.gatheredBy group else q n)
        (ns.filter fun m => decide (m ≠ t.number)) := by
      refine Core.Shows.setNotices ⟨h.work.trans (d.putTicket_tableWork t.number ?_), ?_, ?_⟩ fun l => l.filter fun m => decide (m ≠ t.number)
      · exact fun _ => rfl
      · funext m
        rw [Core.ticket_putTicket_any d t.number m (f := fun t => t.gatheredBy group) fun _ => rfl, h.ticket]
        split
        · next hm => rw [hm]
        · rfl
      · obtain ⟨_, _, _, he⟩ := d.putTicket_eq t.number fun t => t.gatheredBy group
        rw [he]
        exact h.notices
    have hrest := ih hstep
    rw [Core.takeChildren_cons]
    have htwice (o : Option Ticket) : (o.map fun t => t.gatheredBy group).map (fun t => t.gatheredBy group) =
        o.map fun t => t.gatheredBy group := by
      cases o <;> rfl
    have hread : (fun n => if n ∈ (t :: members).map (·.number) then (q n).map fun t => t.gatheredBy group else q n) = fun n =>
        if n ∈ members.map (·.number) then (if n = t.number then (q n).map fun t => t.gatheredBy group else q n).map fun t => t.gatheredBy group
        else if n = t.number then (q n).map fun t => t.gatheredBy group else q n := by
      funext n
      by_cases hn : n = t.number <;> by_cases hm : n ∈ members.map (·.number) <;> simp [hn, hm, htwice]
    have hnotices : ns.filter (fun n => decide (n ∉ (t :: members).map (·.number))) =
        (ns.filter fun m => decide (m ≠ t.number)).filter fun n => decide (n ∉ members.map (·.number)) := by
      rw [List.filter_filter]
      refine List.filter_congr fun n _ => ?_
      simp [Bool.and_comm]
    rw [hread, hnotices]
    exact hrest

/-- GROUP_FORMED is latched (R137). -/
theorem Core.reportFormed_latched (c : Core) : c.reportFormed.oh.latch.groupFormed = true := by
  unfold Core.reportFormed Core.updOh Oh.latchFlag
  dsimp only
  split
  · next h => exact h
  · split <;> rfl

/-- The tickets of a list that stand in the table become the children of group ticket g, which has their number (R137, R138). -/
theorem Core.Shows.gathers (h : Core.Shows c d (update b.ticket g.number (some g)) b.tc.notices) (hparent : g.parent = none)
    (hm : ∀ m ∈ members, b.ticket m.number = some m) (hg : ∀ m ∈ members, m.number ≠ g.number) (hcount : g.childCount = members.length) :
    Core.Shows c (((d.takeChildren g.number members).noticeDue g.number).reportFormed)
        (update (fun n => if n ∈ members.map (·.number) then (update b.ticket g.number (some g) n).map fun t => t.gatheredBy g.number
          else update b.ticket g.number (some g) n) g.number (some { g with noticePending := true }))
        (b.tc.notices.filter (fun n => decide (n ∉ members.map (·.number))) ++ if g.noticePending then [] else [g.number])
      ∧ b.gathered (((d.takeChildren g.number members).noticeDue g.number).reportFormed) g members := by
  have hnot : g.number ∉ members.map (·.number) := fun hmem => by
    obtain ⟨m, hm, he⟩ := List.mem_map.mp hmem
    exact hg m hm he
  have hnotice := (h.takeChildren g.number members).notice (n := g.number) (t := g) (by rw [if_neg hnot, Function.update_self]) hparent
  have hreport : Core.Shows c (((d.takeChildren g.number members).noticeDue g.number).reportFormed) _ _ :=
    ⟨hnotice.work.trans ⟨rfl, rfl, rfl, rfl, (Oh.latchFlag_kept ..).params, rfl, rfl⟩, hnotice.ticket, hnotice.notices⟩
  refine ⟨hreport, ?_, fun m hmem => ?_, hreport.notices, ?_, fun n hn hout => ?_⟩
  · rw [hreport.ticket, Function.update_self, ← hcount]
  · rw [hreport.ticket, Function.update_of_ne (hg m hmem), if_pos (List.mem_map_of_mem hmem), Function.update_of_ne (hg m hmem), hm m hmem]
    rfl
  · exact Core.reportFormed_latched _
  · rw [hreport.ticket, Function.update_of_ne hn, if_neg hout, Function.update_of_ne hn]

/-! ### The record of a group once its tickets are gathered (R134) -/

/-- The record of a group lists tickets of these numbers alone. -/
def Gm.ListsOnly (gm : Gm) (key : Nat) (l : List Nat) : Prop := ∀ e ∈ gm.members, e.1 = key → e.2 ⊆ l

theorem Gm.listsOnly_set (gm : Gm) (key : Nat) (l : List Nat) :
    Gm.ListsOnly { gm with members := Table.set [] gm.members key l } key l := by
  intro e he hk
  have herased : ∀ x ∈ Table.erase gm.members key, x.1 ≠ key := fun x hx => by
    rw [Table.erase_eq_filter] at hx
    exact of_decide_eq_true (List.mem_filter.mp hx).2
  dsimp only at he
  unfold Table.set at he
  split at he
  · exact absurd hk (herased e he)
  · rcases Table.mem_place he with rfl | he
    · exact List.Subset.refl _
    · exact absurd hk (herased e he)

theorem Gm.ListsOnly.drop {gm : Gm} {s : List Nat} (h : gm.ListsOnly key s) (n : Nat) (keep : Option Nat) : (gm.drop n keep).ListsOnly key s := by
  intro e he hk x hx
  obtain ⟨f, hf, hfe⟩ := List.mem_filterMap.mp he
  dsimp only at hfe
  rw [Option.ite_none_left_eq_some] at hfe
  obtain rfl := Option.some.inj hfe.2
  refine h f hf hk ?_
  dsimp only at hx
  split at hx
  · exact hx
  · exact (List.mem_filter.mp hx).1

/-- A number that stands in no record of its own leaves them all. -/
theorem Gm.ListsOnly.dropOne {gm : Gm} {s : List Nat} (h : gm.ListsOnly key (n :: s)) : (gm.drop n none).ListsOnly key s := by
  intro e he hk x hx
  obtain ⟨f, hf, hfe⟩ := List.mem_filterMap.mp he
  dsimp only at hfe
  rw [Option.ite_none_left_eq_some] at hfe
  obtain rfl := Option.some.inj hfe.2
  dsimp only at hx
  rw [if_neg nofun] at hx
  obtain ⟨hmem, hne⟩ := List.mem_filter.mp hx
  exact (List.mem_cons.mp (h f hf hk hmem)).resolve_left (of_decide_eq_true hne)

theorem Table.get_eq_or_mem {α : Type} (d : α) (s : Table α) (k : Nat) : Table.get d s k = d ∨ ∃ e ∈ s, e.1 = k ∧ e.2 = Table.get d s k := by
  induction s with
  | nil => exact .inl rfl
  | cons e s ih =>
    obtain ⟨i, v⟩ := e
    unfold Table.get
    split
    · next h => exact .inr ⟨_, List.mem_cons_self, h, rfl⟩
    · exact ih.imp_right fun ⟨e, he, hk, hv⟩ => ⟨e, List.mem_cons_of_mem _ he, hk, hv⟩

theorem Gm.ListsOnly.get {gm : Gm} (h : gm.ListsOnly key []) : Table.get [] gm.members key = [] := by
  rcases Table.get_eq_or_mem [] gm.members key with hd | ⟨e, he, hk, hv⟩
  · exact hd
  · exact hv ▸ List.subset_nil.mp (h e he hk)

theorem Core.putTicket_gm (h : c.ticket n = some t) (f : Ticket → Ticket) :
    (c.putTicket n f).gm = c.gm.drop n (((c.putTicket n f).ticket n).bind (c.putTicket n f).standsIn) := by
  simp only [Core.putTicket, h]
  rfl

theorem Core.putTicket_listsOnly {s : List Nat} (h : c.gm.ListsOnly key s) (n : Nat) (f : Ticket → Ticket) :
    (c.putTicket n f).gm.ListsOnly key s := by
  unfold Core.putTicket
  split
  · exact h
  · exact h.drop n _

theorem Core.noticeDue_listsOnly {s : List Nat} (h : c.gm.ListsOnly key s) (n : Nat) : (c.noticeDue n).gm.ListsOnly key s := by
  unfold Core.noticeDue
  split
  · exact h
  · split
    · exact h
    · exact Core.putTicket_listsOnly h n _

/-- The members that are gathered leave their record. -/
theorem Core.takeChildren_listsOnly (group : Nat) (members : List Ticket) (hm : ∀ m ∈ members, (c.ticket m.number).isSome = true)
    (h : c.gm.ListsOnly key (members.map (·.number))) : (c.takeChildren group members).gm.ListsOnly key [] := by
  induction members generalizing c with
  | nil => exact h
  | cons t members ih =>
    have hread := fun j => c.ticket_putTicket_any t.number j (f := fun t => t.gatheredBy group) fun _ => rfl
    refine ih (c := c.takeChild group t) (fun m hmem => ?_) ?_
    · show ((c.putTicket t.number fun t => t.gatheredBy group).ticket m.number).isSome = true
      rw [hread]
      split
      · rw [Option.isSome_map]
        exact hm t List.mem_cons_self
      · exact hm m (List.mem_cons_of_mem _ hmem)
    · obtain ⟨u, hu⟩ := Option.isSome_iff_exists.mp (hm t List.mem_cons_self)
      have hstands : ((c.putTicket t.number fun t => t.gatheredBy group).ticket t.number).bind
          (c.putTicket t.number fun t => t.gatheredBy group).standsIn = none := by
        rw [hread, if_pos rfl, hu, Option.map_some, Option.bind_some]
        simp [Core.standsIn, Ticket.gatheredBy]
      show (c.putTicket t.number fun t => t.gatheredBy group).gm.ListsOnly key (members.map (·.number))
      rw [Core.putTicket_gm hu, hstands]
      exact h.dropOne

/-! ### A group forms (R137) -/

/-- The GROUP ticket of a record, gathering these tickets, as it enters the table. -/
def Core.newGroup (c : Core) (key : Nat) (members : List Ticket) : Ticket :=
  { number := 0, kind := .group, subject := key / 2, cls := .family (if key % 2 = 0 then .wet else .brk),
    severity := highestSeverity members, state := .opened, firstSeen := c.now, lastSeen := c.now,
    occurrences := min 255 members.length, childCount := members.length }

/-- The group formed in a table with room. -/
def Core.groupFormed (c : Core) (key : Nat) (members : List Ticket) : Core :=
  let g := c.numbered (c.newGroup key members)
  (((c.enter (c.newGroup key members)).1.takeChildren g.number members).noticeDue g.number).reportFormed

theorem Core.formGroup_room (hr : c.makeRoom = (d, true)) (hnow : d.now = c.now) (members : List Ticket) :
    c.formGroup key members = d.groupFormed key members := by
  unfold Core.formGroup
  rw [hr]
  dsimp only
  rw [if_pos rfl, ← hnow]
  rfl

/-- The new group has gathered its tickets; the table holds one ticket more, and the record lists none. -/
theorem Core.groupFormed_gathers (hm : ∀ m ∈ members, c.ticket m.number = some m)
    (hfree : ∀ t ∈ c.tc.tickets, t.number ≠ c.tc.freeNumber 256 c.tc.counter) :
    let g := c.numbered (c.newGroup key members)
    let d := c.groupFormed key members
    c.gathered d g members ∧ d.tc.tickets.length = c.tc.tickets.length + 1 ∧ d.lines = c.lines
      ∧ (d.tc.tickets.map (·.number)) = c.tc.tickets.map (·.number) ++ [g.number]
      ∧ (c.gm.ListsOnly key (members.map (·.number)) → Table.get [] d.gm.members key = []) := by
  have hent := c.enter_entered (c.newGroup key members)
  have hne : ∀ m ∈ members, m.number ≠ (c.numbered (c.newGroup key members)).number := fun m hmem =>
    hfree m (Tc.find_some (hm m hmem)).1
  obtain ⟨hshows, hgathered⟩ := Core.Shows.gathers (b := c) (members := members)
    (g := c.numbered (c.newGroup key members)) ⟨.refl _, hent.ticket hfree, hent.notices⟩ rfl hm hne rfl
  refine ⟨hgathered, hshows.work.length.trans hent.length, hshows.work.lines,
    hshows.work.numbers.trans (by rw [hent.tickets, List.map_append]; rfl), fun hlist => ?_⟩
  have hread : ∀ m ∈ members, ((c.enter (c.newGroup key members)).1.ticket m.number).isSome = true := fun m hmem => by
    rw [hent.ticket hfree, Function.update_of_ne (hne m hmem), hm m hmem]
    rfl
  exact (Core.noticeDue_listsOnly (Core.takeChildren_listsOnly _ _ hread hlist) _).get

/-! ### Examinations at the threshold (R136–R138) -/

/-- The record brought up to date. -/
def Core.recorded (c : Core) (key : Nat) : Core :=
  { c with gm := { c.gm with members := Table.set [] c.gm.members key ((c.qualifying key).map (·.number)) } }

theorem Core.recorded_listsOnly (c : Core) (key : Nat) :
    (c.recorded key).gm.ListsOnly key ((c.qualifying key).map (·.number)) := c.gm.listsOnly_set key _

theorem Core.examineGroup_forms (h : c.oh.params.groupThreshold ≤ (c.qualifying key).length) (hg : c.groupTicket key = none) :
    c.examineGroup key = (c.recorded key).formGroup key (c.qualifying key) := by
  have hgt : (c.recorded key).groupTicket key = none := hg
  unfold Core.examineGroup
  dsimp only
  unfold Core.recorded at hgt ⊢
  rw [if_neg (Nat.not_lt.mpr h), hgt]

theorem Core.examineGroup_revives (h : c.oh.params.groupThreshold ≤ (c.qualifying key).length) (hg : c.groupTicket key = some g)
    (hs : g.state = .closing) : c.examineGroup key = (c.recorded key).reviveGroup g.number (c.qualifying key) := by
  have hgt : (c.recorded key).groupTicket key = some g := hg
  unfold Core.examineGroup
  dsimp only
  unfold Core.recorded at hgt ⊢
  rw [if_neg (Nat.not_lt.mpr h), hgt]
  exact if_pos hs

theorem Core.examineGroup_stands (hg : c.groupTicket key = some g) (hs : g.state ≠ .closing) : c.examineGroup key = c.recorded key := by
  have hgt : (c.recorded key).groupTicket key = some g := hg
  unfold Core.examineGroup
  dsimp only
  unfold Core.recorded at hgt ⊢
  split
  · rfl
  · rw [hgt]
    exact if_neg hs

theorem Core.qualifying_ticket (hn : (c.tc.tickets.map (·.number)).Nodup) (ht : t ∈ c.qualifying key) : c.ticket t.number = some t :=
  Core.ticket_of_mem hn (Core.mem_qualifying.mp ht).1

end Sys2Proof.Machine
end

section
/-! PROOF of O60: the tickets of a cable. -/

namespace Sys2Proof.Machine

open Function (update)

variable {c d b : Core} {n key l : Nat} {t u g p : Ticket} {r : Request} {outcome : RunOutcome} {results : List StepResult} {cls : FaultClass}

/-! ### The qualifying tickets (R134) -/

theorem Core.mem_qualifying_iff : t ∈ c.qualifying key ↔ t ∈ c.tc.tickets ∧ t.kind = .line ∧ (c.line t.subject).group ≤ 126
    ∧ (c.line t.subject).group = key / 2 ∧ t.cls.familyOf = some (if key % 2 = 0 then .wet else .brk)
    ∧ (t.state = .opened ∨ t.state = .acknowledged) ∧ t.parent = none ∧ c.now - t.firstSeen ≤ c.oh.params.groupWindow := by
  rw [Core.mem_qualifying, Core.standsIn_eq_some, Core.groupKey_eq_some]
  tauto

/-- A qualifying ticket has another number than a ticket that is none. -/
theorem Core.qualifying_number_ne (hn : (c.tc.tickets.map (·.number)).Nodup) (ht : t ∈ c.qualifying key) (hu : u ∈ c.tc.tickets)
    (hnot : u.kind ≠ .line ∨ u.state = .provisional) : t.number ≠ u.number := fun he => by
  obtain ⟨hmem, hk, -, -, -, hs, -⟩ := Core.mem_qualifying_iff.mp ht
  obtain rfl : t = u := Option.some.inj ((Core.ticket_of_mem hn hmem).symm.trans (he ▸ Core.ticket_of_mem hn hu))
  rcases hnot with h | h
  · exact h hk
  · rw [h] at hs
    exact hs.elim nofun nofun

/-- Below the threshold, and while a group ticket stands, an examination does no more than write the record. -/
theorem Core.examineGroup_records
    (h : (c.qualifying key).length < c.oh.params.groupThreshold ∨ ∃ g, c.groupTicket key = some g ∧ g.state ≠ .closing) :
    c.examineGroup key = c.recorded key := by
  rcases h with h | ⟨g, hg, hs⟩
  · exact Core.examineGroup_below h
  · exact Core.examineGroup_stands hg hs

/-! ### A group forms, in a table with room and in a full one (R115, R137, R138) -/

theorem Oh.latchFlag_ticketsFull (o : Oh) : o.latchFlag .ticketsFull =
    if o.latch.ticketsFull then o else { o with
      latch := { o.latch with ticketsFull := true }
      attentionSent := true
      waiting := if o.attentionSent then o.waiting else o.waiting ++ [.attention] } := by
  unfold Oh.latchFlag
  refine if_congr Iff.rfl rfl ?_
  split
  · next h => rw [h]; rfl
  · rfl

section

variable (h : c.oh.params.groupThreshold ≤ (c.qualifying key).length) (hg : c.groupTicket key = none)
include h hg

/-- A group that forms in a table with room. -/
theorem Core.examineGroup_gathers (hroom : c.tc.tickets.length < 256) (hn : (c.tc.tickets.map (·.number)).Nodup)
    (hfree : ∀ t ∈ c.tc.tickets, t.number ≠ c.tc.freeNumber 256 c.tc.counter) :
    let d := c.examineGroup key
    c.gathered d (c.numbered (c.newGroup key (c.qualifying key))) (c.qualifying key)
      ∧ d.tc.tickets.length = c.tc.tickets.length + 1 ∧ d.lines = c.lines ∧ Table.get [] d.gm.members key = [] := by
  obtain ⟨hgathered, hlength, hlines, -, hlists⟩ := Core.groupFormed_gathers (c := c.recorded key) (key := key)
    (fun m hm => Core.qualifying_ticket hn hm) hfree
  have he : c.examineGroup key = (c.recorded key).groupFormed key (c.qualifying key) :=
    (Core.examineGroup_forms h hg).trans (Core.formGroup_room (c := c.recorded key) (if_pos hroom) rfl _)
  rw [he]
  exact ⟨hgathered, hlength, hlines, hlists (c.recorded_listsOnly key)⟩

/-- In a table full of tickets none of which is PROVISIONAL no group forms. -/
theorem Core.examineGroup_refused (hfull : 256 ≤ c.tc.tickets.length) (hnone : ∀ t ∈ c.tc.tickets, t.state ≠ .provisional) :
    c.examineGroup key = (c.recorded key).updOh fun o => o.latchFlag .ticketsFull := by
  have hroom : (c.recorded key).makeRoom = ((c.recorded key).updOh fun o => o.latchFlag .ticketsFull, false) := by
    have hfind : (c.recorded key).tc.tickets.find? (fun t => decide (t.state = .provisional)) = none :=
      List.find?_eq_none.mpr fun t ht => by simpa using hnone t ht
    unfold Core.makeRoom
    rw [if_neg (show ¬(c.recorded key).tc.tickets.length < 256 from Nat.not_lt.mpr hfull), hfind]
  rw [Core.examineGroup_forms h hg, Core.formGroup, hroom]
  exact if_neg Bool.false_ne_true

end

/-- A number that no ticket holds is free in a table of fewer tickets too. -/
theorem Tc.freeNumber_of_subset {a b : Tc} (hsub : b.tickets ⊆ a.tickets) (k : Nat) {n : Nat}
    (hfree : ∀ t ∈ a.tickets, t.number ≠ a.freeNumber k n) : ∀ t ∈ b.tickets, t.number ≠ b.freeNumber k n := by
  induction k generalizing n with
  | zero => exact fun t ht => hfree t (hsub ht)
  | succ k ih =>
    unfold Tc.freeNumber at hfree ⊢
    split
    · next hb =>
      intro t ht he
      simpa [he] using List.find?_eq_none.mp (Option.isNone_iff_eq_none.mp hb) t ht
    · next hb =>
      refine ih ?_
      rw [Option.isNone_iff_eq_none, ← ne_eq, Option.ne_none_iff_exists'] at hb
      obtain ⟨t, ht⟩ := hb
      obtain ⟨hmem, hnumber⟩ := Tc.find_some ht
      have ha : ¬(a.find n).isNone = true := fun hnone => by
        simpa [hnumber] using List.find?_eq_none.mp (Option.isNone_iff_eq_none.mp hnone) t (hsub hmem)
      rwa [if_neg ha] at hfree

/-- A full table makes room by its oldest PROVISIONAL ticket. -/
theorem Core.makeRoom_evicts {before behind : List Ticket} (hfull : 256 ≤ c.tc.tickets.length) (he : c.tc.tickets = before ++ p :: behind)
    (hp : p.state = .provisional) (hbefore : ∀ t ∈ before, t.state ≠ .provisional) : c.makeRoom = (c.dropTicket p.number, true) := by
  have hfind : c.tc.tickets.find? (fun t => decide (t.state = .provisional)) = some p :=
    List.find?_eq_some_iff_append.mpr ⟨decide_eq_true hp, before, behind, he, fun t ht => by simpa using hbefore t ht⟩
  unfold Core.makeRoom
  rw [if_neg (Nat.not_lt.mpr hfull), hfind]

/-- A group that forms in place of a PROVISIONAL ticket. -/
theorem Core.examineGroup_evicts {before behind : List Ticket} (h : c.oh.params.groupThreshold ≤ (c.qualifying key).length)
    (hg : c.groupTicket key = none) (hfull : 256 ≤ c.tc.tickets.length) (hn : (c.tc.tickets.map (·.number)).Nodup)
    (he : c.tc.tickets = before ++ p :: behind) (hp : p.state = .provisional) (hbefore : ∀ t ∈ before, t.state ≠ .provisional)
    (hfree : ∀ t ∈ c.tc.tickets, t.number ≠ c.tc.freeNumber 256 c.tc.counter) :
    ∃ b g, Core.gathered b (c.examineGroup key) g (c.qualifying key) ∧ g.heads key ∧ g.state = .opened
      ∧ p ∉ (c.examineGroup key).tc.tickets ∧ (c.examineGroup key).tc.tickets.length = c.tc.tickets.length := by
  have hmem : p ∈ c.tc.tickets := by rw [he]; exact List.mem_append_right _ List.mem_cons_self
  have hread : c.ticket p.number = some p := Core.ticket_of_mem hn hmem
  have hdrops := (Core.Shows.refl (c.recorded key)).drop hread
  have htickets : ((c.recorded key).dropTicket p.number).tc.tickets = c.tc.tickets.filter fun u => decide (u.number ≠ p.number) :=
    Core.dropTicket_tickets (c := c.recorded key) hread
  have hexamine : c.examineGroup key = ((c.recorded key).dropTicket p.number).groupFormed key (c.qualifying key) :=
    (Core.examineGroup_forms h hg).trans (Core.formGroup_room (c := c.recorded key) (Core.makeRoom_evicts (c := c.recorded key) hfull he hp hbefore)
      (by simp only [Core.now, hdrops.time]) _)
  generalize (c.recorded key).dropTicket p.number = b at hdrops htickets hexamine
  have hfresh : ∀ t ∈ b.tc.tickets, t.number ≠ b.tc.freeNumber 256 b.tc.counter := by
    rw [hdrops.counter]
    exact Tc.freeNumber_of_subset (by rw [htickets]; exact List.filter_subset_self ..) 256 hfree
  have hmembers : ∀ m ∈ c.qualifying key, b.ticket m.number = some m := fun m hm => by
    rw [hdrops.ticket, Function.update_of_ne (Core.qualifying_number_ne hn hm hmem (.inr hp))]
    exact Core.qualifying_ticket hn hm
  obtain ⟨hgathered, hlength, -, hnumbers, -⟩ := Core.groupFormed_gathers (key := key) hmembers hfresh
  rw [← hexamine] at hgathered hlength hnumbers
  have hgone : (b.tc.tickets.map (·.number)) = (c.tc.tickets.map (·.number)).erase p.number := by
    rw [hdrops.numbers, hn.erase_eq_filter]
    exact List.filter_congr fun m _ => by simp [bne, beq_eq_decide]
  refine ⟨b, _, hgathered, ⟨rfl, rfl, rfl⟩, rfl, fun hin => ?_, ?_⟩
  · have hnodup : ((c.examineGroup key).tc.tickets.map (·.number)).Nodup := by
      rw [hnumbers, hgone]
      refine List.nodup_append.mpr ⟨hn.erase _, List.nodup_singleton _, fun m hm k hk hmk => ?_⟩
      rw [← hgone] at hm
      obtain ⟨v, hv, rfl⟩ := List.mem_map.mp hm
      exact hfresh v hv (hmk.trans (List.mem_singleton.mp hk))
    have hnum := List.mem_map_of_mem (f := (·.number)) hin
    rw [hnumbers, hgone, List.mem_append, List.mem_singleton] at hnum
    rcases hnum with hnum | hnum
    · exact (hn.mem_erase_iff.mp hnum).1 rfl
    · have hsame := (Core.ticket_of_mem hnodup hin).symm.trans (hnum ▸ hgathered.1)
      rw [Option.some.inj hsame] at hp
      cases hp
  · have hlen := congrArg List.length hgone
    rw [List.length_map, List.length_erase_of_mem (List.mem_map_of_mem hmem), List.length_map] at hlen
    omega

/-! ### A group is revived (R138) -/

/-- What a CLOSING group ticket is that is revived at this time, but for its notice. -/
def Ticket.revived (g : Ticket) (now : Nat) (members : List Ticket) : Ticket :=
  { g with
    state := .opened
    reopened := satSucc 15 g.reopened
    lastSeen := now
    severity := max g.severity (highestSeverity members)
    childCount := members.length }

theorem Core.examineGroup_revival (h : c.oh.params.groupThreshold ≤ (c.qualifying key).length) (hg : c.groupTicket key = some g)
    (hs : g.state = .closing) (hp : g.parent = none) (hn : (c.tc.tickets.map (·.number)).Nodup) :
    let d := c.examineGroup key
    c.gathered d (g.revived c.now (c.qualifying key)) (c.qualifying key)
      ∧ d.tc.tickets.length = c.tc.tickets.length ∧ Table.get [] d.gm.members key = [] := by
  obtain ⟨hmem, hkind, -⟩ := Core.groupTicket_some hg
  have hput := (Core.Shows.refl (c.recorded key)).put (f := fun g => g.revived c.now (c.qualifying key))
    (Core.ticket_of_mem hn hmem) fun _ => rfl
  have hlists := Core.putTicket_listsOnly (c.recorded_listsOnly key) g.number fun g => g.revived c.now (c.qualifying key)
  have hne : ∀ m ∈ c.qualifying key, m.number ≠ g.number := fun m hm =>
    Core.qualifying_number_ne hn hm hmem (.inl (by rw [hkind]; exact nofun))
  have hmembers : ∀ m ∈ c.qualifying key, (c.recorded key).ticket m.number = some m := fun m hm => Core.qualifying_ticket hn hm
  obtain ⟨hshows, hgathered⟩ := Core.Shows.gathers (b := c.recorded key) (g := g.revived c.now (c.qualifying key)) hput hp hmembers hne rfl
  rw [Core.examineGroup_revives h hg hs]
  refine ⟨hgathered, hshows.work.length, (Core.noticeDue_listsOnly (Core.takeChildren_listsOnly _ _ (fun m hm => ?_) hlists) _).get⟩
  rw [hput.ticket, Function.update_of_ne (hne m hm), hmembers m hm]
  rfl

end Sys2Proof.Machine
end

section
/-! PROOF of O60, continued: failures on a cable, with and without a group (R119, R137, R139–R141, R143). -/

namespace Sys2Proof.Machine

open Function (update)

variable {c d b : Core} {n key l : Nat} {t u g p : Ticket} {f : Family} {r : Request} {reason : Reason} {outcome : RunOutcome}
  {fault : Option FaultClass} {results : List StepResult} {degrading : Bool} {cls : FaultClass} {values : List LastValue}

/-! ### The ticket that reaches the threshold (R119, R136, R137) -/

/-- The record of a line's ticket of a family. -/
theorem Core.groupKey_line (hk : t.kind = .line) (hle : (c.line t.subject).group ≤ 126) (hf : t.cls.familyOf = some f) :
    c.groupKey t = some (2 * (c.line t.subject).group + f.index) := by
  obtain ⟨hgroup, hfam⟩ := Family.key_iff.mp (rfl : 2 * (c.line t.subject).group + f.index = _)
  exact Core.groupKey_eq_some.mpr ⟨hk, hle, hgroup, hfam ▸ hf⟩

/-- A ticket created now, which stands in a record, is one more that qualifies there. -/
theorem Core.qualifying_append (ht : d.tc.tickets = c.tc.tickets ++ [t]) (hgroup : ∀ k, (d.line k).group = (c.line k).group)
    (hnow : d.now = c.now) (hparams : d.oh.params = c.oh.params) (hstands : c.standsIn t = some key) (hseen : t.firstSeen = c.now) :
    (d.qualifying key).length = (c.qualifying key).length + 1 ∧ t ∈ d.qualifying key := by
  have hsame : d.standsIn = c.standsIn := by
    funext u
    simp only [Core.standsIn, Core.groupKey, hgroup]
  have hwindow : c.now - t.firstSeen ≤ c.oh.params.groupWindow := by omega
  refine ⟨?_, Core.mem_qualifying.mpr ⟨by simp [ht], hsame ▸ hstands, by rwa [hnow, hparams]⟩⟩
  unfold Core.qualifying
  rw [(sortBy_perm _ _).length_eq, (sortBy_perm _ _).length_eq, ht, List.filter_append, List.length_append, hsame, hnow, hparams]
  rw [List.filter_cons_of_pos (by rw [decide_eq_true hstands, decide_eq_true hwindow]; rfl)]
  rfl

theorem Core.examineOf_eq (h : (c.ticket n).bind c.standsIn = some key) : c.examineOf n = c.examineGroup key := by
  unfold Core.examineOf
  rw [h]

/-- A direct failure that makes the ticket that reaches the threshold: the ticket, its group, and the line's record. -/
theorem Core.direct_forms (hn : (c.tc.tickets.map (·.number)).Nodup) (hd : c.direct r outcome (some cls) false cls)
    (hl : (c.line r.line).ticket = none) (hkey : c.groupKey (c.newTicket r.line cls (valuesFrom results)) = some key)
    (hg : c.groupTicket key = none) (hthreshold : c.oh.params.groupThreshold ≤ (c.qualifying key).length + 1)
    (hroom : c.tc.tickets.length + 2 ≤ 256) (hcounter : 1 ≤ c.tc.counter ∧ c.tc.counter ≤ 65535) :
    let t := { c.numbered (c.newTicket r.line cls (valuesFrom results)) with noticePending := true }
    let d := c.handOver r outcome (some cls) results false
    ∃ (b : Core) (g : Ticket) (members : List Ticket), b.gathered d g members ∧ t ∈ members ∧ g.heads key ∧ g.state = .opened
      ∧ members.length = (c.qualifying key).length + 1 ∧ d.tc.tickets.length = c.tc.tickets.length + 2
      ∧ d.line r.line = { c.line r.line with ticket := some t.number, unticketed := false } := by
  intro t d
  have hfree := Tc.freeNumber_fresh hcounter (by omega)
  have hent := c.enterLine_entered r.line (c.newTicket r.line cls (valuesFrom results))
  have hline : (c.enterLine r.line (c.newTicket r.line cls (valuesFrom results))).line r.line =
      { c.line r.line with ticket := some t.number, unticketed := false } := (Core.line_updLine ..).trans (if_pos rfl)
  have halone : d = (c.enterLine r.line (c.newTicket r.line cls (valuesFrom results))).standAlone t.number := by
    refine (Core.handOver_direct_create hd hl).trans (Core.createLine_alone (by omega) ?_)
    rw [hkey, Option.bind_some, Core.liveGroup_none hg]
  generalize c.enterLine r.line (c.newTicket r.line cls (valuesFrom results)) = e at hent hline halone
  have hnotice := (Core.Shows.refl e).notice (n := t.number) ((congrFun (hent.ticket hfree) _).trans (Function.update_self ..)) rfl
  have htickets : (e.noticeDue t.number).tc.tickets = c.tc.tickets ++ [t] := hent.tickets_of_shows hfree hn hnotice
  have hstands : c.standsIn t = some key := Core.standsIn_eq_some.mpr ⟨.inl rfl, rfl, hkey⟩
  rw [Core.standAlone] at halone
  generalize e.noticeDue t.number = b at hnotice htickets halone
  have hgroups (k : Nat) : (b.line k).group = (c.line k).group := by rw [hnotice.work.line, hent.group]
  have hexamine : d = b.examineGroup key := by
    have hsame : b.standsIn t = c.standsIn t := by simp only [Core.standsIn, Core.groupKey, hgroups]
    refine halone.trans (Core.examineOf_eq ?_)
    rw [hnotice.ticket, Function.update_self]
    exact hsame.trans hstands
  have hparams : b.oh.params = c.oh.params := hnotice.work.params.trans hent.params
  obtain ⟨hlength, hmem⟩ := Core.qualifying_append htickets hgroups (hnotice.work.now.trans hent.now) hparams hstands rfl
  have hlen : b.tc.tickets.length = c.tc.tickets.length + 1 := hnotice.work.length.trans hent.length
  have hgroup : b.groupTicket key = none := Core.groupTicket_eq_none.mpr fun u hu hheads => by
    rw [htickets, List.mem_append, List.mem_singleton] at hu
    rcases hu with hu | rfl
    · exact Core.groupTicket_eq_none.mp hg u hu hheads
    · exact absurd hheads.1 nofun
  have hfresh := Tc.freeNumber_fresh (tc := b.tc) (by rw [hnotice.work.counter, hent.counter]; exact nextNumber_range _) (by omega)
  obtain ⟨hgathered, hlen', hlines, -⟩ := Core.examineGroup_gathers (by rw [hparams, hlength]; exact hthreshold) hgroup (by omega)
    (hnotice.work.nodup (hent.nodup hfree hn)) hfresh
  rw [← hexamine] at hgathered hlen' hlines
  refine ⟨b, _, _, hgathered, hmem, ⟨rfl, rfl, rfl⟩, rfl, hlength, by omega, ?_⟩
  rw [← hline, ← hnotice.work.line, Core.line, Core.line, hlines]

/-! ### A standing group adopts (R139) -/

section

variable (hn : (c.tc.tickets.map (·.number)).Nodup) (hg : c.groupTicket key = some g) (hs : g.state ≠ .closing) (hp : g.parent = none)
include hn hg hs hp

/-- A ticket created on the cable of a standing group. -/
theorem Core.createLine_adopted (hkey : c.groupKey (c.newTicket l cls values) = some key) (hroom : c.tc.tickets.length < 256)
    (hfree : ∀ t ∈ c.tc.tickets, t.number ≠ c.tc.freeNumber 256 c.tc.counter) (provisional : Bool) :
    let d := c.createLine l cls provisional values
    c.adopted d (c.numbered (c.newTicket l cls values)) g
      ∧ d.line l = { c.line l with ticket := some (c.numbered (c.newTicket l cls values)).number, unticketed := false } := by
  intro d
  obtain ⟨hmem, hkind, -⟩ := Core.groupTicket_some hg
  have hent := c.enterLine_entered l (c.newTicket l cls values)
  have hread := hent.ticket hfree
  have hgroup : c.ticket g.number = some g := Core.ticket_of_mem hn hmem
  have hne : g.number ≠ (c.numbered (c.newTicket l cls values)).number := hfree g hmem
  have hadopts : d = (c.enterLine l (c.newTicket l cls values)).adopt (c.numbered (c.newTicket l cls values)).number g :=
    Core.createLine_adopts hroom (by rw [hkey, Option.bind_some, Core.liveGroup_some hg hs]) provisional
  have hadopt := (Core.Shows.refl (c.enterLine l (c.newTicket l cls values))).adopt (n := (c.numbered (c.newTicket l cls values)).number)
    (g := g) ((congrFun hread _).trans (Function.update_self ..)) (by rw [hread, Function.update_of_ne hne, hgroup]) hne hp
  rw [hadopts]
  exact ⟨Core.Shows.adopted ⟨.refl _, hread, hent.notices⟩ hent.now hgroup hne hp,
    (hadopt.work.line l).trans ((Core.line_updLine ..).trans (if_pos rfl))⟩

/-- A ticket that is changed and leaves PROVISIONAL. -/
theorem Core.putTicket_openAdopted (ht : c.ticket t.number = some t) (hk : t.kind = .line) {x : Ticket → Ticket}
    (hx : ∀ u, (x u).number = u.number) (hxk : (x t).kind = .line) (hkey : c.groupKey (x t) = some key) :
    c.adopted ((c.putTicket t.number x).openProvisional t.number) (x t) g := by
  have hput := (Core.Shows.refl c).put ht hx
  have hgt := (Core.groupTicket_put hn ht (by rw [hk]; exact nofun) (by rw [hxk]; exact nofun) key).trans hg
  rw [← hx t] at hput hgt ⊢
  exact hput.openAdopted hn hxk hkey hgt hs hp

end

/-- What a ticket of class k is that a failure updates at this time, its class raised or not. -/
def Ticket.failed (t : Ticket) (now : Nat) (cls k : FaultClass) (values : List LastValue) (raised : Bool) : Ticket :=
  { t with
    lastSeen := now
    occurrences := min 255 (t.occurrences + 1)
    unconfirmed := false
    lastValues := values
    cls := .fault (if raised then cls else k)
    severity := if raised then cls.severity else t.severity }

theorem Ticket.update_failed {k : FaultClass} (hk : t.cls = .fault k) (now : Nat) (cls : FaultClass) (values : List LastValue) :
    t.update now cls (some values) = t.failed now cls k values (decide (t.severity < cls.severity)) := by
  simp only [Ticket.update_eq, Ticket.failed, decide_eq_true_eq, hk, Option.getD_some, apply_ite TicketClass.fault]

theorem Ticket.confirmed_failed {k : FaultClass} (hk : t.cls = .fault k) (now : Nat) (cls : FaultClass) (values : List LastValue) :
    t.confirmed now cls values =
      t.failed now cls k values (decide (t.severity < cls.severity ∨ ¬(k = cls ∨ (k.family = cls.family ∧ k.family ≠ none)))) := by
  have hsame : sameFamily t.cls cls = true ↔ k = cls ∨ (k.family = cls.family ∧ k.family ≠ none) := by
    rw [hk]
    unfold sameFamily
    rw [Bool.or_eq_true, decide_eq_true_eq, Bool.and_eq_true, decide_eq_true_eq, Option.isSome_iff_ne_none, TicketClass.fault.injEq]
    exact or_congr_right ⟨fun ⟨hne, he⟩ => ⟨he, fun h => hne (he.symm.trans h)⟩, fun ⟨he, hne⟩ => ⟨fun h => hne (he.trans h), he⟩⟩
  rw [Ticket.confirmed_eq t now cls values
    (raised := decide (t.severity < cls.severity ∨ ¬(k = cls ∨ (k.family = cls.family ∧ k.family ≠ none))))]
  · simp only [Ticket.failed, hk, apply_ite TicketClass.fault]
  · rw [decide_eq_true_eq, ← hsame, Bool.not_eq_true, or_comm]

/-- A PROVISIONAL ticket of a standing group's cable, updated by a direct failure or by a CONFIRM retest judged FAIL. -/
theorem Core.failed_adopted {k : FaultClass} {raised : Bool} (hn : (c.tc.tickets.map (·.number)).Nodup)
    (hle : (c.line t.subject).group ≤ 126) (hg : c.groupTicket (2 * (c.line t.subject).group + f.index) = some g) (hs : g.state ≠ .closing)
    (hp : g.parent = none) (ht : c.ticket t.number = some t) (hk : t.kind = .line) (hf : (if raised then cls else k).family = some f)
    {x : Ticket → Ticket} (hx : ∀ u, (x u).number = u.number) (he : x t = t.failed c.now cls k values raised) :
    c.adopted ((c.putTicket t.number x).openProvisional t.number) (t.failed c.now cls k values raised) g := by
  have hkey : c.groupKey (t.failed c.now cls k values raised) = some (2 * (c.line t.subject).group + f.index) :=
    Core.groupKey_line hk hle hf
  rw [← he] at hkey ⊢
  exact Core.putTicket_openAdopted hn hg hs hp ht hk hx (by rw [he]; exact hk) hkey

/-! ### Children of a group (R140, R143) -/

/-- The class of an updated ticket is of its old family, unless a class of another family raises it. -/
theorem Ticket.update_family {k : FaultClass} (hk : t.cls = .fault k) (h : cls.family = k.family ∨ cls.severity ≤ t.severity) (now : Nat)
    (values : Option (List LastValue)) : (t.update now cls values).cls.familyOf = t.cls.familyOf := by
  rw [Ticket.update_eq]
  dsimp only
  split
  · next hlt => rw [hk]; exact h.resolve_right (Nat.not_le.mpr hlt)
  · rfl

/-- A class of another family that raises a ticket moves it to another record. -/
theorem Core.groupKey_update_ne {k : FaultClass} (hline : t.kind = .line) (hle : (c.line t.subject).group ≤ 126) (hk : t.cls = .fault k)
    (hraised : t.severity < cls.severity) (hfamily : cls.family ≠ k.family) (now : Nat) (values : Option (List LastValue)) :
    c.groupKey (t.update now cls values) ≠ c.groupKey t := by
  rw [Ticket.update_eq]
  refine Core.groupKey_ne hline rfl hle ?_ hline
  rw [hk]
  dsimp only
  rw [if_pos hraised]
  exact hfamily

section

variable (h : c.ticket t.number = some t) (hchild : t.parent = some g.number) (hg : c.ticket g.number = some g) (hkind : g.kind = .group)
  (hp : g.parent = none) (hline : t.kind = .line)
include h hchild hg hkind hp hline

/-- A failure that leaves a child in its record: the group is shown the severity, and nothing else happens (R140). -/
theorem Core.failure_child_shown {k : FaultClass} {values : Option (List LastValue)} {direct : Bool} (hcls : t.cls = .fault k)
    (hs : t.state = .opened ∨ t.state = .acknowledged) (hfamily : cls.family = k.family ∨ cls.severity ≤ t.severity) :
    let d := c.failure t.number cls values direct
    let shown := if t.severity < cls.severity then cls.severity else 0
    d.ticket t.number = some (t.update c.now cls values)
      ∧ d.ticket g.number = some { g with
          severity := max g.severity shown
          noticePending := g.noticePending || decide (g.severity < shown) }
      ∧ d.tc.notices = c.tc.notices ++ (if g.severity < shown ∧ g.noticePending = false then [g.number] else [])
      ∧ ∀ m, m ≠ t.number → m ≠ g.number → d.ticket m = c.ticket m := by
  intro d shown
  have hne := Core.parent_number_ne h hg hkind hline
  have hstays := Core.failure_child_stays (direct := direct) h hchild hg hkind hp hline hs
    (Core.groupKey_congr (by rw [Ticket.update_eq]) (by rw [Ticket.update_eq]) (Ticket.update_family hcls hfamily c.now values))
  refine ⟨?_, ?_, ?_, fun m hm hmg => ?_⟩
  · rw [hstays.ticket, Function.update_of_ne hne.symm, Function.update_self]
  · rw [hstays.ticket, Function.update_self]
    rfl
  · rw [hstays.notices]
    simp [shown]
  · rw [hstays.ticket, Function.update_of_ne hmg, Function.update_of_ne hm]

/-- A VERIFY retest judged GOOD takes a child from the table (R143). -/
theorem Core.verifyGood_child :
    let d := c.verifyGood t.number
    d.ticket t.number = none
      ∧ d.ticket g.number = some { g.childLess with noticePending := g.noticePending || decide (g.childCount ≤ 1) }
      ∧ d.tc.notices = c.tc.notices.filter (fun m => decide (m ≠ t.number))
          ++ (if g.childCount ≤ 1 ∧ g.noticePending = false then [g.number] else [])
      ∧ (∀ m, m ≠ t.number → m ≠ g.number → d.ticket m = c.ticket m)
      ∧ ((c.line t.subject).ticket = some t.number → (d.line t.subject).ticket = none) := by
  intro d
  have hne := Core.parent_number_ne h hg hkind hline
  have hput := (Core.Shows.refl c).put (f := fun t => { t with state := .closing, retest := none }) h fun _ => rfl
  have hdrop := hput.drop (Function.update_self ..)
  have hd : d = ((c.putTicket t.number fun t => { t with state := .closing, retest := none }).dropTicket t.number).childGone g.number := by
    show c.verifyGood t.number = _
    unfold Core.verifyGood
    rw [h]
    dsimp only
    rw [hchild]
  generalize (c.putTicket t.number fun t => { t with state := .closing, retest := none }).dropTicket t.number = b at hdrop hd
  have hread : b.ticket = update c.ticket t.number none := hdrop.ticket.trans (Function.update_idem ..)
  have hgone := (Core.Shows.refl b).childGone (g := g) (by rw [hread, Function.update_of_ne hne, hg]) hp
  rw [← hd, hread] at hgone
  refine ⟨?_, ?_, ?_, fun m hm hmg => ?_, fun hl => ?_⟩
  · rw [hgone.ticket, Function.update_of_ne hne.symm, Function.update_self]
  · rw [hgone.ticket, Function.update_self]
  · rw [hgone.notices, hdrop.notices]
    simp
  · rw [hgone.ticket, Function.update_of_ne hmg, Function.update_of_ne hm]
  · rw [hgone.work.line, hdrop.line, if_pos ⟨hline, rfl, hl⟩]

end

/-! ### LOAD LINE moves a child's line (R141) -/

/-- A line that has left the cable of its ticket's group: the group releases the ticket. -/
theorem Core.lineRegrouped_releases (hn : (c.tc.tickets.map (·.number)).Nodup) (hl : (c.line l).ticket = some t.number)
    (h : c.ticket t.number = some t) (hchild : t.parent = some g.number) (hg : c.ticket g.number = some g) (hkind : g.kind = .group)
    (hp : g.parent = none) (hline : t.kind = .line) (hmoved : g.subject ≠ (c.line t.subject).group) (hfar : c.Remote t.number t.subject) :
    c.released (c.lineRegrouped l) t g 0 := by
  have hreport : Core.Shows c (c.gmReport t.number) (update c.ticket t.number (some t)) c.tc.notices := by
    rw [Function.update_eq_self_iff.mpr h.symm]
    exact (Core.Shows.refl c).setGroups _
  have haway : (c.gmReport t.number).childAtHome t = false := by
    refine Bool.and_eq_false_iff.mpr (.inr (decide_eq_false fun hhome => ?_))
    obtain ⟨k, hk, hnumber⟩ := Option.map_eq_some_iff.mp (hhome.symm.trans hchild)
    obtain ⟨key, hkey, hgroup⟩ := Option.bind_eq_some_iff.mp hk
    obtain ⟨hmem, -, hsubject, -⟩ := Core.groupTicket_some (c := c) hgroup
    obtain rfl : k = g := Option.some.inj ((Core.ticket_of_mem hn hmem).symm.trans (hnumber ▸ hg))
    rw [hreport.work.groupKey] at hkey
    exact hmoved (hsubject.trans (Core.groupKey_eq_some.mp hkey).2.2.1.symm)
  have he : c.lineRegrouped l = (c.gmReport t.number).releaseChild t.number := by
    have hread : (c.gmReport t.number).ticket t.number = some t := h
    unfold Core.lineRegrouped
    simp only [hl, hread, hchild, haway, Option.isNone_some, Bool.false_eq_true, if_false]
  rw [he]
  exact hreport.released_unshown hg (Core.parent_number_ne h hg hkind hline) hchild hkind hp hfar

/-- The same, by a LOAD LINE that has just moved the line of its only ticket. -/
theorem Core.updLine_releases {x : LineSetting} (hn : (c.tc.tickets.map (·.number)).Nodup) (hl : (c.line l).ticket = some t.number)
    (h : c.ticket t.number = some t) (hchild : t.parent = some g.number) (hg : c.ticket g.number = some g) (hkind : g.kind = .group)
    (hp : g.parent = none) (hline : t.kind = .line) (hsubject : t.subject = l)
    (honly : ∀ u ∈ c.tc.tickets, u.kind = .line → u.subject = l → u = t) (hmoved : g.subject ≠ x.group)
    (hfar : ∀ key, key / 2 = x.group → (c.qualifying key).length + 1 < c.oh.params.groupThreshold) :
    c.released ((c.updLine l x.put).lineRegrouped l) t g 0 := by
  have hset : (c.updLine l x.put).line l = x.put (c.line l) := (Core.line_updLine ..).trans (if_pos rfl)
  have hgroup : ((c.updLine l x.put).line t.subject).group = x.group := by rw [hsubject, hset]; rfl
  have hbeside : Core.Beside c (c.updLine l x.put) t.number := ⟨rfl, rfl, hn, fun u hmem hne hu => ⟨hmem, by
    rw [Core.line_updLine, if_neg fun he => hne (congrArg Ticket.number (honly u hmem hu he))]⟩⟩
  exact Core.lineRegrouped_releases (c := c.updLine l x.put) hn (by rw [hset]; exact hl) h hchild hg hkind hp hline (hgroup.symm ▸ hmoved)
    ⟨c, hbeside, fun key hkey => hfar key (hkey.trans hgroup)⟩

/-- A LOAD LINE of one good record that moves its line to another group. -/
theorem State.loadLine_moves {s : State} {first : BitVec 16} {a : LineArg} (ref : Byte) (ht : s.Takes) (hsave : s.csi.saving = none)
    (hfirst : first.toNat ≤ 8191) (hgroup : a.group.toNat ≤ 127) (henabled : a.routineEnabled.toNat ≤ 1)
    (hprog : a.programme.toNat ≤ 31 ∨ a.programme = 0xFF) (hmoves : (s.line first.toNat).group ≠ a.group.toNat) :
    ∃ u, exec (.loadLine ref first [a]) s = .next u
      ∧ u.core.tc = ((s.core.updLine first.toNat (settingOf a).put).lineRegrouped first.toNat).tc := by
  have hjudge : ∀ x ∈ numberedLines first [a], judgeNumberedLine x = .ok (numberedSetting x) := by
    intro x hx
    obtain rfl := List.mem_singleton.mp hx
    rw [judgeNumberedLine, if_neg (Nat.not_lt.mpr hfirst), judgeLine_of_good hgroup henabled hprog]
    rfl
  have hans : s.answer (.loadLine ref first [a]) .accepted = s.withUpFrame (s.answerFrame (.loadLine ref first [a]) .accepted []) :=
    State.answer_eq s rfl .accepted []
  have hexec : exec (.loadLine ref first [a]) s =
      .next ((s.withUpFrame (s.answerFrame (.loadLine ref first [a]) .accepted [])).applyLines [(first.toNat, settingOf a)]).finish := by
    refine (State.orderCommand_of_takes ht _ _).trans ?_
    rw [if_neg (by rw [List.length_singleton]; omega), State.loadSome_of_ok hsave _ (by exact List.cons_ne_nil _ _) hjudge, hans]
    rfl
  have hquiet := ht.quiet.withUpFrame (s.answerFrame (.loadLine ref first [a]) .accepted [])
  generalize hs : s.withUpFrame (s.answerFrame (.loadLine ref first [a]) .accepted []) = v at hexec hquiet
  have hone : v.applyLines [(first.toNat, settingOf a)] =
      v.updCore fun c => (c.updLine first.toNat (settingOf a).put).lineRegrouped first.toNat := by
    have hv : (v.line first.toNat).group ≠ (settingOf a).group := by rw [← hs]; exact hmoves
    simp only [State.applyLines, List.filter_cons, decide_eq_true_eq]
    rw [if_pos hv]
    rfl
  have hready := (v.applyLines_kept [(first.toNat, settingOf a)]).core.oh.ready.trans hquiet.ready
  rw [hone] at hexec hready
  rw [State.finish_of_settled hready hquiet.settled hquiet.latch] at hexec
  refine ⟨_, hexec, ?_⟩
  rw [← hs]
  rfl

end Sys2Proof.Machine

open Sys2Proof Sys2Proof.Machine in
/-- Settles O60: a group's formation and revival are gatherings of its qualifying tickets (`Core.Shows.gathers`), and each failure or retest on
its cable is one adoption, one release or one showing of a severity. -/
theorem groupFormsAtItsThreshold : Obligations.GroupFormsAtItsThreshold := by
  refine ⟨fun k => by cases k <;> decide, fun key c => ⟨fun t => Core.mem_qualifying_iff, c.qualifying_sorted key,
      fun hn => Core.qualifying_nodup hn key, fun g hg => Core.groupTicket_some hg,
      fun hg g hmem => Core.groupTicket_eq_none.mp hg g hmem.1 hmem.2⟩,
    fun ts => ⟨fun t ht => le_highestSeverity ht, exists_highestSeverity⟩, fun key c h => ?below, fun key c h hg hroom hn hfree => ?forms,
    fun key c h hg hfull hn => ⟨fun hnone => ?refused, fun p before behind he hp hbefore hfree => ?evicts⟩,
    fun key g c h hg hs hp hn => ?revives, fun r outcome cls f results c hn hd hf hle hl => ?direct,
    fun r outcome cls f results g c hn hle hg hs hp => ⟨fun hr => ⟨fun hf hl hroom hfree => ?creates,
        fun t k hd hl ht hk hsub hcls hstate => ?opens⟩,
      fun t k hm hcls hstate => ⟨?confirms, fun hf hw hcomplete habort => ?givesUp⟩⟩,
    fun r outcome fault results degrading t g k c hn ht hk hsub hcls hchild hg hgk hp hfar => ?children,
    fun ref first r t g s hs hsave hfirst hgroup henabled hprog hn hl ht hk hsub honly hchild hg hgk hp hmoved hmoves hfar => ?moves⟩
  case below =>
    rw [Core.examineGroup_records h]
    exact ⟨rfl, (Table.get_set ..).trans (if_pos rfl)⟩
  case forms =>
    obtain ⟨hgathered, hlength, -, hlists⟩ := Core.examineGroup_gathers h hg hroom hn hfree
    obtain ⟨hgroup, hmembers, -, hformed, -⟩ := id hgathered
    refine ⟨⟨_, (Tc.find_some hgroup).1, rfl, rfl, rfl, rfl, rfl, rfl, rfl, rfl, rfl, rfl, rfl, rfl, rfl, rfl, rfl, rfl, fun m hm => ?_,
      hgathered⟩, hformed, hlength, hlists⟩
    exact ⟨_, (Tc.find_some (hmembers m hm)).1, rfl, rfl, rfl, rfl, rfl⟩
  case refused =>
    rw [Core.examineGroup_refused h hg hfull hnone]
    exact ⟨rfl, rfl, Oh.latchFlag_ticketsFull _⟩
  case evicts =>
    obtain ⟨b, g, ⟨hgroup, hmembers, -⟩, ⟨hkind, hsubject, hcls⟩, hstate, hgone, hlength⟩ :=
      Core.examineGroup_evicts h hg hfull hn he hp hbefore hfree
    refine ⟨hgone, hlength, _, (Tc.find_some hgroup).1, hkind, hsubject, hcls, hstate, rfl, fun m hm => ?_⟩
    exact ⟨_, (Tc.find_some (hmembers m hm)).1, rfl, rfl⟩
  case revives =>
    have hrevival := Core.examineGroup_revival h hg hs hp hn
    unfold Ticket.revived at hrevival
    rw [satSucc_eq] at hrevival
    exact hrevival
  case direct =>
    intro key d hg hthreshold hroom hlow hhigh
    obtain ⟨b, g, members, ⟨hg', hmembers, -, hformed, -⟩, hmem, ⟨hkind, hsubject, hcls⟩, hstate, hcount, hlength, hline⟩ :=
      Core.direct_forms (results := results) hn hd hl (Core.groupKey_line rfl hle hf) hg hthreshold hroom ⟨hlow, hhigh⟩
    obtain ⟨hgroup, hfamily⟩ := Family.key_iff.mp (rfl : key = key)
    exact ⟨_, (Tc.find_some (hmembers _ hmem)).1, _, (Tc.find_some hg').1, congrArg LineRec.ticket hline, rfl, rfl, rfl, rfl, rfl,
      rfl, rfl, hkind, hsubject.trans hgroup.symm, hcls.trans (congrArg TicketClass.family hfamily.symm), hstate, hcount, rfl, hformed,
      hlength⟩
  case creates =>
    have hcreate : ∃ provisional, c.handOver r outcome (some cls) results false = c.createLine r.line cls provisional (valuesFrom results) :=
      hr.elim (fun hr => ⟨true, Core.handOver_routine_create hr hl⟩) fun hd => ⟨false, Core.handOver_direct_create hd hl⟩
    obtain ⟨provisional, hcreate⟩ := hcreate
    obtain ⟨hadopted, hline⟩ := Core.createLine_adopted hn hg hs hp (Core.groupKey_line rfl hle hf) hroom hfree (values := valuesFrom results)
      provisional
    rw [hcreate]
    exact ⟨hadopted, congrArg LineRec.ticket hline, congrArg LineRec.unticketed hline⟩
  case opens =>
    intro raised hf
    rw [← hsub] at hle hg
    rw [Core.handOver_direct_ticket hd hl, Core.failure_provisional ht hstate]
    exact Core.failed_adopted hn hle hg hs hp ht hk hf (x := fun t => t.update c.now cls (some (valuesFrom results)))
      (fun u => by rw [Ticket.update_eq]) (Ticket.update_failed hcls ..)
  case confirms =>
    intro raised hf
    obtain ⟨-, -, -, ht, hk, hsub, -⟩ := id hm
    rw [← hsub] at hle hg
    rw [Core.handOver_confirm_fail hm, Core.confirmFail_eq]
    exact Core.failed_adopted hn hle hg hs hp ht hk hf (x := fun t => t.confirmed c.now cls (valuesFrom results))
      (fun u => (u.confirmed_fields ..).1) (Ticket.confirmed_failed hcls ..)
  case givesUp =>
    obtain ⟨-, -, -, ht, hk, hsub, v, hv, hreason, -⟩ := id hm
    obtain ⟨w, hw, hattempts⟩ := hw
    obtain rfl := Option.some.inj (hw.symm.trans hv)
    rw [← hsub] at hle hg
    rw [Core.handOver_unjudged hm (.inl rfl) hcomplete, if_neg habort, Core.retestAttempt_givenUp ht hw hreason hattempts]
    exact Core.putTicket_openAdopted hn hg hs hp ht hk (x := fun t => { t with unconfirmed := true }) (fun _ => rfl) hk
      (Core.groupKey_line (t := { t with unconfirmed := true }) hk hle (by rw [hcls]; exact hf))
  case children =>
    intro d updated again
    have hremote : c.Remote t.number t.subject := hsub ▸ Core.remote_of hn hfar _
    have hupdated (cls : FaultClass) : updated cls = t.update c.now cls (if degrading then none else some (valuesFrom results)) :=
      (Ticket.update_handed ..).symm
    have hagain (cls : FaultClass) : again cls = (t.update c.now cls (if degrading then none else some (valuesFrom results))).reopen := by
      rw [← hupdated, Ticket.reopen_eq]
    refine ⟨fun cls hl hd => ?_, fun hm hdegrading hstate => ⟨fun cls hfault => ?_, fun hfault hcomplete => ?_,
      fun hfault hcomplete habort w hw => ?_⟩⟩
    · obtain ⟨direct, hhand⟩ := Core.handOver_failure (outcome := outcome) (results := results) hl hd
      intro shown
      rw [show d = _ from hhand, hupdated, hagain]
      refine ⟨fun hstate => ⟨fun hraised hfamily hle => ?_, fun hfamily => ?_⟩,
        Core.failure_child_reopened ht hchild hg hgk hp hk hremote⟩
      · exact Core.failure_child_released ht hchild hg hgk hp hk hremote hstate
          (Core.groupKey_update_ne hk (hsub.symm ▸ hle) hcls hraised hfamily _ _)
      · exact Core.failure_child_shown ht hchild hg hgk hp hk hcls hstate hfamily
    · subst hdegrading hfault
      rw [show d = _ from Core.handOver_verify_fail hm, hagain]
      exact Core.failure_child_reopened ht hchild hg hgk hp hk hremote hstate
    · subst hdegrading hfault hcomplete
      rw [show d = _ from Core.handOver_verify_good hm, ← hsub]
      exact Core.verifyGood_child ht hchild hg hgk hp hk
    · subst hdegrading hfault
      obtain ⟨-, -, -, -, -, -, v, hv, hreason, -⟩ := id hm
      obtain rfl := Option.some.inj (hw.symm.trans hv)
      rw [show d = _ from Core.handOver_unjudged hm (.inr rfl) hcomplete, if_neg habort,
        Core.retestAttempt_again ht hw (by rw [hreason]; exact fun hconfirm => nomatch hconfirm.1), hreason]
      refine ((Core.Shows.refl c).put ht ?_).becomesQuietly
      exact fun _ => rfl
  case moves =>
    obtain ⟨u, hexec, htc⟩ := State.loadLine_moves ref hs hsave hfirst hgroup henabled hprog hmoves
    have hreleases := Core.updLine_releases (x := settingOf r) hn hl ht hchild hg hgk hp hk hsub honly hmoved hfar
    refine ⟨u, hexec, ?_⟩
    unfold Core.released Core.ticket at hreleases ⊢
    rw [htc]
    exact hreleases
end
